-- ==== Sys2Proof/Word.lean ====
section
/-! DEFINITION. Word types and unit numbers of the ASG4 (spec 00_scope.md R3, R4, R13). -/

namespace Sys2Proof

/-- One byte. -/
abbrev Byte := BitVec 8
/-- One state word, and one 32-bit word of the data path. -/
abbrev Word := BitVec 32
/-- Basin 0-7 (R13). -/
abbrev BasinId := Fin 8
/-- Context within a basin (R22, Table 1.2). -/
abbrev CtxId := Fin 4
/-- Physical tile number, row x 34 + column (R13). -/
abbrev TileId := Fin 1088
/-- Fabric link (R363). -/
abbrev LinkId := Fin 96
/-- LPDDR5X or NAND channel (R13). -/
abbrev ChanId := Fin 32
/-- Pound index within its home basin, served by the sequencer of the same number (R95). -/
abbrev PoundId := Fin 16
/-- Slice ordinal of a basin (R383). -/
abbrev Ordinal := Nat
/-- Rack time in ticks of 10 ns (R3). -/
abbrev Tick := Nat

end Sys2Proof
end

