-- ==== Sys2Proof/Syntax.lean ====
section
/-! DEFINITION. The commands and events of the ASG4: one constructor of `Instr` for each row of
spec/opcode_table.json, with the operands that the spec's text gives the row. A Rinzan command carries its header
(Table 11.6) and its parameters (chapter 12); an event carries what the world outside the device, or a part of the
device that the spec leaves to firmware or to the data, decides (what a message holds, what a sensor reads). -/

namespace Sys2Proof

/-- Carriage of a Rinzan packet (R397, R425). -/
inductive Carriage where
  | ethernet | i3c
  deriving DecidableEq, Repr

/-- The other end of a datagram (R397, R423): an IPv6 address or an IPv4-mapped one, and a UDP port; 0 and 0 over I3C. -/
structure Peer where
  address : BitVec 128
  port    : BitVec 16
  deriving DecidableEq, Repr

/-- Rinzan header of a command (Table 11.6), with the carriage, the UDP priority it came on (R398) and its source (R397). -/
structure Hdr where
  session   : BitVec 16
  context   : BitVec 8
  mask      : BitVec 8
  seq       : BitVec 32
  counter   : BitVec 64
  timeout   : BitVec 16
  notBefore : BitVec 64
  carriage  : Carriage
  priority  : BitVec 3
  peer      : Peer
  deriving DecidableEq, Repr

/-- Session key plaintext (Table 11.8), as RSA-OAEP under the identity key decrypts it. -/
structure KeyPlain where
  key      : List Byte
  role     : Byte
  context  : Byte
  basins   : Byte
  reserved : Byte
  notAfter : BitVec 64
  ticket   : BitVec 128
  deriving DecidableEq, Repr

/-- STORE_BEGIN parameters (Table 12.5). -/
structure StoreBeginP where
  model    : BitVec 32
  edition  : BitVec 16
  mode     : Byte
  shards   : BitVec 32
  intakeMs : BitVec 32
  bytes    : BitVec 64
  digest   : BitVec 256
  deriving DecidableEq, Repr

/-- CREATE_CONTEXT parameters (Table 12.7). -/
structure CreateCtxP where
  slots  : Byte
  store  : Byte
  share  : Byte
  ways   : BitVec 16
  barges : BitVec 16
  pages  : BitVec 32
  key    : List Byte
  deriving DecidableEq, Repr

/-- Balance policy record (Table 9.7). -/
structure BalanceP where
  evalTicks        : BitVec 32
  holdTicks        : BitVec 32
  minPrefill       : BitVec 16
  maxPrefill       : BitVec 16
  queueHigh        : BitVec 32
  queueLow         : BitVec 32
  firstLateHigh    : BitVec 16
  nextLateHigh     : BitVec 16
  mixedPrefillRows : BitVec 16
  deriving DecidableEq, Repr

/-- SUBMIT parameters (Table 12.9). -/
structure SubmitP where
  requestId   : BitVec 64
  promptLen   : BitVec 32
  genLimit    : BitVec 32
  firstBudget : BitVec 32
  nextBudget  : BitVec 32
  holdTicks   : BitVec 32
  stopToken   : BitVec 32
  priority    : Byte
  latePolicy  : Byte
  draftReq    : Byte
  flags       : Byte
  temperature : BitVec 32
  topP        : BitVec 32
  topK        : BitVec 16
  tokens      : List (BitVec 32)
  deriving DecidableEq, Repr

/-- APPEND parameters (Table 12.8). -/
structure AppendP where
  entry      : BitVec 16
  requestId  : BitVec 64
  genLimit   : BitVec 32
  turnTokens : BitVec 32
  tokens     : List (BitVec 32)
  deriving DecidableEq, Repr

/-- One step of SET_RAMP_PLAN (Table 12.11). -/
structure PlanStepP where
  start : BitVec 64
  cap   : BitVec 16
  slew  : BitVec 16
  deriving DecidableEq, Repr

/-- The 55 Rinzan commands with their parameters (chapter 12), and a packet whose opcode is undefined or whose parameters do not have
the layout of its opcode (R428, R430). -/
inductive HostCmd where
  | openSession (cipher sig : List Byte)
  | closeSession (flags : Byte)
  | rotateKey (cipher : List Byte)
  | setNoticeTarget (carriage mask : Byte) (port : BitVec 16) (address : BitVec 128)
  | readState (address : BitVec 32) (words : BitVec 16)
  | writeState (address : BitVec 32) (values : List (BitVec 32))
  | storeBegin (p : StoreBeginP)
  | storeShard (model : BitVec 32) (edition : BitVec 16) (shard piece : BitVec 32) (data : List Byte)
  | storeCommit (model : BitVec 32) (edition : BitVec 16)
  | storeDelete (model : BitVec 32) (edition : BitVec 16)
  | storeList (first : BitVec 32) (count : BitVec 16)
  | storeVerify (model : BitVec 32) (edition : BitVec 16)
  | makeWarm (model : BitVec 32) (edition : BitVec 16)
  | makeHot (model : BitVec 32) (edition : BitVec 16) (flags : BitVec 16)
  | evict (model : BitVec 32) (edition : BitVec 16)
  | residencyQuery (model : BitVec 32) (edition : BitVec 16)
  | createContext (p : CreateCtxP)
  | destroyContext
  | loadCut (model : BitVec 32) (edition : BitVec 16) (slot : Byte) (cutId : BitVec 32)
  | selectCut (slots : List Byte)
  | setBalance (p : BalanceP)
  | submit (p : SubmitP)
  | append (p : AppendP)
  | cancel (entry : BitVec 16) (requestId : BitVec 64)
  | tokens (entry : BitVec 16) (requestId : BitVec 64) (position : BitVec 32)
  | setDraft (entry : BitVec 16) (draftReq : Byte) (requestId : BitVec 64)
  | manifestRead (first count : BitVec 16)
  | manifestStats
  | setRoutes (table : List (BitVec 32)) (position : Byte)
  | linkState (link admin : Byte)
  | setSlice (sliceId : BitVec 16) (entries : List (BitVec 16))
  | setChain (model : BitVec 32) (edition : BitVec 16) (upstream downstream : Byte) (source : BitVec 64)
  | setRampPlan (safeCap : BitVec 16) (steps : List PlanStepP)
  | setCap (cap slew : BitVec 16)
  | powerReport
  | timeStatus
  | bistPolicy (enable flags : Byte) (period : BitVec 16)
  | bistReport
  | spareReport
  | fence
  | resetBasin
  | warmReset
  | readmit (flags : Byte)
  | completionQuery (session : BitVec 16) (seq : BitVec 32)
  | fwStage (image : Byte) (imageBytes offset : BitVec 32) (data : List Byte)
  | fwActivate (image : Byte)
  | fwStatus
  | attest (nonce : List Byte)
  | identity (piece : BitVec 16)
  | traceConfig (sources trigger flags : BitVec 32)
  | traceRead (offset bytes : BitVec 32)
  | dumpRead (dump offset bytes : BitVec 32)
  | countersRead (kind : Byte) (first count : BitVec 16)
  | perturbSet (kind slot : Byte) (target amount durationMs : BitVec 32)
  | perturbClear (slot : Byte)
  | malformed (opcode : BitVec 16) (params : List Byte)
  deriving DecidableEq, Repr

/-- A mesh flit: 16 words and the sideband of Table 3.7, with one odd parity bit per word (R212). -/
structure Flit where
  payload   : List (BitVec 32)
  parity    : BitVec 16
  epoch     : BitVec 2
  queue     : Bool
  qid       : BitVec 8
  dstRow    : BitVec 5
  dstCol    : BitVec 5
  segOrigin : BitVec 5
  deriving DecidableEq, Repr

/-- A side of a tile. -/
inductive Side where
  | north | east | south | west
  deriving DecidableEq, Repr

/-- Source of a router output or of the tile's input in a ROUTE word (Table 3.6). -/
inductive RouteSrc where
  | none | side (d : Side) | tile
  deriving DecidableEq, Repr

/-- Barge locator (Table 8.2). -/
inductive Locator where
  | zero
  | opbuf (ordinal : Nat) (pos : BitVec 7) (bank : BitVec 2) (addr : BitVec 16)
  | sram (ordinal : Nat) (pos : BitVec 7) (addr : BitVec 23)
  | lpddr (ordinal : Nat) (addr : BitVec 35)
  | flash (ordinal : Nat) (extent : BitVec 20) (chunk : BitVec 8)
  | sluice (ordinal : Nat) (addr : BitVec 23)
  | mgmt (ordinal : Nat) (addr : BitVec 32)
  | reserved (space : BitVec 4)
  deriving DecidableEq, Repr

/-- Barge classes (Table 8.3). -/
inductive BargeClass where
  | step | stream | collective | background
  deriving DecidableEq, Repr

/-- Barge header (Table 8.1), or a descriptor of a tow, whose slot and generation are 0 (R317). -/
structure BargeHdr where
  src        : Locator
  dst        : Locator
  rows       : BitVec 16
  rowUnits   : BitVec 16
  format     : Byte
  epoch      : BitVec 2
  ctx        : CtxId
  cls        : BargeClass
  packed     : Bool
  last       : Bool
  generation : BitVec 16
  slot       : BitVec 10
  origin     : BitVec 10
  step       : BitVec 32
  deriving DecidableEq, Repr

/-- Tow header (Table 8.7). -/
structure TowHdr where
  pack    : Bool
  ordered : Bool
  stream  : Bool
  notify  : Bool
  next    : BitVec 64
  done    : BitVec 64
  deriving DecidableEq, Repr

/-- Phrase kinds of the procedure of R164. -/
inductive PhraseKind where
  | dense | grouped | attention
  deriving DecidableEq, Repr

/-- A place in the operand buffer: bank x 65,536 + byte. The cut fixes the places of supplies and maps, and no table of the image
share gives them. -/
abbrev OpAddr := BitVec 18

/-- Bits of a zero map (R59): the operand-buffer byte where the row block's map begins and its bit of the first activation
block meant. -/
structure ZMap where
  addr  : OpAddr
  first : Nat
  deriving DecidableEq, Repr

/-- A phrase start (R103, R164): the phrase of the sequencer program; for an attention phrase the sequence and its actual length
L in key positions; for a grouped phrase the route and slot of its mooring entry; SP6 to SP15 as Foloon fixed them; for a piece
of a paced attention phrase the landing half that it reads (R325); and where a zero fill writes its zero-map bits (R168). -/
structure PhraseP where
  layer  : Nat
  phrase : Nat
  kind   : PhraseKind
  seq    : Nat
  len    : Nat
  params : List (BitVec 32)
  route  : BitVec 5
  slot   : BitVec 4
  half   : Option Bool
  zmap   : ZMap
  deriving DecidableEq, Repr

/-- One token row of a routing pass: its tag, its E logits and its activation row in FP32. -/
structure RouteTok where
  tag    : BitVec 16
  logits : List (BitVec 32)
  row    : List (BitVec 32)
  deriving DecidableEq, Repr

/-- All-to-all header (Table 5.3). -/
structure A2AHdr where
  kind    : Byte
  route   : Byte
  source  : BitVec 16
  step    : BitVec 32
  records : BitVec 16
  pairs   : BitVec 16
  dropped : BitVec 16
  deriving DecidableEq, Repr

/-- Dispatch record (Table 5.4) with its activation row in dispatch_fmt. -/
structure DispatchRec where
  tag   : BitVec 16
  mask  : BitVec 16
  gates : List (BitVec 32)
  row   : List Byte
  deriving DecidableEq, Repr

/-- Combine record (Table 5.8) with its output row, each element in FP32 after widening from combine_fmt. -/
structure CombineRec where
  tag     : BitVec 16
  applied : BitVec 16
  dropped : BitVec 16
  row     : List (BitVec 32)
  deriving DecidableEq, Repr

/-- A distribution over tokens as FP32 values: a token that it does not list has 0. -/
abbrev Dist := List (BitVec 32 × BitVec 32)

/-- What a step's sink hands on for one request (R242, R358): manifest entry, the draft tokens, the target's distributions and the draft's, the uniform
variates, and the token that the DRBG draws where one is drawn. -/
structure StepTokens where
  entry    : Nat
  drafts   : List (BitVec 32)
  target   : List Dist
  proposal : List Dist
  variates : List (BitVec 32)
  draw     : BitVec 32
  deriving DecidableEq, Repr

/-- A grant's route header (Table 10.4) with the barge header it carries; `queueFlits` are the flits of a queue that crosses devices, packed up to 32 to
a grant (R386); `parityOk` is the destination's check of its words (R368). -/
structure GrantP where
  dstBasin   : BasinId
  srcPos     : BitVec 7
  srcBasin   : BasinId
  sliceId    : BitVec 16
  code       : Byte
  resend     : BitVec 2
  grant      : Nat
  grants     : Nat
  generation : BitVec 16
  epoch      : BitVec 2
  barge      : BargeHdr
  data       : List Byte
  queueFlits : List Flit
  parityOk   : Bool
  deriving DecidableEq, Repr

/-- Fabric flit types (Table 10.3). -/
inductive FlitType where
  | idle | head | body | ctrl
  deriving DecidableEq, Repr

/-- Link header of a fabric flit (Table 10.3). -/
structure LinkHdr where
  type     : FlitType
  seq      : BitVec 12
  ack      : BitVec 12
  nak      : Bool
  vc       : BitVec 6
  creditVc : BitVec 6
  credits  : BitVec 5
  deriving DecidableEq, Repr

/-- How a codeword read ends (Table 7.3): the step of the ladder that succeeds, and the retry level minus 1 (levels 1 to 15). -/
inductive CodewordOutcome where
  | hard | retry (level : Fin 15) | soft | uncorrectable
  deriving DecidableEq, Repr

/-- Where a codeword stands: in an extent of the data area, or in a page of a block of the metadata area (R262, R263). -/
inductive FlashPlace where
  | data (extent : BitVec 20) (codeword : BitVec 12)
  | metadata (chan : ChanId) (block : Nat) (page : BitVec 16)
  deriving DecidableEq, Repr

/-- What comes over the weight chain (R291, R292): a shard, addressed to a device ordinal, or a request from downstream to send one again, which names the
wharf source where it is addressed to it. -/
inductive ChainMsg where
  | shard (image : List Byte)
  | request (source : Option Nat)
  deriving DecidableEq, Repr

/-- What the NAND parameter pages give (Table 7.1): page bytes, planes per LUN, QLC or TLC cells, bytes of an erase block, and the good blocks of every LUN
in the order of channel, target and LUN. -/
structure FlashGeometry where
  pageBytes  : Nat
  planes     : Nat
  qlc        : Bool
  blockBytes : Nat
  goodBlocks : List Nat
  deriving DecidableEq, Repr

/-- Ethernet frames as the port classifies them (R395-R397). -/
inductive FrameKind where
  | neighbourSolicitation (target : BitVec 128) (source : BitVec 128) (mac : BitVec 48)
  | arpRequest (target : BitVec 32) (source : BitVec 32) (mac : BitVec 48)
  | echo6 (target : BitVec 128) | echo4 (target : BitVec 32)
  | rinzan (bytes : List Byte) (fragment : Bool) (udpPort : BitVec 16) (target : BitVec 128) (peer : Peer)
  | other
  deriving DecidableEq, Repr

/-- A step of the exchange through the AUTH data register (R562): the port draws a challenge, or shifts in a signature. -/
inductive AuthStep where
  | challenge
  | response (sig : List Byte)
  deriving DecidableEq, Repr

/-- What a parity error hit (Table 6.10), for the ladder rows. -/
inductive LineKind where
  | weight | embedding | kv (entry : Nat) | tokenLog (entry : Nat) | kvDirectory | scratch | mooring
  deriving DecidableEq, Repr

/-- How the ladder goes for an LPDDR5X line: what the re-read, the reload, the rewrite's read-back find (R252,
R234, Table 6.10). -/
structure LineLadder where
  rereadOk   : Bool
  sourceOk   : Bool
  readbackOk : Bool
  deriving DecidableEq, Repr

/-- Result of a tile test (R495, BIST_REPORT). -/
inductive TestResult where
  | pass | fail | skipped
  deriving DecidableEq, Repr

/-- Array faults (Table 3.16, R162), and the statuses of a failed barge that end a step in the same way (R313). -/
inductive ArrayFault where
  | epoch | overflow | unit | doubleCommit | badParam | uncorrectable
  deriving DecidableEq, Repr

/-- Matrix-unit modes in Table 2.2 order, F8 0 to T2 6 (R42, R101). -/
inductive MuMode where
  | f8 | i8 | mx8 | mxi8 | mx4 | bf | t2
  deriving DecidableEq, Repr

/-- Weight structure of an MU load (Table 3.6). -/
inductive Sparsity where
  | dense | twoFour | oneFour
  deriving DecidableEq, Repr

/-- Element formats in Table 2.4 order, E4M3 0 to T2B 10. -/
inductive Fmt where
  | e4m3 | e5m2 | e3m2 | e2m3 | e2m1 | mxi | int8 | bf16 | fp32 | e8m0 | t2b
  deriving DecidableEq, Repr

/-- Spans of a vector-unit word (R101, Table 3.6): addresses in 16 B units, length in 64-lane vectors minus 1. -/
structure VuSpan where
  srcBank : BitVec 2
  srcAddr : BitVec 12
  dstBank : BitVec 2
  dstAddr : BitVec 12
  len     : BitVec 8
  deriving DecidableEq, Repr

/-- The places of what the tile operation supplies to a drain beside the schedule word (R58, R59, R65, R66): row scales of row
block b at rowScales + 128 b, column scales and biases of strip t at colScales + 128 t and bias + 128 t, the cut's static output
scale s_out, where the row scales of row block b go at outScales + 128 b, and its zero map, `stride` bytes a row block;
`mx` says that an FP8 output format is written as MX blocks (R49); `partialSum` drains without steps 2 to 5 (R70); `fan`, set in an
expert's last phrase, is the first output column of its rows (R205). -/
structure DrainSupply where
  rowScales  : OpAddr
  colScales  : OpAddr
  bias       : OpAddr
  outScale   : OpAddr
  outScales  : OpAddr
  zeroMap    : ZMap
  stride     : Nat
  mx         : Bool
  partialSum : Bool
  fan        : Option Nat
  deriving DecidableEq, Repr

/-- What start-up finds on the board (Table 18.6): supplies, rails, a valid boot copy of the loader and its fallback copy, the image types of which the active
slot is not valid and the other one is, whether a management image is valid and whether the loader starts it within 5 s (R547), NAND and LPDDR5X training,
links and the time source. A NAND or LPDDR5X channel that fails training at a rate is listed with that rate; `dataBytes` are the good bytes of
the flash data area. -/
structure StartIn where
  supplyOk     : Bool
  memPg        : Bool
  railsOk      : Bool
  romOk        : Bool
  bootOk       : Bool
  fallbackOk   : Bool
  operatorBad  : List (Fin 4)
  otherSlot    : List (Fin 4)
  imagesOk     : Bool
  mgmtStarts   : Bool
  nandFailed   : List (ChanId × BitVec 3)
  memSpeed     : BitVec 2
  memDensity   : BitVec 2
  memRanks     : BitVec 2
  flsSpeed     : BitVec 3
  flsTargets   : BitVec 2
  flsLuns      : BitVec 2
  flsGeometry  : FlashGeometry
  towpathUp    : List LinkId
  switchUp     : List LinkId
  timeSource   : Bool
  tickAtEnd    : BitVec 64
  ethUp        : Bool
  lpddrFailed  : List (ChanId × BitVec 2)
  pprDone      : List (Nat × Nat)
  ms           : BitVec 16
  deriving DecidableEq, Repr

/-- The commands and events of the device: one constructor per row of spec/opcode_table.json. -/
inductive Instr where
  -- Rinzan commands (chapter 12)
  | openSession (h : Hdr) (cipher sig : List Byte)
  | closeSession (h : Hdr) (flags : Byte)
  | rotateKey (h : Hdr) (cipher : List Byte)
  | setNoticeTarget (h : Hdr) (carriage mask : Byte) (port : BitVec 16) (address : BitVec 128)
  | readState (h : Hdr) (address : BitVec 32) (words : BitVec 16)
  | writeState (h : Hdr) (address : BitVec 32) (values : List (BitVec 32))
  | storeBegin (h : Hdr) (p : StoreBeginP)
  | storeShard (h : Hdr) (model : BitVec 32) (edition : BitVec 16) (shard piece : BitVec 32) (data : List Byte)
  | storeCommit (h : Hdr) (model : BitVec 32) (edition : BitVec 16)
  | storeDelete (h : Hdr) (model : BitVec 32) (edition : BitVec 16)
  | storeList (h : Hdr) (first : BitVec 32) (count : BitVec 16)
  | storeVerify (h : Hdr) (model : BitVec 32) (edition : BitVec 16)
  | makeWarm (h : Hdr) (model : BitVec 32) (edition : BitVec 16)
  | makeHot (h : Hdr) (model : BitVec 32) (edition : BitVec 16) (flags : BitVec 16)
  | evict (h : Hdr) (model : BitVec 32) (edition : BitVec 16)
  | residencyQuery (h : Hdr) (model : BitVec 32) (edition : BitVec 16)
  | createContext (h : Hdr) (p : CreateCtxP)
  | destroyContext (h : Hdr)
  | loadCut (h : Hdr) (model : BitVec 32) (edition : BitVec 16) (slot : Byte) (cutId : BitVec 32)
  | selectCut (h : Hdr) (slots : List Byte)
  | setBalance (h : Hdr) (p : BalanceP)
  | submit (h : Hdr) (p : SubmitP)
  | append (h : Hdr) (p : AppendP)
  | cancel (h : Hdr) (entry : BitVec 16) (requestId : BitVec 64)
  | tokens (h : Hdr) (entry : BitVec 16) (requestId : BitVec 64) (position : BitVec 32)
  | setDraft (h : Hdr) (entry : BitVec 16) (draftReq : Byte) (requestId : BitVec 64)
  | manifestRead (h : Hdr) (first count : BitVec 16)
  | manifestStats (h : Hdr)
  | setRoutes (h : Hdr) (table : List (BitVec 32)) (position : Byte)
  | linkState (h : Hdr) (link admin : Byte)
  | setSlice (h : Hdr) (sliceId : BitVec 16) (entries : List (BitVec 16))
  | setChain (h : Hdr) (model : BitVec 32) (edition : BitVec 16) (upstream downstream : Byte) (source : BitVec 64)
  | setRampPlan (h : Hdr) (safeCap : BitVec 16) (steps : List PlanStepP)
  | setCap (h : Hdr) (cap slew : BitVec 16)
  | powerReport (h : Hdr)
  | timeStatus (h : Hdr)
  | bistPolicy (h : Hdr) (enable flags : Byte) (period : BitVec 16)
  | bistReport (h : Hdr)
  | spareReport (h : Hdr)
  | fence (h : Hdr)
  | resetBasin (h : Hdr)
  | warmReset (h : Hdr)
  | readmit (h : Hdr) (flags : Byte)
  | completionQuery (h : Hdr) (session : BitVec 16) (seq : BitVec 32)
  | fwStage (h : Hdr) (image : Byte) (imageBytes offset : BitVec 32) (data : List Byte)
  | fwActivate (h : Hdr) (image : Byte)
  | fwStatus (h : Hdr)
  | attest (h : Hdr) (nonce : List Byte)
  | identity (h : Hdr) (piece : BitVec 16)
  | traceConfig (h : Hdr) (sources trigger flags : BitVec 32)
  | traceRead (h : Hdr) (offset bytes : BitVec 32)
  | dumpRead (h : Hdr) (dump offset bytes : BitVec 32)
  | countersRead (h : Hdr) (kind : Byte) (first count : BitVec 16)
  | perturbSet (h : Hdr) (kind slot : Byte) (target amount durationMs : BitVec 32)
  | perturbClear (h : Hdr) (slot : Byte)
  -- state words with a row of their own, each written or read by a session
  | arithClear (h : Hdr) (tile : TileId) (value : BitVec 32)
  | sliceIdWrite (h : Hdr) (b : BasinId) (value : BitVec 32)
  | slcCapWrite (h : Hdr) (b : BasinId) (c : CtxId) (value : BitVec 32)
  | lcWaysWrite (h : Hdr) (b : BasinId) (c : CtxId) (value : BitVec 32)
  | manCtxWrite (h : Hdr) (b : BasinId) (c : CtxId) (value : BitVec 32)
  | dredgePhaseWrite (h : Hdr) (b : BasinId) (value : BitVec 32)
  | portResetWrite (h : Hdr) (value : BitVec 32)
  | timNowLatch (h : Hdr)
  | authChallenge (h : Hdr)
  | authRevoke (h : Hdr)
  | authResponse (h : Hdr) (value : BitVec 32)
  -- debug port
  | operatorKey (slot : Fin 4) (revoke : Bool) (modulus : List Byte)
  | auth (step : AuthStep)
  | extest
  -- endpoint and port
  | rinzanPacket (carriage : Carriage) (priority : BitVec 3) (peer : Peer) (bytes : List Byte)
  | ethFrame (length : Nat) (vlan : Option (BitVec 12)) (priority : BitVec 3) (kind : FrameKind)
  | pfcThreshold (priority : BitVec 3) (level : Nat)
  | pfcPause (priority : BitVec 3) (paused : Bool)
  | i3cPrivateWrite (bytes : List Byte)
  | i3cPrivateRead
  | notBeforeReached
  | commandTimeout (session : BitVec 16) (seq : BitVec 32)
  | shortTimeout (session : BitVec 16) (seq : BitVec 32)
  | sessionIdle (session : BitVec 16)
  | oldKeyExpiry (session : BitVec 16)
  | replyCacheExpiry (session : BitVec 16) (seq : BitVec 32)
  -- requests and steps
  | admission (entry : Fin 4096)
  | stepFormation (b : BasinId) (p : PoundId)
  | stepStart (b : BasinId) (p : PoundId)
  | shape (b : BasinId) (p : PoundId) (qid : BitVec 8) (step : Nat) (rows seqs : Nat) (seqTable mooring : Nat)
  | phraseStart (b : BasinId) (p : PoundId) (ph : PhraseP)
  -- schedule words: the tile issues the next word of its phrase, which the slot holds (R101)
  | nop (t : TileId)
  | muLoad (t : TileId) (fmt : Fmt) (maps : List ZMap)
  | muStream (t : TileId) (fmt : Fmt) (map : Option ZMap)
  | drain (t : TileId) (sup : DrainSupply)
  | fma32 (t : TileId)
  | add32 (t : TileId)
  | mul32 (t : TileId)
  | min32 (t : TileId)
  | max32 (t : TileId)
  | cmp32 (t : TileId)
  | sel (t : TileId)
  | convert (t : TileId)
  | fma16 (t : TileId)
  | add16 (t : TileId)
  | mul16 (t : TileId)
  | min16 (t : TileId)
  | max16 (t : TileId)
  | exp (t : TileId)
  | rcp (t : TileId)
  | rsqrt (t : TileId)
  | topk (t : TileId)
  | sramRead (t : TileId)
  | sramWrite (t : TileId)
  | route (t : TileId) (phase : Fin 10) (src dst : OpAddr) (acc : Option (BitVec 5))
  | queuePush (t : TileId)
  | queuePop (t : TileId) (acc : Option (BitVec 5))
  | counter (t : TileId)
  | loop (t : TileId)
  | endWord (t : TileId)
  -- queues, steps and seals
  | queueFlitArrival (t : TileId) (side : Side) (phase : Fin 10) (flip : BitVec 16)
  | meshLinkReplay (t : TileId) (side : Side) (phase : Fin 10) (flip : BitVec 16)
  | creditReturn (b : BasinId) (p : PoundId) (qid : BitVec 8) (credits : Nat)
  | gatherComplete (t : TileId) (area : Bool) (column : BitVec 23) (qid : BitVec 8) (first flits : Nat)
  | stepEnd (b : BasinId) (p : PoundId)
  | seal (b : BasinId) (p : PoundId) (qid : BitVec 8) (step : Nat)
  | void (b : BasinId) (p : PoundId) (qid : BitVec 8) (step : Nat)
  | localReplay (b : BasinId) (p : PoundId)
  | readmission (b : BasinId) (p : PoundId) (step : Nat)
  | tokenHandoff (b : BasinId) (p : PoundId) (step : Nat) (toks : List StepTokens)
  | draftPass (entry : Fin 4096)
  | kvRebuildSeal (entry : Fin 4096)
  | deadlinePass (entry : Fin 4096)
  | holdExpiry (entry : Fin 4096)
  | entryRelease (entry : Fin 4096)
  | balanceEvaluation (b : BasinId)
  -- sluice and collectives
  | routingPass (b : BasinId) (c : CtxId) (route : BitVec 5) (step : BitVec 32) (toks : List RouteTok)
  | dispatch (b : BasinId) (c : CtxId) (h : A2AHdr) (epoch : BitVec 2) (recs : List DispatchRec)
  | mooringPass (b : BasinId) (c : CtxId) (route : BitVec 5) (step : BitVec 32)
  | combine (b : BasinId) (c : CtxId) (h : A2AHdr) (epoch : BitVec 2) (recs : List CombineRec)
  | combineComplete (b : BasinId) (c : CtxId) (route : BitVec 5) (step : BitVec 32)
  | reduce (b : BasinId) (c : CtxId) (h : A2AHdr) (epoch : BitVec 2) (participants : Nat) (values : List (BitVec 32))
  | gather (b : BasinId) (c : CtxId) (h : A2AHdr) (epoch : BitVec 2) (participants : Nat) (values : List (BitVec 32))
  | handoff (b : BasinId) (c : CtxId) (h : A2AHdr) (epoch : BitVec 2) (participants : Nat) (values : List (BitVec 32))
  -- barges and tows
  | towPost (b : BasinId) (c : CtxId) (h : TowHdr) (descs : List BargeHdr)
  | bargeArrival (b : BasinId) (h : BargeHdr) (data : List Byte)
  | bargeComplete (b : BasinId) (slot : BitVec 10) (status : BitVec 16)
  | towComplete (b : BasinId) (c : CtxId)
  | halfLanded (t : TileId) (half : Bool)
  -- memory ladder
  | lpddrReread (b : BasinId) (c : CtxId) (page : BitVec 19) (line : BitVec 9) (kind : LineKind) (l : LineLadder)
  | chunkReload (t : TileId) (c : CtxId) (chunk : BitVec 7) (data : List Byte) (sourceOk readbackOk : Bool)
  | scrubPass (t : TileId)
  | scrubError (t : TileId) (word : BitVec 21) (rereadOk : Bool)
  -- gap moves and lockages
  | gapMove (b : BasinId) (row : Fin 4) (gapB west : Bool)
  | gapMoveHoldReached (b : BasinId) (row : Fin 4)
  | lockageStart (b : BasinId) (remote : List (BitVec 10 × Option (Fin 4)))
  | lock (b : BasinId) (sent tLock : BitVec 64) (slots : List (Option (Fin 4))) (keeper : BitVec 16)
  | lockAck (b : BasinId) (ordinal : BitVec 10) (unsynchronized : Bool)
  | lockTick (b : BasinId)
  | lockResend (b : BasinId) (ordinal : BitVec 10)
  | basinDrained (b : BasinId)
  | drained (b : BasinId) (ordinal : BitVec 10) (unsynchronized : Bool)
  | resume (b : BasinId) (tResume : BitVec 64)
  | resumeAck (b : BasinId) (ordinal : BitVec 10)
  | resumeVoid (b : BasinId)
  | slotSwitch (b : BasinId)
  | resumeTick (b : BasinId)
  | lockDrainTimeout (b : BasinId)
  -- faults, fences, recovery
  | contextTeardown (b : BasinId) (remote : Option ArrayFault)
  | stepOverdue (b : BasinId) (p : PoundId)
  | gen (b : BasinId) (ordinal : BitVec 10) (generation : BitVec 16)
  | fenceDrainEnd (b : BasinId) (writebackOk : Bool)
  | crashDump (b : BasinId) (unresponsive : List (BitVec 16 × BitVec 16))
  | dumpReadTimeout (kind index : BitVec 16)
  | dumpCopy
  | dumpExport
  | basinReset (b : BasinId) (selfRefreshOk : Bool) (pprOk : List (BitVec 19)) (trainFailed : List (Fin 4 × BitVec 2))
  | restorationComplete (b : BasinId) (ok : Bool) (pprOk : List (BitVec 19))
  | deviceWarmReset (i : StartIn) (lost : List BasinId) (unresponsive : List (BitVec 16 × BitVec 16))
  | watchdogFailover
  | dualWatchdogMiss (i : StartIn) (lost : List BasinId) (unresponsive : List (BitVec 16 × BitVec 16))
  | mgmtHandover (startOk : Bool)
  | basinImageStart (b : BasinId) (ok : Bool)
  | flashImageSwitch
  -- dredge windows, lanes, self-test
  | dredgeWindowOpen (b : BasinId) (routerFail : Option Bool)
  | dredgeWindowClose (b : BasinId)
  | lpddrCalibrationDone (m : ChanId) (ok : Bool)
  | laneRecalibration
  | leavingExpiry (n : LinkId)
  | calComplete (n : LinkId)
  | calTimeout (n : LinkId)
  | selfTestStart (b : BasinId) (clockOk railOk : Bool)
  | selfTestLimitCheck (b : BasinId) (clockOk railOk : Bool)
  | selfTestComplete (b : BasinId) (pass : Bool)
  | tileFailure (t : TileId) (passThrough : Bool)
  -- fabric
  | flitReceive (n : LinkId) (h : LinkHdr) (fecOk : Bool) (corrected : Nat)
  | grantArrival (g : GrantP)
  | gack (b : BasinId) (slot : BitVec 10) (first last : Nat)
  | gnak (b : BasinId) (slot : BitVec 10) (grant : Nat)
  | grantResendTimeout (b : BasinId) (slot : BitVec 10) (grant : Nat)
  | refuse (b : BasinId) (slot : BitVec 10)
  | qcredit (b : BasinId) (p : PoundId) (qid : BitVec 8) (credits : Nat)
  | qcreditTimer (b : BasinId) (qid : BitVec 8)
  | mask (position : BitVec 7) (seq : BitVec 16) (live : BitVec 84)
  | linkFailure (n : LinkId)
  | linkRetrain (n : LinkId)
  | towpathForward (dst : BitVec 7)
  -- time
  | time (n : LinkId) (v : BitVec 64) (hops : BitVec 4) (delayTicks : Nat)
  | tsyncFrame (preamble : Byte) (v : BitVec 64) (crc : Byte)
  -- power and temperature
  | thermalSample (basins : List Int) (management : Int)
  | thermalRelease (b : BasinId)
  -- pins and start-up
  | sysRstFall
  | sysRstRise (found : StartIn)
  | memPgFall
  | startUp (found : StartIn)
  | railRetry (found : StartIn)
  | rehydration (b : BasinId) (ok : Bool)
  -- flash
  | flashCodewordRead (place : FlashPlace) (out : CodewordOutcome) (spoiled : List (BitVec 20))
  | grownBadBlock (chan : ChanId) (block : Nat) (spoiled : List (BitVec 20))
  | extentMove (extent : BitVec 20) (superblock : Nat) (firstStepOk : Bool)
  | readDisturbRefresh (chan : ChanId) (block : Nat) (spoiled : List (BitVec 20))
  | wearLevel (chan : ChanId) (low high : Nat) (firstStepOk : Bool)
  | patrolRead (extent : BitVec 20) (found : List (BitVec 12 × CodewordOutcome)) (mismatch : Option (BitVec 8)) (spoiled : List (BitVec 20))
  | ftlCountSave
  | chainShard (model : BitVec 32) (edition : BitVec 16) (deviceOrdinal : BitVec 7) (shard : BitVec 32) (what : ChainMsg)
  | intakeTimeout (model : BitVec 32) (edition : BitVec 16)
  | loadComplete (b : BasinId) (c : CtxId) (model : BitVec 32) (edition : BitVec 16) (ok : Bool)
  -- further timers and completions
  | drbgReseed (healthOk : Bool)
  | perturbExpiry (slot : Fin 16)
  | traceTrigger (b : BasinId) (source : BitVec 4) (ctx : Byte) (data : BitVec 48)
  | resetWindowDecay (b : BasinId)
  | linkTrainingComplete (n : LinkId) (partner : BitVec 7)
  | partnerSignalReturn (n : LinkId)
  | memPgRise
  | ethLinkLoss
  | ethTrainingComplete (mode : BitVec 2)
  | cutFillComplete (b : BasinId) (c : CtxId) (slot : Fin 4) (crcOk : Bool)
  | wayMoveComplete (b : BasinId)
  | staticCopyComplete (b : BasinId) (row : Fin 4)
  | idleTick
  | keptReplyExpiry (session : BitVec 16) (seq : BitVec 32)
  | challengeExpiry (session : BitVec 16)
  | fuseBurnComplete (image : Fin 4)
  | newStandbyStarted
  | i3cDynamicAddress (address : BitVec 7)
  -- time, power and supply events without operands
  | tclkLoss
  | holdover
  | powerBoundary
  | planStep
  | shedFall
  | shedRise
  | rmLost
  | safeCap
  | inputLow
  | inputRestored
  | inputCollapse
  | standbySupplyLoss
  deriving DecidableEq, Repr

end Sys2Proof
end

