-- ==== Sys2Proof/Decode.lean ====
section
/-! DEFINITION. What a word spells by the bits of spec/opcode_table.json. No row of that table gives bits (every row's
"fields" is empty): the block's commands are packets and events, not words, so no word spells one (log entry 8). -/

namespace Sys2Proof

/-- The command that a word spells by the table's bits: none, since no row of the table has bits. -/
def decodeTableWord (_nbits _w : Nat) : Option Instr := none

end Sys2Proof
end

