-- ==== Sys2Proof/Config.lean ====
section
/-! DEFINITION. What the spec leaves open: uninterpreted constants, nothing in Lean can evaluate them.
Log entry 4 names each of them. -/

namespace Sys2Proof.Config

/-- A fresh value each time: applied to the counter `freeCtr` of State, which the step advances. Stands for what the
DRBG draws (R503, R560, R561) and for every other value the spec leaves open. -/
opaque freeNat : Nat → Nat

/-- How far the device's exp, 1/x or 1/sqrt x lies from the truncated exact result, in ulp (R72 gives a bound only):
applied to the function (0 exp, 1 reciprocal, 2 rsqrt) and the operand. -/
opaque specialOffset : Nat → BitVec 32 → Nat

/-- What Foloon fixed for a phrase of a cut where no table of the image share gives a place: segments per ring S,
bytes per unit, and beat in cycles (R151, R153): applied to cut_id, pound and phrase. -/
opaque phraseSegments : Nat → Nat → Nat → Nat
/-- Mode of a phrase's matrix operation in Table 2.2 order, and its weight structure, 0 dense, 1 2:4, 2 1:4 (R43, R44), which with the formats give the
bytes of a unit (Table 2.5): cut_id, pound, phrase. -/
opaque phraseMode : Nat → Nat → Nat → Nat
/-- See `phraseMode`. -/
opaque phraseStructure : Nat → Nat → Nat → Nat
/-- Whether the key positions of an attention phrase are its reduction extent, not its output extent (R168): cut_id, pound, phrase. -/
opaque phraseReduces : Nat → Nat → Nat → Bool
/-- Cycles of one beat of a phrase (R153): cut_id, pound, phrase. -/
opaque phraseBeat : Nat → Nat → Nat → Nat
/-- Strips s of a segment of a phrase (R144): cut_id, pound, phrase; taken within 1 to s_max. -/
opaque phraseStrips : Nat → Nat → Nat → Nat
/-- K extent KU of a segment in units (R151): cut_id, pound, phrase. -/
opaque phraseKUnits : Nat → Nat → Nat → Nat
/-- Cycles of a phrase before its first rotation (R159): cut_id, pound, phrase. -/
opaque phraseFill : Nat → Nat → Nat → Nat
/-- Formats of a phrase in Table 2.4 order, activations in the low byte and weights in the next (R43): cut_id, pound, phrase. -/
opaque phraseFormats : Nat → Nat → Nat → Nat
/-- Phrases of a sequencer program in each layer (R142), at most 24: cut_id, pound, layer counted from the pound's first. -/
opaque programLength : Nat → Nat → Nat → Nat
/-- Phrase index, plus 256 x kind (0 dense, 1 grouped, 2 attention): cut_id, pound, layer, place in the program. -/
opaque programItem : Nat → Nat → Nat → Nat → Nat

/-- Bytes of a landing half of a paced attention phrase over the pound (R325): cut_id, pound, phrase. -/
opaque halfBytes : Nat → Nat → Nat → Nat
/-- STEP barges that a step of a pound needs beside the first halves of its streams (R322): cut_id, pound, and the rows and sequences of the step's shape
record. -/
opaque stepBargeCount : Nat → Nat → Nat → Nat → Nat
/-- One of them (R322): cut_id, pound, rows and sequences of the shape record, barge, and what of it, plus 16 for each basin past the pound's home: 0 byte of its source in LPDDR5X, 1 rows, 2 row
units, 3 format, 4 not 0 for the step-input buffer, 5 logical position in the basin, 6 bank, 7 offset in the landing area, 8 not 0 where the step's tokens
decide the source (an embedding row, a token of the log). -/
opaque stepBarge : Nat → Nat → Nat → Nat → Nat → Nat → Nat
/-- Whether the active cut pair assigns an entry device of a slice of several to a source pound, 0 for yes (R343): cut_id, pound, device ordinal. -/
opaque entryAssigned : Nat → Nat → Nat → Nat
/-- Entry of a step's sequence table, whose layout the spec does not give (R143): the bytes from where it lies in basin memory, the sequence, and what of it:
0 the request's tag in the KV directory, 1 its actual length. -/
opaque seqEntry : List (BitVec 8) → Nat → Nat → Nat
/-- Bytes of a landing area of a pound (R324): cut_id, pound, 0 in the operand buffers and 1 in the step-input buffer. -/
opaque landingSize : Nat → Nat → Nat → Nat
/-- Where a landing area of a pound begins (R324): cut_id, pound, 0 in a bank of the operand buffers and 1 in the step-input buffer, area 0 or 1. -/
opaque landingArea : Nat → Nat → Nat → Nat → Nat
/-- KV bytes of a layer in one position, and where they begin within it (R238): cut_id, layer, 0 or 1. -/
opaque kvLayer : Nat → Nat → Nat → Nat
/-- Collectives other than all-to-all that a step of a pound takes part in (R387): cut_id, pound. -/
opaque collectiveCount : Nat → Nat → Nat
/-- One of them: cut_id, pound, collective, and what of it: 0 kind (3 to 5), 1 route byte, 2 peer index of this basin, 3 elements of a row, 4 how many
basins it addresses, 5 on their ordinals. -/
opaque collective : Nat → Nat → Nat → Nat → Nat

/-- How many route records an image share's constants hold, at most 32 (R178 gives the records no place): cut_id, ordinal. -/
opaque routeCount : Nat → Nat → Nat
/-- Logical position in the basin whose static region holds a route record: cut_id, ordinal, record. -/
opaque routePosition : Nat → Nat → Nat → Nat
/-- Byte offset of a route record in that static region: cut_id, ordinal, record. -/
opaque routeOffset : Nat → Nat → Nat → Nat

/-- Index of the first segment of a local slot's expert in each tile's unit store (Table 5.7, weights): cut_id, route, slot. -/
opaque expertSegment : Nat → Nat → Nat → Nat
/-- Byte offset of an entry's output rows in the dynamic region (Table 5.7, outputs): cut_id, route, slot. -/
opaque expertOutputs : Nat → Nat → Nat → Nat

/-- The device's Ethernet MAC address, 48 bits from the identity fuses (Table 11.4, Table 16.2). -/
opaque macAddress : Nat
/-- The 64-bit device serial of the identity fuses (Table 16.2). -/
opaque deviceSerial : Nat
/-- The modulus of the identity key, generated at manufacture (R541). -/
opaque identityModulus : Nat
/-- Its private exponent, in the key store (R541). -/
opaque identityExponent : Nat

/-- Modulus of the attestation key (R541). -/
opaque attestationModulus : Nat

/-- Private exponent of the attestation key (R541). -/
opaque attestationExponent : Nat
/-- Key and value of the central DRBG as start-up step 4 instantiates it (R560). -/
opaque drbgKey : List (BitVec 8)
/-- See `drbgKey`. -/
opaque drbgValue : List (BitVec 8)
/-- The fused SHA-256 of a vendor slot's modulus, set at manufacture (Table 16.2). -/
opaque vendorHash : Nat → BitVec 256
/-- The certificate chain that IDENTITY returns (R554), byte by position, and its length (at most 6,144). -/
opaque certByte : Nat → BitVec 8
/-- Length of the certificate chain before the bound of R554. -/
opaque certLength : Nat
/-- Input power in mW, measured (R454, R583): applied to a fresh counter value. -/
opaque measuredPower : Nat → Nat
/-- Read-disturb limit, rated endurance and other board configuration values the spec names without fixing
(R272 default 100,000; R277): applied to the item number. -/
opaque boardConfig : Nat → Nat

/-- The bits of the NaN that an arithmetic unit writes: the spec says that the result is a NaN, not which (R68, R71). -/
opaque nanPattern : BitVec 32
/-- Which zero the minimum and the maximum of +0 and -0 give (R71 does not say). -/
opaque zeroTie : Bool
/-- A result that the spec does not state: applied to the operation (2 rsqrt of -0, 9 conversion to E8M0 of a value that
is not positive, 10 filler weights of a T2B byte) and the operand. -/
opaque unstated : Nat → BitVec 32 → Nat

end Sys2Proof.Config
end

