-- ==== Sys2Proof/Machine/State.lean ====
section
/-! DEFINITION. The state of the ASG4 as plain data. Every field names the rule of spec/ that gives it; INVENTORY.md
'## State' lists them with their reset values. Register fields are bit vectors of their width; what software never
reads as a word is a Nat, a list or an inductive type. A table `Tbl` lists only what differs from the value that an
unlisted key holds. -/

namespace Sys2Proof.Machine

/-- A sparse table: keys strictly rising, no entry equal to what an unlisted key reads as (`Tbl.wf`). -/
abbrev Tbl (α : Type) := List (Nat × α)

/-- Status codes (Table 12.2). -/
inductive Status where
  | ok | accepted | badFormat | badOpcode | badParam | badMac | counterReplay | noSession | notPermitted
  | noResource | planMismatch | shapeExceedsPlan | capacity | busyLocked | wrongState | deferred
  | digestMismatch | parityUnrecovered | shardMissing | flashUncorrectable | timedOut | fenced | aborted
  | unitFault | overflowFault | epochFault | doubleCommit | powerLimited | thermalLimited | outOfService
  deriving DecidableEq, Repr

/-- Basin states (R436). -/
inductive BState where
  | offline | init | ready | serving | fenced | resetting | retired
  deriving DecidableEq, Repr

/-- Fence causes (Table 15.1). -/
inductive Cause where
  | none | commandTimeout | stepTimeout | lockDrain | channel | operator | thermal | spares | escalation | warmReset
  deriving DecidableEq, Repr

/-- lock_state of BSN_CUT (Table 3.14). -/
inductive LockState where
  | idle | running | locking | drained | switching
  deriving DecidableEq, Repr

/-- Out-of-service kinds (Table 3.9). -/
inductive ColKind where
  | spare | failed | test | filling
  deriving DecidableEq, Repr

/-- Residency states (Table 7.11). -/
inductive Residency where
  | cold | warm | hot | loading | notReady
  deriving DecidableEq, Repr

/-- Link states (Table 10.7). -/
inductive LinkSt where
  | down | training | active | leaving | cal | failed
  deriving DecidableEq, Repr

/-- An LPDDR5X channel: before training, open to turns, closed (R490), in self-refresh (Table 6.2). -/
inductive ChanSt where
  | untrained | open | closed | selfRefresh
  deriving DecidableEq, Repr

/-- Firmware image states (Table 14.13). -/
inductive FwSt where
  | none | staging | verified | activating | pending | failed
  deriving DecidableEq, Repr

/-- Request states (Table 9.3). -/
inductive ReqSt where
  | free | queued | prefill | decode | paused | done | failed
  deriving DecidableEq, Repr

/-- The pause field (Table 9.2). -/
inductive Pause where
  | none | hold | rebuild
  deriving DecidableEq, Repr

/-- Session roles (Table 11.8). -/
inductive Role where
  | operator | tenant
  deriving DecidableEq, Repr

/-! ### Tiles -/

/-- Arithmetic counter words of a tile (Table 2.11), reset 0. -/
structure TileCnt where
  satNarrow  : BitVec 32
  satArith   : BitVec 32
  nanOut     : BitVec 32
  badCode    : BitVec 32
  skip       : BitVec 32
  muActive   : BitVec 32
  muLoadWait : BitVec 32
  deriving DecidableEq, Repr

/-- A plane of the matrix unit (R38, R39, R40): the weight tile's operand form, in T2 mode which tile q of its pack it is (R56),
its bytes, and whether the array loaded it or skipped the load (R61). A plane after reset holds zeros. -/
structure WPlane where
  mode  : MuMode
  sp    : Sparsity
  fmt   : Fmt
  q     : Nat
  bytes : List Byte
  real  : Bool
  deriving DecidableEq, Repr

/-- A ROUTE word at work (R101, R106): the sources of the outputs and of the own input, its first cycle, how many cycles it lasts, how
many flits it took of each side, where the tile's own flits come from and go to in the operand buffer, and the accumulator block that takes
them as partial sums (R70). -/
structure RouteCfg where
  n : RouteSrc
  e : RouteSrc
  s : RouteSrc
  w : RouteSrc
  own : RouteSrc
  start  : Nat
  cycles : Nat
  used   : Tbl Nat
  src    : OpAddr
  dst    : OpAddr
  acc    : Option Nat
  deriving DecidableEq, Repr

/-- A claimed tile operation of a ring pound (R158, R162): its segment, row group and rows_i. -/
structure TileOp where
  seg   : Nat
  group : Nat
  rows  : Nat
  deriving DecidableEq, Repr

/-- Spaces of a tile that carry parity (R83, R212). -/
inductive Space where
  | column | opbuf | acc | sched
  deriving DecidableEq, Repr

/-- A word whose 33 bits hold an even number of ones (R212): space, word index, and whether the next read alone fails
(R617), and whether a consumer has recorded it for repair (R241). -/
structure ParErr where
  space     : Space
  word      : Nat
  transient : Bool
  seen      : Bool
  deriving DecidableEq, Repr

/-- Memories of a tile (Table 2.1, R17, R80, R81): operand buffer by bank x 65,536 + byte, accumulator by entry,
schedule memory by slot x 32,768 + byte, SRAM column by byte. -/
structure TileMem where
  opbuf  : List Host.Cell
  acc    : Tbl (BitVec 32)
  sched  : List Host.Cell
  column : List Host.Cell
  parity : List ParErr
  deriving DecidableEq, Repr

/-- Matrix unit, schedule registers and schedule issue of a tile. The planes (R40): `loaded` when the shadow plane holds the next
weight tile, `due` counts the row blocks that the active one still meets, `rowsMet` the rows that it met (R41), `pack` the T2B pack
that loads last took tiles of and the tile q taken (R56), `accMode` the mode that filled an accumulator block, `stale` the rows of each block that
hold what an earlier tile operation left (R146). Issue (R100, R101,
R104): `pc` is the index of the next schedule word, `cyc` the phrase's cycle of the last issue, `used` the units of the words that
issued in that cycle, `len` the phrase length, `loops` the rounds left of a LOOP word. Work (R157 to R162): `ops` are the claimed tile operations that have not
committed, oldest first, `claims` and `gathers` count those of the phrase, `drained` the blocks drained of the oldest one, `iters` the
row groups that a STATIONARY tile has drained, `sets` the accumulator block sets of its operations that have not drained, oldest first (R147), `stage`
where its staging areas lie (R160). `halves` are the landing halves: 1 full, 2 read while not full; `came` what came into each since it was freed: 1 a
barge landed, 2 one failed (R326). -/
structure TileCore where
  active   : WPlane
  shadow   : WPlane
  loaded   : Bool
  due      : Nat
  rowsMet  : Nat
  pack     : Option (Nat × Nat)
  accMode  : Tbl MuMode
  stale    : Tbl (BitVec 32)
  regs     : Tbl (BitVec 32)
  sp       : Tbl (BitVec 32)
  cmp      : List Bool
  inPhrase : Bool
  phrase   : Option PhraseP
  pc       : Nat
  cyc      : Nat
  used     : List Nat
  len      : Nat
  loops    : Tbl Nat
  ops      : List TileOp
  claims   : Nat
  gathers  : Nat
  drained  : Nat
  iters    : Nat
  sets     : List Nat
  stage    : Tbl Nat
  stopped  : Bool
  halves   : Tbl Nat
  came     : Tbl Nat
  deriving DecidableEq, Repr

/-- A tile's part of a queue's storage in its column (R98): flits that arrived since the start of the cut, number in the queue and place of
those still stored, oldest first, and how many of the running step's it has popped (R243). -/
structure QPart where
  arrived : Nat
  stored  : List (Nat × Nat)
  taken   : Nat
  deriving DecidableEq, Repr

/-- A queue flit on its way, with the basin whose queue table holds its queue, the step that pushed it and its number in the queue (R98). -/
structure QFlit where
  flit : Flit
  home : Nat
  step : Nat
  num  : Nat
  deriving DecidableEq, Repr

/-- Router and queue engine of a tile: the input registers by side, each flit with the phrase cycle of its arrival (R106), the ROUTE
word at work, link-slot maps (Table 3.5), egress buffer (R114), queue flits that cross the tile, queue storage by queue (R98), the last 32
queue flits of each output (R250), and for a side that waits for a link replay how many flits were sent after the errored one. -/
structure TileNet where
  inq     : Tbl (List (Nat × Flit))
  route   : Option RouteCfg
  slots   : Tbl (BitVec 64)
  egress  : List QFlit
  transit : List QFlit
  queue   : Tbl QPart
  last    : Tbl (List QFlit)
  replayFrom : Tbl (Option Nat)
  deriving DecidableEq, Repr

/-- Maintenance of a tile: BIST_REPORT code and tick of its last test (R495), named by the ladder since (R497), dirty
chunks of a gap-move copy (R124), scrub pass under way (R220). -/
structure TileMaint where
  lastTest  : Nat
  testTick  : Tick
  named     : Bool
  dirty     : List Nat
  scrubbing : Bool
  scrubDue  : Tick
  deriving DecidableEq, Repr

/-- One tile (Table 2.1); `base` is the last sample of its counters (R87), `gen` is TIL_GEN (R506). -/
structure Tile where
  cnt   : TileCnt
  base  : TileCnt
  gen   : BitVec 16
  mem   : TileMem
  core  : TileCore
  net   : TileNet
  maint : TileMaint
  deriving DecidableEq, Repr

/-! ### Pounds and queues -/

/-- Ring descriptor (Table 4.1). -/
structure Ring where
  shape      : Nat
  h          : Nat
  w          : Nat
  rings      : Nat
  g          : Nat
  sMax       : Nat
  unit       : Nat
  staticBase : Nat
  stageBytes : Nat
  deriving DecidableEq, Repr

/-- Pound-table entry (Table 3.3). -/
structure PoundDef where
  source     : Bool
  sink       : Bool
  splitK     : Bool
  contNext   : Bool
  contPrev   : Bool
  top        : Nat
  left       : Nat
  height     : Nat
  width      : Nat
  firstLayer : Nat
  layers     : Nat
  phrases    : Nat
  inQ        : List Nat
  outQ       : List Nat
  stepCycles : Nat
  ring       : Ring
  deriving DecidableEq, Repr

/-- Shape record of a step (R143). -/
structure ShapeRec where
  qid      : Nat
  step     : Nat
  rows     : Nat
  seqs     : Nat
  seqTable : Nat
  mooring  : Nat
  deriving DecidableEq, Repr

/-- A request's rows in a formed step (R343): manifest entry, rows, first position, whether they are a prefill chunk,
whether that chunk rebuilds KV (R251), the draft length they verify, and whether a KV failure in this step counted as a rebuild already. -/
structure FormRow where
  entry   : Nat
  rows    : Nat
  pos     : Nat
  prefill : Bool
  rebuild : Bool
  draft   : Nat
  counted : Bool
  deriving DecidableEq, Repr

/-- A step of a source pound that carries requests, from its forming to its seal or void (R343, R242, R247). -/
structure Flight where
  home    : Nat
  pound   : Nat
  step    : Nat
  kind    : Nat
  rows    : List FormRow
  started : Bool
  sealed  : Bool
  voided  : Bool
  byFence : Bool
  deriving DecidableEq, Repr

/-- The matrix operation of a phrase (R43, R44): mode, weight structure, and the formats of activations and weights. -/
structure PhraseForm where
  mode : MuMode
  sp   : Sparsity
  act  : Fmt
  wgt  : Fmt
  deriving DecidableEq, Repr

/-- What Foloon fixed for a phrase (R144, R151 to R153), from the phrase-start table of the cut: strips s of a segment, K extent KU in units, bytes of a
unit, cycles of a beat, cycles of the fill before the first rotation, segments S of a ring, its matrix operation, and whether the key positions of an
attention phrase are its reduction extent (R168). -/
structure PhrasePlan where
  s         : Nat
  ku        : Nat
  unitBytes : Nat
  beat      : Nat
  fill      : Nat
  segs      : Nat
  form      : Option PhraseForm
  reduces   : Bool
  deriving DecidableEq, Repr

/-- A phrase of a sequencer program (R142): layer, phrase index and kind. -/
structure ProgItem where
  layer  : Nat
  phrase : Nat
  kind   : PhraseKind
  deriving DecidableEq, Repr

/-- A pound and its sequencer (R95, R103, R107, R142, R157, R162, R241-R246): `prog` is the program of a step, `at_` the item and the
entry of it that the next phrase start may name; `piece` counts the pieces that a paced attention phrase has had, with the start cycle of the
last and the tick of the first (R325); `laneSeg` the segment that the lanes count (R157); `fault` what a tile of the pound
raised, in phrase cycle `stopCyc` (R140). -/
structure Pound where
  ctx       : Nat
  pdef      : PoundDef
  step      : Nat
  running   : Bool
  startTick : Tick
  startDuty : Nat
  rows      : Nat
  seqs      : Nat
  prog      : List ProgItem
  at_       : Nat × Nat
  piece     : Nat
  pieceStart : Nat
  pieceTick : Tick
  pace      : Nat × Nat
  plan      : PhrasePlan
  phrase    : Option PhraseP
  phraseOn  : Bool
  lanes     : Tbl Nat
  laneSeg   : Nat
  commits   : List Nat
  taint     : Bool
  unrepaired : Bool
  replays   : Nat
  replaying : Bool
  held      : Bool
  stopped   : Bool
  fault     : Option ArrayFault
  stopCyc   : Nat
  credits   : Tbl Nat
  shapes    : List ShapeRec
  sealed    : List (Nat × Nat)
  voids     : List (Nat × Nat)
  nextFormed : Option Nat
  deriving DecidableEq, Repr

/-- Queue-table entry (Table 3.4) with the flits that the running step has popped, the credits owed (R115, R243), the flits pushed since
the start of the cut, whose number places a flit in the striped storage (R98), and for each step its first flit and how many it pushed. -/
structure Queue where
  producer : Nat
  consumer : Nat
  skipped  : Nat
  depth    : Nat
  stepMax  : Nat
  store    : Nat
  launch   : BitVec 64
  perBlock : Nat
  fixed    : Nat
  popped   : Nat
  owed     : Nat
  pushed   : Nat
  marks    : List (Nat × Nat × Nat)
  deriving DecidableEq, Repr

/-! ### Sluice and collectives -/

/-- Route record (Table 5.1), with its biases and peer ordinals. -/
structure RouteRec where
  layer       : Nat
  experts     : Nat
  k           : Nat
  score       : Nat
  normalize   : Bool
  bias        : Bool
  peers       : Nat
  local_      : Nat
  dispatchFmt : Nat
  combineFmt  : Nat
  gateScale   : BitVec 32
  biases      : List (BitVec 32)
  peerOrd     : List Nat
  self        : Nat
  deriving DecidableEq, Repr

/-- Messages of one route and step at a sluice (R188-R207), keyed by context, route and step: dispatch messages by
source peer, the mooring table's entries and the bytes of its area (Tables 5.6, 5.7, R199), the fan-in sums by dispatch row, the slots whose last phrase has
drained, combine messages by peer, contributions; `rowBad` are the words of stored rows whose parity fails, as peer, record and word, and `areaBad` those of
the area (R204, R212). -/
structure RouteStep where
  ctx      : Nat
  route    : Nat
  step     : Nat
  routed   : Bool
  rowBad   : List (Nat × Nat × Nat)
  areaBad  : List Nat
  sent     : List (Nat × List DispatchRec)
  got      : List (Nat × A2AHdr × List DispatchRec)
  moored   : Bool
  table    : List (Nat × Nat × Nat)
  area     : List Byte
  admitted : List (Nat × List (Nat × Nat × Nat × BitVec 32))
  droppedR : List (Nat × Nat × Nat)
  fan      : List (Nat × List (BitVec 32))
  fanned   : List Nat
  combined : List (Nat × A2AHdr × List CombineRec)
  combineSent : Bool
  contrib  : List (Nat × List (BitVec 32))
  complete : Bool
  deriving DecidableEq, Repr

/-- A collective of a step at a receiver (R387): kind, route byte, step, contributions by sender, result once whole. -/
structure Coll where
  ctx     : Nat
  kind    : Nat
  route   : Nat
  step    : Nat
  parts   : Tbl (List (BitVec 32))
  result  : Option (List (BitVec 32))
  deriving DecidableEq, Repr

/-! ### Barges -/

/-- A barge slot (R308, R373): header, the members of a packed barge (R319), whether it goes to another device, its grants
and which of them are acknowledged, ticks of sending and resending, resends, its tow, its place in the order of starting (R312), the context of this basin whose quota it takes (R309), whether its grants have left, and the
status once it has landed or failed. -/
structure BargeSlot where
  hdr      : BargeHdr
  members  : List BargeHdr
  remote   : Bool
  grants   : Nat
  acked    : List Nat
  sendTick : Tick
  resentAt : Tbl Nat
  resends  : Tbl Nat
  tow      : Nat
  order    : Nat
  owner    : Nat
  sent     : Bool
  status   : Option Status
  deriving DecidableEq, Repr

/-- A tow posted by firmware (R317): what is not yet started, how many barges run, and what ended; a tow that another one chains to takes no place
of the queue, and the completion word of a tow of the model's own firmware lies in the engine's `doneWords` (log entry 49). -/
structure Tow where
  hdr     : TowHdr
  waiting : List BargeHdr
  running : Nat
  okCount : Nat
  first   : Option Status
  chained : Bool
  own     : Bool
  id      : Nat
  deriving DecidableEq, Repr

/-- A barge of another device that lands here by grants (R374, R375), keyed by origin ordinal x 1,024 + slot: landed grant
indices, parity failures per grant, grants whose GACK is owed, and whether it was discarded. -/
structure Landing where
  hdr    : BargeHdr
  grants : Nat
  landed : List Nat
  fails  : Tbl Nat
  owed   : List Nat
  dead   : Bool
  deriving DecidableEq, Repr

/-- A line-cache line (R230): basin line number, owner, dirty, last use, its 128 bytes and the parity bits of its 32 words (R212). -/
structure LcLine where
  line  : Nat
  ctx   : Nat
  dirty : Bool
  age   : Nat
  bytes : List Byte
  par   : BitVec 32
  deriving DecidableEq, Repr

/-! ### Contexts -/

/-- Residency of one object in a context of a basin (R283), its copies, the pages of its WARM copy and embeddings (R228), and the load under way; a load
that replaces an edition waits for a lockage from tick `askedAt` on (R138). Its WEIGHT chunks begin `off` chunks
into the static region and its cut images `cutOff` images into the cut store (log entry 31). -/
structure ResEntry where
  model   : Nat
  edition : Nat
  state   : Residency
  warm    : Bool
  prev    : Residency
  prevWarm : Bool
  target  : Residency
  chunks  : Nat
  pages   : List Nat
  lane    : Nat
  replace : Bool
  askedAt : Tick
  armed   : Bool
  off     : Nat
  cutOff  : Nat
  deriving DecidableEq, Repr

/-- Turn statistics of MANIFEST_STATS (Table 12.10, 0x20 to 0x47). -/
structure TurnStats where
  turns    : Nat
  late     : Nat
  ttftSum  : Nat
  ttftMax  : Nat
  maxTbt   : Nat
  proposed : Nat
  accepted : Nat
  deriving DecidableEq, Repr

/-- KV directory slot (Table 6.9) with the pages of its descriptor list and those that hold the list. -/
structure KvSlot where
  rebuild : Bool
  pages   : List Nat
  lists   : List Nat
  deriving DecidableEq, Repr

/-- One context of a basin (Table 13.1). `dir` are the 64 pages of its KV directory (R239), `spare` the pages of its quota that it has freed (R236),
`logPages` those of each entry's token log, `areas` those of the mooring table area (4) and the scratch buffer (5) of its cuts where these lie in LPDDR5X (R228). `arith`, `sluice`, `parity` and `barges` are the totals charged to it (R87, R210, R257, R328). -/
structure Ctx where
  exist   : Bool
  slots   : BitVec 4
  pages   : Nat
  key     : List Byte
  sems    : Tbl (BitVec 16)
  res     : List ResEntry
  stats   : TurnStats
  arith   : Tbl Nat
  sluice  : Tbl Nat
  parity  : Tbl Nat
  barges  : Tbl Nat
  skip    : Tbl (BitVec 32)
  dir     : List Nat
  spare   : List Nat
  kvDir   : Tbl KvSlot
  logPages : Tbl (List Nat)
  areas    : Tbl (List Nat)
  routes  : Tbl RouteRec
  tears   : List (Tick × BitVec 32)
  deriving DecidableEq, Repr

/-! ### Basins -/

/-- BSN_ROWMAP_j (Table 3.8), with the count of a row's failures that the spare budget keeps (R500). -/
structure RowMap where
  aCol  : BitVec 6
  aKind : ColKind
  bCol  : BitVec 6
  bKind : ColKind
  failures : Nat
  deriving DecidableEq, Repr

/-- Slot k of BSN_SLOTS (Table 3.11), with the cut that it holds and the place of the cut's images among those of the context's cut
store. -/
structure Slot where
  valid    : Bool
  assigned : Bool
  ctx      : BitVec 2
  tag      : BitVec 2
  filling  : Bool
  model    : Nat
  edition  : Nat
  cutId    : BitVec 32
  place    : Nat
  deriving DecidableEq, Repr

/-- What firmware keeps of a cut's image share in its own memory (R93): header and plan block fields (Tables 3.2, 4.5)
and the tables; `buffers` is (kind, tier, bytes) of Table 4.6, `routes` the share's route records (R178). -/
structure Share where
  model       : Nat
  edition     : Nat
  cutId       : Nat
  kind        : Nat
  sliceBasins : Nat
  ordinal     : Nat
  unit        : Nat
  units       : Nat
  dynKib      : Nat
  statKib     : Nat
  maxRows     : Nat
  maxSeqs     : Nat
  maxLen      : Nat
  maxExpert   : Nat
  maxDraft    : Nat
  maxOps      : Nat
  drainTicks  : Nat
  kvBytes     : Nat
  alignLog2   : Nat
  buffers     : List (Nat × Nat × Nat)
  routes      : Tbl RouteRec
  pounds      : Tbl PoundDef
  queues      : Tbl Queue
  deriving DecidableEq, Repr

/-- BSN_STATE and BSN_RESETS (R538), with the ticks of the resets in the window (R533), the tick of the fence, whether
the drain runs, a reset is due or under way, a thermal fence is released (R590) or waits for a reset (Table 15.9), the dump
is taken, the reset ends in RETIRED, the fence fell into a lockage (R623), contexts whose pages are lost (R525), and the fault for which the contexts
of its cut were torn down until the slice resumes (R477). -/
structure Status15 where
  state    : BState
  held     : Bool
  cause    : Cause
  window   : BitVec 8
  total    : BitVec 16
  resets   : List Tick
  fenceAt  : Tick
  draining : Bool
  resetDue : Bool
  restoring : Bool
  released : Bool
  thermalDue : Bool
  dumped   : Bool
  retireDue : Bool
  midLockage : Bool
  lost     : List Nat
  torn     : Option ArrayFault
  deriving DecidableEq, Repr

/-- BSN_CUT, BSN_CUT_ID and BSN_LOCKSTAT (R139, R177), and whether a slot is active. -/
structure CutWord where
  hasSlot    : Bool
  lockState  : LockState
  epoch      : BitVec 2
  activeSlot : BitVec 2
  cutId      : BitVec 32
  lateLock   : BitVec 8
  lateResume : BitVec 8
  voided     : BitVec 8
  selfFence  : BitVec 8
  deriving DecidableEq, Repr

/-- A basin's part of a lockage (R133-R136): lock tick, resume tick, a resume tick that came late and waits for the keeper's next (R175), the slots that
LOCK gave the basins of the slice by ordinal, none for one that keeps its slot, whether it has switched, and whether it has reported DRAINED. -/
structure LockPart where
  tLock    : Option Tick
  tResume  : Option Tick
  late     : Option Tick
  slots    : List (Option Nat)
  switched : Bool
  reported : Bool
  deriving DecidableEq, Repr

/-- The keeper's record of a lockage (R136, R174, R175): `remote` are the items of basins on other devices that it holds, as (ordinal, slot) (R138). -/
structure Keeper where
  active   : Bool
  remote   : List (Nat × Option Nat)
  tLock    : Tick
  tResume  : Option Tick
  slots    : List (Option Nat)
  lockAcks : List Nat
  drained  : List Nat
  resumeAcks : List Nat
  unsync   : List Nat
  resendAt : Tbl Nat
  deriving DecidableEq, Repr

/-- Sluice of a basin: capacities in effect (Table 5.5), counters (Table 5.9), route steps and collectives, the bytes that barges left in its buffers by sluice
address (Table 8.2), and the intake words among them whose parity fails, as context, step and word (R204, R212). -/
structure Sluice where
  cap    : Tbl (BitVec 16)
  drops  : BitVec 32
  empty  : BitVec 32
  nanTok : BitVec 32
  degen  : BitVec 32
  steps  : List RouteStep
  colls  : List Coll
  buf    : List Host.Cell
  intake : List (Nat × Nat × Nat)
  deriving DecidableEq, Repr

/-- Parity counter words (Table 6.13). -/
structure ParCnt where
  transient : BitVec 32
  reload    : BitVec 32
  replay    : BitVec 32
  void      : BitVec 32
  rebuild   : BitVec 32
  unrec     : BitVec 32
  link      : BitVec 32
  scrubLate : BitVec 32
  deriving DecidableEq, Repr

/-- BSN_SRAM_CTX_c (Table 6.1). -/
structure SramCtx where
  store : BitVec 8
  size  : BitVec 8
  base  : BitVec 8
  deriving DecidableEq, Repr

/-- BSN_BRG_CTX_c (Table 8.4). -/
structure BrgCtx where
  inUse : BitVec 11
  quota : BitVec 11
  deriving DecidableEq, Repr

/-- BSN_MAN_CTX_c (Table 13.2). -/
structure ManCtx where
  count : BitVec 13
  base  : BitVec 12
  deriving DecidableEq, Repr

/-- Barge engine of a basin (R308-R318) with its counters (Table 8.11), the completion words of firmware's own tows by tow number, and the tows whose
completion it notified firmware of, as context and completion word (Table 8.7). -/
structure BargeEng where
  slots  : Tbl BargeSlot
  doneWords : Tbl Nat
  notices : List (Nat × Nat)
  tows   : Tbl (List Tow)
  nextTow : Nat
  started : Nat
  landings : Tbl Landing
  issued : BitVec 32
  small  : BitVec 32
  late   : BitVec 32
  stale  : BitVec 32
  deriving DecidableEq, Repr

/-- LPDDR5X of a basin (R225-R239): contents of the data lines by byte, the parity bits of each data line as its parity line holds them,
lines of which the next read alone fails (R617), pages in use, retired pages and the queue of hard PPRs, line cache, ways in effect, and the
ways that are being moved. -/
structure Dram where
  mem     : List Host.Cell
  par     : Tbl (BitVec 32)
  flaky   : List Nat
  used    : List Nat
  retired : List Nat
  ppr     : List Nat
  cache   : Tbl LcLine
  clock   : Nat
  ways    : Tbl (BitVec 16)
  moving  : BitVec 16
  deriving DecidableEq, Repr

/-- Maintenance of a basin: BSN_DREDGE, dredge window, BSN_BIST, BSN_CAPMASK, gap move under way (row, gap column,
moving column), calibration rotation. -/
structure Maint where
  phase    : BitVec 8
  open_    : Bool
  openAt   : Tick
  extra    : Bool
  windows  : Nat
  reinitAt : Tick
  calChan  : Nat
  routerTile : Nat
  bistState : BitVec 2
  bistRow  : BitVec 2
  bistCol  : BitVec 6
  skipped  : BitVec 8
  failed   : BitVec 8
  excluded : BitVec 4
  passWest : Bool
  nextTest : Nat
  move     : Option (Nat × Nat × Nat)
  moveHeld : Bool
  moveForTest : Bool
  recheck  : Nat
  deriving DecidableEq, Repr

/-- A staged write (R8): offset from the basin base, value, and the tick of its acceptance, at which it became pending (R138). -/
structure StagedWord where
  off   : Nat
  value : BitVec 32
  at_   : Tick
  deriving DecidableEq, Repr

/-- An HMAC_DRBG (R560): its key and value of 32 bytes, none before it is instantiated, and the requests since the last seed. -/
structure Drbg where
  key      : List Byte
  value    : List Byte
  requests : Nat
  deriving DecidableEq, Repr

/-- One basin (Table 1.2). `staged` words wait for a lockage, `armed` ones belong to the one under way (R138); the running basin image is the staged one
when `image`, its start has waited for a lockage since `imageDue`, or belongs to the one under way (R512). `openUp` and `openDown` are the borders as
BSN_SLICE shows them (R34), `drbg` is the basin's DRBG (R560), `nandFault` marks its faulted NAND channel controllers (R276). -/
structure Basin where
  st      : Status15
  sliceId : BitVec 16
  drops   : BitVec 32
  rowmap  : Tbl RowMap
  slots   : Tbl Slot
  shares  : List Share
  cut     : CutWord
  part    : LockPart
  keeper  : Keeper
  sluice  : Sluice
  par     : ParCnt
  sram    : Tbl SramCtx
  brg     : Tbl BrgCtx
  man     : Tbl ManCtx
  eng     : BargeEng
  dram    : Dram
  maint   : Maint
  gen     : BitVec 16
  genTable : Tbl (BitVec 16)
  openUp  : Bool
  openDown : Bool
  drbg    : Drbg
  nandFault : BitVec 4
  ctxs    : Tbl Ctx
  pounds  : Tbl Pound
  queues  : Tbl Queue
  staged  : List StagedWord
  armed   : List StagedWord
  image   : Bool
  imageDue : Option Tick
  imageArmed : Bool
  deriving DecidableEq, Repr

/-! ### The device -/

/-- Rack time (R566-R575). `source` 0 none, 1 time port, 2 towpath; `frame` is the last valid frame value while
acquiring; `peers` the hop counts heard from towpath links (R571); `latchHi` is TIM_NOW_HI. -/
structure Time where
  now      : BitVec 64
  latchHi  : BitVec 32
  source   : BitVec 2
  locked   : Bool
  holdover : Bool
  hops     : BitVec 4
  slips    : BitVec 8
  missed   : BitVec 32
  frame    : Option Nat
  missRun  : Nat
  peers    : Tbl Nat
  lockedTo : Option Nat
  lostAt   : Tick
  unsync   : Bool
  deriving DecidableEq, Repr

/-- A step of the power plan (R453, R585). -/
structure PlanStep where
  start : Tick
  cap   : Nat
  slew  : Nat
  deriving DecidableEq, Repr

/-- Power and temperature (R581-R592). Caps are in units of 10 uW, so that a slew of r W/ms is r units a tick: from `capC`
at tick `capAt`, C moves to `target` at `slew`; `capNext` is the cap and slew that SET_CAP asks for at the next tick; `planSlew` is the
slew of the plan step in force. `boundary` is the number of the last power boundary that acted; `lowSince` is the tick of INPUT_LOW. `overrun` is the energy
since the last report and `episode` that of the overrun under way, in units of 10 uW x 10 ns. -/
structure Power where
  level    : BitVec 7
  duty     : BitVec 9
  nextDuty : Option (BitVec 9)
  tau      : BitVec 7
  shed     : Bool
  rmLost   : Bool
  safe     : Bool
  inputLow : Bool
  capC     : Nat
  capAt    : Tick
  target   : Nat
  slew     : Nat
  planSlew : Nat
  capE     : Nat
  safeCap  : Nat
  plan     : List PlanStep
  overrun  : Nat
  episode  : Nat
  inEpisode : Bool
  capNext  : Option (Nat × Nat)
  boundary : Nat
  lowSince : Tick
  heartbeat : Tick
  tj       : BitVec 12
  thermal  : BitVec 2
  basinTemp : Tbl Int
  coolSince : Tbl Tick
  mgmtTemp : Int
  lowestLevel : BitVec 7
  deriving DecidableEq, Repr

/-- How an output pin group stands (Table 18.5). -/
inductive PinDrive where
  | highZ
  | low
  | high
  | driven
  deriving DecidableEq, Repr

/-- Pins and start-up (R598-R608). PG_RAIL, PG_RUN and ALERT_N are outputs: true is released high (for ALERT_N, high).
`halted` holds the device at a step of Table 18.6; `recovery` is the recovery endpoint (R548), and
`nandFault` the NAND channels that the management port reports as failed at 800 MT/s (R260). -/
structure Pins where
  vinOk    : Bool
  rails    : Bool
  memPg    : Bool
  sysRst   : Bool
  pgRail   : Bool
  pgRun    : Bool
  alertN   : Bool
  i3cAddr  : Option (BitVec 7)
  step     : BitVec 4
  failed   : BitVec 4
  attempts : BitVec 8
  ms       : BitVec 16
  recovery : Bool
  halted   : Bool
  extest   : Bool
  lpddrReset : Bool
  nandFault : List ChanId
  deriving DecidableEq, Repr

/-- Words of one LPDDR5X channel (Tables 6.7, 6.8) and its state. -/
structure MemChan where
  transient : BitVec 16
  stored    : BitVec 16
  retired   : BitVec 16
  pprPending : BitVec 8
  pprDone   : BitVec 8
  st        : ChanSt
  deriving DecidableEq, Repr

/-- MEM_CFG (Table 6.3) and the channels. -/
structure MemDev where
  density : BitVec 2
  ranks   : BitVec 2
  speed   : BitVec 2
  chans   : Tbl MemChan
  deriving DecidableEq, Repr

/-- One block of a NAND channel (R268, R271, R272). -/
structure FlashBlock where
  bad    : Bool
  erases : Nat
  reads  : Nat
  page   : Nat
  deriving DecidableEq, Repr

/-- The flash translation layer (R258-R277): FLS_ words; the cells, erase-block bytes and geometry that the parameter pages gave; the extent map (extent to
65,536 x superblock + page offset in units of 32 pages, plus 1), blocks by channel x 65,536 + block, the superblock table (32 x superblock + channel to
block + 1 where it is not the block of the superblock's number), blocks of the data and the metadata area by channel, superblocks of the data area, the
open superblock with the extents written to it, the good bytes of the data area (R265), the journal's length, saved counts, uncorrectable extents, and
the copies in the configuration record of words that a loss of both supplies clears (0 to 7 slice_id, 8 FAB_CFG, 16 to 23 total of BSN_RESETS, 24 that
such a loss happened). -/
structure Flash where
  luns     : BitVec 2
  targets  : BitVec 2
  speed    : BitVec 3
  capacity : BitVec 21
  opPct    : BitVec 8
  wearPct  : BitVec 8
  grownBad : BitVec 16
  retry    : BitVec 32
  uncorr   : BitVec 32
  savedRetry  : BitVec 32
  savedUncorr : BitVec 32
  qlc      : Bool
  blockBytes : Nat
  map      : Tbl Nat
  blocks   : Tbl FlashBlock
  table    : Tbl Nat
  dataBlocks : List Nat
  metaBlocks : List Nat
  supers   : Nat
  openSuper : Option (Nat × Nat)
  goodBytes : Nat
  badExtents : List Nat
  patrolled : Tbl Tick
  journal  : Nat
  record   : Tbl Nat
  deriving DecidableEq, Repr

/-- One shard of an object: pieces received, acknowledged, damaged, its image, the byte of the object's extents where the image starts, failed re-requests
(R292). -/
structure Shard where
  pieces  : Tbl (List Byte)
  acked   : Bool
  damaged : Bool
  image   : List Byte
  off     : Nat
  rerequests : Nat
  deriving DecidableEq, Repr

/-- An object of the model store (R278, R289), its extents, and its weight chain (R291). -/
structure StoreObj where
  model    : Nat
  edition  : Nat
  mode     : Nat
  count    : Nat
  intakeMs : Nat
  opened   : Tick
  bytes    : Nat
  digest   : BitVec 256
  committed : Bool
  damagedCommit : Bool
  extents  : List Nat
  shards   : Tbl Shard
  upstream : Nat
  downstream : Nat
  source   : Nat
  timedOut : Bool
  deriving DecidableEq, Repr

/-- The model store: objects in the order of their opening, and the forward buffer of the chain: model, edition, device ordinal, shard, image (R291). -/
structure Store where
  objects : List StoreObj
  forward : List (Nat × Nat × Nat × Nat × List Byte)
  deriving DecidableEq, Repr

/-- A fabric link: FAB_LINK_n, FAB_LERR_n, FAB_LCOR_n (Tables 10.12, 10.13), link sequence state and replay buffer
(R367: sequence number and VC), flits that wait for credit or replay space by VC, VC credits (R371), and the ticks of its removal. -/
structure Link where
  st        : LinkSt
  attempts  : BitVec 2
  partnerValid : Bool
  partner   : BitVec 7
  admin     : BitVec 2
  replays   : BitVec 16
  uncorrectable : BitVec 16
  corrected : BitVec 32
  rxSeq     : BitVec 12
  txSeq     : BitVec 12
  nakOut    : Bool
  replay    : List (Nat × Nat)
  waiting   : Tbl Nat
  resentSame : Nat
  credits   : Tbl Nat
  since     : Tick
  adminDue  : Bool
  deriving DecidableEq, Repr

/-- Device-table entry (Table 10.5). -/
structure DevEntry where
  present : Bool
  path    : BitVec 2
  z       : BitVec 2
  y       : BitVec 2
  x       : BitVec 3
  deriving DecidableEq, Repr

/-- Link masks of a peer device (R379). -/
structure PeerMask where
  seq  : Nat
  live : BitVec 84
  deriving DecidableEq, Repr

/-- The fabric (chapter 10). -/
structure Fabric where
  valid    : Bool
  position : BitVec 7
  links    : Tbl Link
  resent   : BitVec 16
  refused  : BitVec 16
  devTable : Tbl DevEntry
  members  : List (Nat × List (Nat × Nat))
  maskSeq  : BitVec 16
  maskDue  : Bool
  peers    : Tbl PeerMask
  laneNext : Nat
  laneTick : Tick
  ignored  : List Nat
  deriving DecidableEq, Repr

/-- An answer of the port itself (R396): the address it answers for, and whom it answers. -/
inductive EthAnswer where
  | advertisement (target source : BitVec 128) (mac : BitVec 48)
  | arpReply (target source : BitVec 32) (mac : BitVec 48)
  | echo6 (target : BitVec 128)
  | echo4 (target : BitVec 32)
  deriving DecidableEq, Repr

/-- The Ethernet port (R394-R399): `levels` are the receive buffers, by priority, with the buffer that the other priorities share under 8. -/
structure Eth where
  pfcB   : BitVec 3
  pfcA   : BitVec 3
  pfcEn  : Bool
  vlanEn : Bool
  vlanId : BitVec 12
  mode   : BitVec 2
  portReset : Bool
  st     : BitVec 2
  stMode : BitVec 2
  ip4    : BitVec 32
  ip6    : Tbl (BitVec 32)
  format : BitVec 16
  auth   : BitVec 16
  levels : Tbl Nat
  xoff   : List Nat
  paused : List Nat
  neighbours : List (Nat × Nat)
  echoes : Nat
  echoTick : Tick
  answers : List EthAnswer
  unauth : Nat
  unauthTick : Tick
  deriving DecidableEq, Repr

/-- What leaves the device in a Rinzan packet. -/
inductive PktKind where
  | reply | notice | delivery
  deriving DecidableEq, Repr

/-- A packet handed to the MAC or to the I3C queue (R400, R417, R419, R423, Table 11.10): `body` is what follows the
reply prefix, from offset 0x20, or in a later fragment what follows the fragment index; `counter` is the device's counter
of the session; `sign` is 0 for a MAC, 1 for the identity key, 2 for the attestation key (R405), whose PSS salt is `salt`; `peer` is where a
datagram goes (R397, R423) and `tag` the VID of its frame, if it is tagged (R395). -/
structure Pkt where
  kind      : PktKind
  carriage  : Carriage
  auth      : Bool
  opcode    : Nat
  session   : Nat
  seq       : Nat
  counter   : Nat
  status    : Status
  committed : Nat
  touched   : Nat
  tick      : Tick
  priority  : Nat
  key       : List Byte
  sign      : Nat
  salt      : List Byte
  frag      : Nat
  more      : Bool
  context   : BitVec 8
  mask      : BitVec 8
  peer      : Peer
  tag       : Option (BitVec 12)
  body      : List Byte
  deriving DecidableEq, Repr

/-- One entry of a reply cache (R420): the command, its tick, and its final reply once it has one. -/
structure CacheEntry where
  seq    : Nat
  cmd    : HostCmd
  tick   : Tick
  reply  : Option Pkt
  deriving DecidableEq, Repr

/-- Notice target of a session (R423). -/
structure NoticeTarget where
  carriage : Nat
  mask     : BitVec 8
  peer     : Peer
  deriving DecidableEq, Repr

/-- The old key that R413 still accepts for the retry of a rotation. -/
structure OldKey where
  key   : List Byte
  seq   : Nat
  cmd   : HostCmd
  until_ : Tick
  deriving DecidableEq, Repr

/-- An open session (R409-R424); `carriage` and `peer` are those of its latest accepted command (R424). -/
structure Session where
  role     : Role
  key      : List Byte
  ctx      : Nat
  basins   : BitVec 8
  rx       : Nat
  tx       : Nat
  rxCount  : Nat
  txCount  : Nat
  cache    : List CacheEntry
  target   : Option NoticeTarget
  noticeSeq : Nat
  lastTick : Tick
  carriage : Carriage
  peer     : Peer
  oldKey   : Option OldKey
  opSlot   : Option (Fin 4)
  deriving DecidableEq, Repr

/-- A command that the endpoint holds for its not-before (R404), with its session as it was at acceptance, none for OPEN_SESSION: the command runs
on when the session closes (R427). -/
structure Held where
  hdr : Hdr
  cmd : HostCmd
  owner : Option Session
  deriving DecidableEq, Repr

/-- A command that was accepted and whose work goes on (R418): the basins that it names, those whose work is done, those
that count as complete (Table 15.3), the tick at which its timeout falls (R403), and the scope of its session (R457). -/
structure RunCmd where
  hdr      : Hdr
  cmd      : HostCmd
  mask     : BitVec 8
  doneMask : BitVec 8
  okMask   : BitVec 8
  begun    : Nat
  units    : Nat
  deadline : Tick
  shortDeadline : Option Tick
  waitOver : Bool
  results  : Tbl Status
  scope    : Nat × BitVec 8
  deriving DecidableEq, Repr

/-- A kept final reply (R457). -/
structure Kept where
  session : Nat
  seq     : Nat
  opcode  : Nat
  tick    : Tick
  ctx     : Nat
  basins  : BitVec 8
  reply   : Pkt
  deriving DecidableEq, Repr

/-- The Rinzan endpoint (chapters 11, 12): open sessions, accepted ciphertext digests with their not_after, held and
running commands, kept replies, the I3C queue, packets held during a handover pause, and what was sent. -/
structure Endpoint where
  sessions : Tbl (Option Session)
  digests  : List (BitVec 256 × Nat)
  held     : List Held
  running  : List RunCmd
  kept     : List Kept
  i3c      : List Pkt
  waiting  : List Pkt
  sent     : List Pkt
  pause    : Bool
  pauseEnd : Tick
  boot     : Bool
  identRate : Nat
  identTick : Tick
  deriving DecidableEq, Repr

/-- A manifest entry (Tables 9.1, 9.2) with its sampling fields (Table 12.9), its token log, the sequence of its
turn and where the command that began it came from, the tick of its end, the delivery before the last (R347), the position that its re-admissions count at (R247), what R341 counts as computed and not
delivered, whether its KV went to the decode basins and which source pound prefilled it (R346). -/
structure Entry where
  st         : ReqSt
  status     : Status
  session    : Nat
  requestId  : Nat
  promptLen  : Nat
  prefilled  : Nat
  genLen     : Nat
  genLimit   : Nat
  tSubmit    : Tick
  deadline   : Option Tick
  tFirst     : Tick
  tLast      : Tick
  tPrev      : Tick
  maxTbt     : Nat
  firstBudget : Nat
  nextBudget : Nat
  holdTicks  : Nat
  kvTag      : Nat
  lateCount  : Nat
  draftProposed : Nat
  draftAccepted : Nat
  draftReq   : Nat
  rejectRun  : Nat
  cooldown   : Nat
  readmits   : Nat
  readmitPos : Nat
  rebuilds   : Nat
  rebuilt    : Nat
  stopToken  : Nat
  basin      : Nat
  ctx        : Nat
  priority   : Nat
  latePolicy : Nat
  latePending : Bool
  pause      : Pause
  hold       : Bool
  demoted    : Bool
  inStep     : Bool
  draftOff   : Bool
  draftLen   : Nat
  temperature : BitVec 32
  topP       : BitVec 32
  topK       : Nat
  log        : List (BitVec 32)
  turnTokens : Nat
  logPages   : Nat
  turnSeq    : Nat
  peer       : Peer
  turnLate   : Nat
  turnProposed : Nat
  turnAccepted : Nat
  lateNext   : Bool
  undelivered : Nat
  finalSent  : Bool
  endTick    : Tick
  pauseTick  : Tick
  cancelBy   : List (Nat × Nat)
  failWith   : Option Status
  draftDone  : Nat
  kvMoved    : Bool
  prefillAt  : Option (Nat × Nat)
  deriving DecidableEq, Repr

/-- Balance policy and its evaluations at the keeper of a slice (R354-R356). -/
structure Balance where
  sliceId   : Nat
  policy    : Option BalanceP
  pending   : Option BalanceP
  lastEval  : Tick
  lastMove  : Tick
  firstLate : Nat
  nextLate  : Nat
  deriving DecidableEq, Repr

/-- A timer of the manifest that fell due while a command of the same tick waited (R334): a deadline, the end of a hold, or of an ended entry. -/
inductive Timer where
  | deadline (entry : Nat)
  | hold (entry : Nat)
  | release (entry : Nat)
  deriving DecidableEq, Repr

/-- The manifest (chapter 09): entries, steps in flight, balance policies, and timers that act at the tick's end. -/
structure Manifest where
  due     : List Timer
  entries : Tbl Entry
  flights : List Flight
  balance : List Balance
  deriving DecidableEq, Repr

/-- A SELECT_CUT that waits for its lockage (R445) since tick `at_`. -/
structure Select where
  session : Nat
  seq     : Nat
  at_     : Tick
  slice   : Nat
  bytes   : List Byte
  armed   : Bool
  deriving DecidableEq, Repr

/-- What a slot holds of an image that runs or ran (R546, Table 16.6). -/
structure FwRun where
  measure  : BitVec 256
  version  : Nat
  security : Nat
  cosigned : Bool
  deriving DecidableEq, Repr

/-- One firmware image type (Tables 14.13, 16.6): running and staged image, pieces held by KiB. `prev` is the image of the other slot that ran before, for
the boot loader the fallback copy while a boot copy runs (R547). -/
structure FwImage where
  prev        : Option FwRun
  st          : FwSt
  running     : BitVec 256
  runVersion  : Nat
  runSecurity : Nat
  runCosigned : Bool
  bytes       : Nat
  pieces      : Tbl (List Byte)
  staged      : BitVec 256
  version     : Nat
  security    : Nat
  cosigned    : Bool
  vendorSlot  : Nat
  revokeLower : Bool
  fallback    : Bool
  burned      : Nat
  burning     : Bool
  deriving DecidableEq, Repr

/-- Fuses (Table 16.2), the identity and attestation keys of the key store as modulus and private exponent (R541), the central DRBG (R560), debug authorization
(R561-R563), attestation (R555) and images. -/
structure Security where
  vendorHash : List (BitVec 256)
  identity : Nat × Nat
  attestation : Nat × Nat
  vendorRev  : BitVec 4
  opProg     : BitVec 4
  opRev      : BitVec 4
  opHash     : Tbl (BitVec 256)
  opStored   : Tbl (List Byte)
  enforce    : Bool
  images     : Tbl FwImage
  attests    : Nat
  entropyFails : Nat
  entropyFlag : Bool
  drbg     : Drbg
  challenges : Tbl (Option (List Byte × Tick))
  auths      : Tbl (Option (Fin 4))
  resp       : Tbl (BitVec 32)
  failoverSeen : Bool
  deriving DecidableEq, Repr

/-- A perturbation slot (Table 19.4): `left` is the duration in ms as set, 0xFFFF_FFFF until cleared, counted from the tick `since` at
which the slot came into force; `grants` counts the grants corrupted, or holds the tick of the last extra window (R617). -/
structure Perturb where
  active  : Bool
  kind    : BitVec 8
  session : BitVec 16
  target  : BitVec 32
  amount  : BitVec 32
  left    : BitVec 32
  since   : Tick
  grants  : Nat
  deriving DecidableEq, Repr

/-- A trace record (R611). -/
structure TraceRec where
  tick   : Tick
  source : BitVec 8
  ctx    : Byte
  data   : BitVec 48
  deriving DecidableEq, Repr

/-- Trace (R611-R614): configuration, armed, recording, and the buffers. -/
structure Trace where
  sources   : BitVec 16
  basins    : BitVec 8
  trigger   : BitVec 32
  wrap      : Bool
  armed     : Bool
  recording : Tbl Bool
  buf       : Tbl (List TraceRec)
  deriving DecidableEq, Repr

/-- A dump record (Table 15.4): cause, scope, tick, directory of (kind, index, words read, status), and the units' images in its
order. -/
structure Dump where
  cause  : Cause
  basins : BitVec 8
  device : Bool
  failover : Bool
  tick   : Tick
  units  : List (Nat × Nat × Nat × Nat)
  images : List (List Byte)
  deriving DecidableEq, Repr

/-- Crash dumps (R529-R532): records in the retention SRAM and in flash, newest first; what was exported; the record that
the engine is writing. -/
structure Dumps where
  retention : List Dump
  flash     : List Dump
  exported  : List Dump
  current   : Option Dump
  deriving DecidableEq, Repr

/-- The management complex (R509-R511, R535, R497): OUT_OF_SERVICE, unplanned failovers within the hour, active core,
handover under way, BIST_POLICY with the policy (enabled, order, period, parameters) that waits for the next tick (Table 12.14), persisted
residency for rehydration (R604), and what barges wrote to its memory by address (Table 8.2). -/
structure Mgmt where
  oos       : Bool
  failovers : List Tick
  bootFails : Nat
  core      : Nat
  activating : Bool
  warmDue   : Option Tick
  bistOn    : Bool
  bistOrder : Bool
  bistPeriod : Nat
  bistParams : BitVec 32
  bistNext  : Option (Bool × Bool × Nat × BitVec 32)
  logsSaved : Bool
  mem       : List Host.Cell
  deriving DecidableEq, Repr

/-- A message that leaves on the fabric (Tables 10.8, 10.9) or between basins of the device. -/
inductive Msg where
  | shape (home pound : Nat) (r : ShapeRec)
  | seal (home pound qid step : Nat)
  | void (home pound qid step : Nat)
  | qcredit (qid credits : Nat)
  | gack (slot first last : Nat)
  | gnak (slot grant : Nat)
  | refuse (slot : Nat)
  | status (slot : Nat) (st : Status)
  | lock (sent tLock : Nat) (slots : List (Option Nat)) (keeper : Nat)
  | lockAck (ordinal : Nat) (unsync : Bool)
  | resume (tResume : Nat)
  | resumeAck (ordinal : Nat)
  | drained (ordinal : Nat) (unsync : Bool)
  | mask (position seq : Nat) (live : BitVec 84)
  | gen (ordinal generation : Nat)
  | time (v hops source : Nat)
  | grant (slot grant resend : Nat) (bad : Bool) (data : List Byte)
  | dispatch (ctx : Nat) (h : A2AHdr) (recs : List DispatchRec)
  | combine (ctx : Nat) (h : A2AHdr) (recs : List CombineRec)
  | collective (ctx : Nat) (h : A2AHdr) (values : List (BitVec 32))
  | queueFlits (qid : Nat) (flits : List Flit)
  | pendingItem (ordinal : Nat) (slot : Option Nat)
  | balance (p : BalanceP)
  | towpath (dst : Nat)
  | shardRequest (model edition device shard : Nat) (source : Option Nat)
  | shardForward (model edition device shard : Nat) (image : List Byte)
  | dump (tick : Nat)
  deriving DecidableEq, Repr

/-- Where a message goes: the basin of an ordinal of a slice, a device by position, or a link. -/
inductive Dest where
  | member (slice ordinal : Nat) | basin (b : Nat) | egress (qid : Nat) | device (position : Nat) | link (n : Nat)
  deriving DecidableEq, Repr

/-- What stands in the outboxes of the fabric: messages in the order of sending, with the link of another device's (R376, R389) and, of the route
header, the slice and the generation of the origin basin and the cut epoch of its active slot (R127, Table 10.4). -/
structure Sent where
  src   : Nat
  dest  : Dest
  msg   : Msg
  via   : Option Nat
  slice : Nat
  gen   : Nat
  epoch : Nat
  deriving DecidableEq, Repr

/-- The state of the device. `pending` is the queue of commands; `live` holds class L writes and `ptbNext` perturbation slots for the next tick; `freeCtr` is the model's own (log entry 4). -/
structure State where
  pending : List Instr
  freeCtr : Nat
  time    : Time
  power   : Power
  pins    : Pins
  memDev  : MemDev
  flash   : Flash
  store   : Store
  fab     : Fabric
  eth     : Eth
  ep      : Endpoint
  man     : Manifest
  selects : List Select
  sec     : Security
  ptb     : Tbl Perturb
  ptbNext : List (Nat × Perturb)
  trace   : Trace
  dumps   : Dumps
  mgmt    : Mgmt
  live    : List (Nat × BitVec 32 × Nat)
  basins  : Tbl Basin
  tiles   : Tbl Tile
  msgs    : List Sent
  deriving DecidableEq, Repr

/-- Why the machine could stop. No row of the spec's table stops this block: what the spec calls a fault is a status
and a change of state. -/
inductive Fault where
  /-- Raised by no meaning (safe): the type is closed and holds the one name that the interface asks for. -/
  | noFault
  deriving DecidableEq, Repr

/-- Why the model could have no meaning for a command. -/
inductive Refusal where
  /-- Raised by an arm of `exec` that has no meaning yet (safe). -/
  | notModelled (mnemonic : String)
  deriving DecidableEq, Repr

/-! ### Reset -/

/-- The device after reset: every field map at its Reset column; start-up has reached step 4 of Table 18.6 (PWR_START,
Table 18.7), no operator slot is programmed (R551), every basin is OFFLINE and unlisted in the tables, memory lists
nothing. Fields without a reset value in the spec: log entries 1, 2 and 4. -/
def State.reset : State where
  pending := []
  freeCtr := 0
  time := { now := 0, latchHi := 0, source := 0, locked := false, holdover := false, hops := 15, slips := 0, missed := 0,
            frame := none, missRun := 0, peers := [], lockedTo := none, lostAt := 0, unsync := false }
  power := { level := 40, duty := 0, nextDuty := none, tau := 100, shed := false, rmLost := false, safe := false,
             inputLow := false, capC := 48000000, capAt := 0, target := 48000000, slew := 40, planSlew := 40,
             capE := 48000000, safeCap := 48000000, plan := [], overrun := 0, episode := 0, inEpisode := false,
             capNext := none, boundary := 0, lowSince := 0, heartbeat := 0, tj := 0, thermal := 0, basinTemp := [], coolSince := [], mgmtTemp := 0, lowestLevel := 40 }
  pins := { vinOk := true, rails := true, memPg := true, sysRst := false, pgRail := true, pgRun := false, alertN := false,
            i3cAddr := none, step := 4, failed := 0, attempts := 0, ms := 0, recovery := false, halted := false,
            extest := false, lpddrReset := true, nandFault := [] }
  memDev := { density := 0, ranks := 1, speed := 0, chans := [] }
  flash := { luns := 0, targets := 0, speed := 0, capacity := 0, opPct := 0, wearPct := 0, grownBad := 0, retry := 0,
             uncorr := 0, savedRetry := 0, savedUncorr := 0, qlc := false, blockBytes := 0, map := [], blocks := [], table := [], dataBlocks := [], metaBlocks := [], supers := 0, openSuper := none, goodBytes := 0,
             badExtents := [], patrolled := [],
             journal := 0, record := [] }
  store := { objects := [], forward := [] }
  fab := { valid := false, position := 0, links := [], resent := 0, refused := 0, devTable := [], members := [],
           maskSeq := 0, maskDue := false, peers := [], laneNext := 0, laneTick := 0, ignored := [] }
  eth := { pfcB := 1, pfcA := 3, pfcEn := true, vlanEn := false, vlanId := 0, mode := 0, portReset := false, st := 0,
           stMode := 0, ip4 := 0, ip6 := [], format := 0, auth := 0, levels := [], xoff := [], paused := [],
           neighbours := [], echoes := 0, echoTick := 0, answers := [], unauth := 0, unauthTick := 0 }
  ep := { sessions := [], digests := [], held := [], running := [], kept := [], i3c := [], waiting := [], sent := [],
          pause := false, pauseEnd := 0, boot := false, identRate := 0, identTick := 0 }
  man := { due := [], entries := [], flights := [], balance := [] }
  selects := []
  sec := { vendorHash := (List.range 4).map Config.vendorHash, identity := (Config.identityModulus, Config.identityExponent),
           attestation := (Config.attestationModulus, Config.attestationExponent), vendorRev := 0, opProg := 0, opRev := 0, opHash := [], opStored := [], enforce := false, images := [],
           attests := 0, entropyFails := 0, entropyFlag := false, drbg := { key := Config.drbgKey, value := Config.drbgValue, requests := 1 }, challenges := [], auths := [],
           resp := [], failoverSeen := false }
  ptb := []
  ptbNext := []
  trace := { sources := 0, basins := 0, trigger := 0, wrap := false, armed := false, recording := [], buf := [] }
  dumps := { retention := [], flash := [], exported := [], current := none }
  mgmt := { oos := false, failovers := [], bootFails := 0, core := 0, activating := false, warmDue := none,
            bistOn := false, bistOrder := false, bistPeriod := 0, bistParams := 0, bistNext := none, logsSaved := false, mem := [] }
  live := []
  basins := []
  tiles := []
  msgs := []

end Sys2Proof.Machine
end

