-- ==== Sys2Proof/Machine/Tbl.lean ====
section
/-! DEFINITION. Sparse tables and byte memory: reading and writing one key, and the canonical form (keys strictly
rising, no entry equal to what an unlisted key reads as). Every indexed piece of State goes through these. -/

namespace Sys2Proof.Machine

/-- What key `k` holds; `d` is what an unlisted key reads as. -/
def Tbl.get {α : Type} (d : α) (k : Nat) : Tbl α → α
  | [] => d
  | (j, v) :: t => if k = j then v else Tbl.get d k t

/-- The table without key `k`. -/
def Tbl.drop {α : Type} (k : Nat) (t : Tbl α) : Tbl α := t.filter fun e => !decide (e.1 = k)

/-- `v` under key `k`, before the first higher key. -/
def Tbl.put {α : Type} (k : Nat) (v : α) : Tbl α → Tbl α
  | [] => [(k, v)]
  | (j, w) :: t => if k < j then (k, v) :: (j, w) :: t else (j, w) :: Tbl.put k v t

/-- The table with key `k` holding `v`; writing the value that an unlisted key reads as removes the entry. -/
def Tbl.set {α : Type} [DecidableEq α] (d : α) (k : Nat) (v : α) (t : Tbl α) : Tbl α :=
  if v = d then Tbl.drop k t else Tbl.put k v (Tbl.drop k t)

/-- Key `k` changed by `f`. -/
def Tbl.mod {α : Type} [DecidableEq α] (d : α) (k : Nat) (f : α → α) (t : Tbl α) : Tbl α :=
  Tbl.set d k (f (Tbl.get d k t)) t

/-- Every key of a table lies above `k`. -/
def Tbl.above {α : Type} (k : Nat) (t : Tbl α) : Bool := t.all fun e => k < e.1

/-- The canonical form of a table. -/
def Tbl.wf {α : Type} [DecidableEq α] (d : α) : Tbl α → Bool
  | [] => true
  | (j, w) :: t => Tbl.above j t && !decide (w = d) && Tbl.wf d t

/-- Byte memory in canonical form: an unlisted address reads as 0 (log entry 1). -/
abbrev Memory := List Host.Cell

/-- The canonical form of a byte memory. -/
abbrev Memory.wf (m : Memory) : Bool := Tbl.wf (0 : Byte) m

/-- One byte. -/
def Memory.byte (m : Memory) (a : Nat) : Byte := Tbl.get 0 a m

/-- One byte written. -/
def Memory.setByte (m : Memory) (a : Nat) (v : Byte) : Memory := Tbl.set 0 a v m

/-- `n` bytes from `a`. -/
def Memory.read (m : Memory) (a : Nat) : Nat → List Byte
  | 0 => []
  | n + 1 => m.byte a :: Memory.read m (a + 1) n

/-- Bytes written from `a` upward. -/
def Memory.write (m : Memory) (a : Nat) : List Byte → Memory
  | [] => m
  | v :: vs => Memory.write (m.setByte a v) (a + 1) vs

/-- Entries of `t` with keys in [a, a + n) dropped, for a memory: written with zeros. -/
def Tbl.clear {α : Type} (a n : Nat) (t : Tbl α) : Tbl α := t.filter fun e => !(decide (a ≤ e.1) && decide (e.1 < a + n))

/-- `n` bytes from `a` zeroed (an unlisted address reads as 0). -/
def Memory.zero (m : Memory) (a n : Nat) : Memory := Tbl.clear a n m

/-- A list of bytes as one little-endian number (R5, on-chip structures). -/
def leNat : List Byte → Nat
  | [] => 0
  | b :: bs => b.toNat + 256 * leNat bs

/-- `n` bytes of a number, little-endian. -/
def natLe : Nat → Nat → List Byte
  | 0, _ => []
  | n + 1, v => BitVec.ofNat 8 v :: natLe n (v / 256)

/-- A list of bytes as one big-endian number (R5, Rinzan fields). -/
def beNat (bs : List Byte) : Nat := bs.foldl (fun a b => a * 256 + b.toNat) 0

/-- `n` bytes of a number, big-endian. -/
def natBe (n v : Nat) : List Byte := (natLe n v).reverse

/-- One 32-bit word, little-endian (R5). -/
def Memory.word (m : Memory) (a : Nat) : BitVec 32 := BitVec.ofNat 32 (leNat (m.read a 4))

/-- `n` 32-bit words from byte `a`. -/
def Memory.words (m : Memory) (a : Nat) : Nat → List (BitVec 32)
  | 0 => []
  | n + 1 => m.word a :: Memory.words m (a + 4) n

/-- 32-bit words written from byte `a`, little-endian. -/
def Memory.writeWords (m : Memory) (a : Nat) : List (BitVec 32) → Memory
  | [] => m
  | w :: ws => Memory.writeWords (m.write a (natLe 4 w.toNat)) (a + 4) ws

/-- A number put into a rising list. -/
def insertNat (j : Nat) : List Nat → List Nat
  | [] => [j]
  | k :: t => if j ≤ k then j :: k :: t else k :: insertNat j t

/-- A counter field that saturates at its width. -/
def satAdd {w : Nat} (c : BitVec w) (n : Nat) : BitVec w :=
  if c.toNat + n < 2 ^ w then BitVec.ofNat w (c.toNat + n) else BitVec.allOnes w

end Sys2Proof.Machine
end

