-- ==== Sys2Proof/Machine/Ops.lean ====
section
/-! DEFINITION. What an unlisted unit holds, and the named operations by which every meaning reads and writes basins,
tiles, links, contexts, sessions and manifest entries, sends messages and packets, and draws free values. -/

namespace Sys2Proof.Machine

/-! ### What an unlisted unit holds -/

/-- Arithmetic counters at 0. -/
def TileCnt.zero : TileCnt :=
  { satNarrow := 0, satArith := 0, nanOut := 0, badCode := 0, skip := 0, muActive := 0, muLoadWait := 0 }

/-- A weight plane after reset: zeros (log entry 2). -/
def WPlane.fresh : WPlane := { mode := .f8, sp := .dense, fmt := .e4m3, q := 0, bytes := [], real := true }

/-- Matrix unit and issue of a tile after reset (log entry 2). -/
def TileCore.fresh : TileCore :=
  { active := WPlane.fresh, shadow := WPlane.fresh, loaded := false, due := 0, rowsMet := 0, pack := none, accMode := [], stale := [], regs := [],
    sp := [], cmp := [], inPhrase := false, phrase := none, pc := 0, cyc := 0, used := [], len := 0, loops := [], ops := [], claims := 0,
    gathers := 0, drained := 0, iters := 0, sets := [], stage := [], stopped := false, halves := [], came := [] }

/-- A tile's part of the storage of a queue that holds nothing. -/
def QPart.fresh : QPart := { arrived := 0, stored := [], taken := 0 }

/-- A tile after reset (Table 2.12, Table 14.11; log entries 1 and 2). -/
def Tile.fresh : Tile where
  cnt := TileCnt.zero
  base := TileCnt.zero
  gen := 0
  mem := { opbuf := [], acc := [], sched := [], column := [], parity := [] }
  core := TileCore.fresh
  net := { inq := [], route := none, slots := [], egress := [], transit := [], queue := [], last := [], replayFrom := [] }
  maint := { lastTest := 3, testTick := 0, named := false, dirty := [], scrubbing := false, scrubDue := 0 }

/-- A ring descriptor of a pound that no cut declares. -/
def Ring.fresh : Ring :=
  { shape := 0, h := 0, w := 0, rings := 0, g := 0, sMax := 0, unit := 0, staticBase := 0, stageBytes := 0 }

/-- A pound-table entry not in use. -/
def PoundDef.fresh : PoundDef :=
  { source := false, sink := false, splitK := false, contNext := false, contPrev := false, top := 0, left := 0,
    height := 0, width := 0, firstLayer := 0, layers := 0, phrases := 0, inQ := [], outQ := [], stepCycles := 0,
    ring := Ring.fresh }

/-- The plan of a sequencer that runs no phrase. -/
def PhrasePlan.fresh : PhrasePlan := { s := 1, ku := 1, unitBytes := 0, beat := 32, fill := 0, segs := 1, form := none, reduces := false }

/-- A pound sequencer that runs no pound. -/
def Pound.fresh : Pound :=
  { ctx := 0, pdef := PoundDef.fresh, step := 0, running := false, startTick := 0, startDuty := 256, rows := 0, seqs := 0,
    prog := [], at_ := (0, 0), piece := 0, pieceStart := 0, pieceTick := 0, pace := (1, 9600), plan := PhrasePlan.fresh, phrase := none, phraseOn := false, lanes := [], laneSeg := 0, commits := [],
    taint := false, unrepaired := false, replays := 0, replaying := false, held := false, stopped := false, fault := none, stopCyc := 0, credits := [],
    shapes := [], sealed := [], voids := [], nextFormed := none }

/-- A queue that no cut declares. -/
def Queue.fresh : Queue :=
  { producer := 0, consumer := 0, skipped := 0, depth := 0, stepMax := 0, store := 0, launch := 0, perBlock := 0,
    fixed := 0, popped := 0, owed := 0, pushed := 0, marks := [] }

/-- BSN_ROWMAP_j after reset: 0x0000_2120 (R121). -/
def RowMap.fresh : RowMap := { aCol := 32, aKind := .spare, bCol := 33, bKind := .spare, failures := 0 }

/-- A cut slot after reset (Table 3.11). -/
def Slot.fresh : Slot :=
  { valid := false, assigned := false, ctx := 0, tag := 0, filling := false, model := 0, edition := 0, cutId := 0, place := 0 }

/-- Turn statistics of a new context. -/
def TurnStats.fresh : TurnStats :=
  { turns := 0, late := 0, ttftSum := 0, ttftMax := 0, maxTbt := 0, proposed := 0, accepted := 0 }

/-- A locator of zeros. -/
def noHdr : BargeHdr :=
  { src := .zero, dst := .zero, rows := 0, rowUnits := 0, format := 0, epoch := 0, ctx := 0, cls := .step, packed := false,
    last := false, generation := 0, slot := 0, origin := 0, step := 0 }

/-- A barge slot that is free: its header has no rows. -/
def BargeSlot.fresh : BargeSlot :=
  { hdr := noHdr, members := [], remote := false, grants := 0, acked := [], sendTick := 0, resentAt := [],
    resends := [], tow := 0, order := 0, owner := 0, sent := false, status := none }

/-- No barge lands here. -/
def Landing.fresh : Landing := { hdr := noHdr, grants := 0, landed := [], fails := [], owed := [], dead := false }

/-- An invalid line of the line cache: no context owns it. -/
def LcLine.fresh : LcLine := { line := 0, ctx := 4, dirty := false, age := 0, bytes := [], par := 0 }

/-- A context that does not exist. -/
def Ctx.fresh : Ctx :=
  { exist := false, slots := 0, pages := 0, key := [], sems := [], res := [],
    stats := TurnStats.fresh, arith := [], sluice := [], parity := [], barges := [], skip := [], dir := [], spare := [], kvDir := [],
    logPages := [], areas := [], routes := [], tears := [] }

/-- A route record that is not loaded. -/
def RouteRec.fresh : RouteRec :=
  { layer := 0, experts := 0, k := 0, score := 0, normalize := false, bias := false, peers := 0, local_ := 0,
    dispatchFmt := 0, combineFmt := 8, gateScale := 0, biases := [], peerOrd := [], self := 0 }

/-- A KV directory slot that is not valid. -/
def KvSlot.fresh : KvSlot := { rebuild := false, pages := [], lists := [] }

/-- BSN_SRAM_CTX_c, BSN_BRG_CTX_c and BSN_MAN_CTX_c of a context that does not exist. -/
def SramCtx.fresh : SramCtx := { store := 0, size := 0, base := 0 }
/-- BSN_BRG_CTX_c at reset. -/
def BrgCtx.fresh : BrgCtx := { inUse := 0, quota := 0 }
/-- BSN_MAN_CTX_c at reset. -/
def ManCtx.fresh : ManCtx := { count := 0, base := 0 }

/-- A keeper with no lockage. -/
def Keeper.fresh : Keeper :=
  { active := false, remote := [], tLock := 0, tResume := none, slots := [], lockAcks := [], drained := [],
    resumeAcks := [], unsync := [], resendAt := [] }

/-- A basin with no lockage under way. -/
def LockPart.fresh : LockPart :=
  { tLock := none, tResume := none, late := none, slots := [], switched := false, reported := false }

/-- Parity counters at reset (Table 6.14). -/
def ParCnt.fresh : ParCnt :=
  { transient := 0, reload := 0, replay := 0, void := 0, rebuild := 0, unrec := 0, link := 0, scrubLate := 0 }

/-- BSN_CUT, BSN_CUT_ID and BSN_LOCKSTAT at reset (Tables 3.14, 4.9). -/
def CutWord.fresh : CutWord :=
  { hasSlot := false, lockState := .idle, epoch := 0, activeSlot := 0, cutId := 0, lateLock := 0, lateResume := 0, voided := 0,
    selfFence := 0 }

/-- An idle sluice (Table 5.10). -/
def Sluice.fresh : Sluice := { cap := [], drops := 0, empty := 0, nanTok := 0, degen := 0, steps := [], colls := [], buf := [], intake := [] }

/-- An idle barge engine (Table 8.12). -/
def BargeEng.fresh : BargeEng :=
  { slots := [], doneWords := [], notices := [], tows := [], nextTow := 0, started := 0, landings := [], issued := 0, small := 0, late := 0, stale := 0 }

/-- Basin `b` after reset; BSN_DREDGE resets to 25 x b (Table 14.2). -/
def Basin.fresh (b : Nat) : Basin where
  st := { state := .offline, held := false, cause := .none, window := 0, total := 0, resets := [], fenceAt := 0,
          draining := false, resetDue := false, restoring := false, released := false, thermalDue := false, dumped := false,
          retireDue := false, midLockage := false, lost := [], torn := none }
  sliceId := 0
  drops := 0
  rowmap := []
  slots := []
  shares := []
  cut := CutWord.fresh
  part := LockPart.fresh
  keeper := Keeper.fresh
  sluice := Sluice.fresh
  par := ParCnt.fresh
  sram := []
  brg := []
  man := []
  eng := BargeEng.fresh
  dram := { mem := [], par := [], flaky := [], used := [], retired := [], ppr := [], cache := [], clock := 0, ways := [], moving := 0 }
  maint := { phase := BitVec.ofNat 8 (25 * b), open_ := false, openAt := 0, extra := false, reinitAt := 0, windows := 0, calChan := 0,
             routerTile := 0, bistState := 0, bistRow := 0, bistCol := 0, skipped := 0, failed := 0, excluded := 0,
             passWest := true, nextTest := 0, move := none, moveHeld := false, moveForTest := false, recheck := 0 }
  gen := 0
  genTable := []
  openUp := false
  openDown := false
  drbg := { key := [], value := [], requests := 0 }
  nandFault := 0
  ctxs := []
  pounds := []
  queues := []
  staged := []
  armed := []
  image := false
  imageDue := none
  imageArmed := false

/-- Words of an LPDDR5X channel at reset (Tables 6.7, 6.8). -/
def MemChan.fresh : MemChan :=
  { transient := 0, stored := 0, retired := 0, pprPending := 0, pprDone := 0, st := .untrained }

/-- A fabric link at reset (Tables 10.12, 10.13); each VC has 9 flits of credit (R371). -/
def Link.fresh : Link :=
  { st := .down, attempts := 0, partnerValid := false, partner := 0, admin := 0, replays := 0, uncorrectable := 0,
    corrected := 0, rxSeq := 0, txSeq := 0, nakOut := false, replay := [], waiting := [], resentSame := 0, credits := [], since := 0,
    adminDue := false }

/-- A device-table entry with no device (Table 10.5). -/
def DevEntry.fresh : DevEntry := { present := false, path := 0, z := 0, y := 0, x := 0 }

/-- A peer whose mask has not arrived. -/
def PeerMask.fresh : PeerMask := { seq := 0, live := 0 }

/-- A block of the flash with no use yet. -/
def FlashBlock.fresh : FlashBlock := { bad := false, erases := 0, reads := 0, page := 0 }

/-- A shard that has not arrived. -/
def Shard.fresh : Shard := { pieces := [], acked := false, damaged := false, image := [], off := 0, rerequests := 0 }

/-- A FREE manifest entry (Table 9.1). -/
def Entry.fresh : Entry :=
  { st := .free, status := .ok, session := 0, requestId := 0, promptLen := 0, prefilled := 0, genLen := 0, genLimit := 0,
    tSubmit := 0, deadline := none, tFirst := 0, tLast := 0, tPrev := 0, maxTbt := 0, firstBudget := 0, nextBudget := 0,
    holdTicks := 0, kvTag := 0, lateCount := 0, draftProposed := 0, draftAccepted := 0, draftReq := 0, rejectRun := 0,
    cooldown := 0, readmits := 0, readmitPos := 0, rebuilds := 0, rebuilt := 0, stopToken := 0, basin := 0, ctx := 0, priority := 0, latePolicy := 0,
    latePending := false, pause := .none, hold := false, demoted := false, inStep := false, draftOff := false,
    draftLen := 0, temperature := 0, topP := 0, topK := 0, log := [], turnTokens := 0, logPages := 0, turnSeq := 0,
    peer := ⟨0, 0⟩, turnLate := 0, turnProposed := 0,
    turnAccepted := 0, lateNext := false, undelivered := 0, finalSent := false,
    endTick := 0, pauseTick := 0, cancelBy := [], failWith := none, draftDone := 0, kvMoved := false, prefillAt := none }

/-- A firmware image type with nothing staged (Table 14.13). -/
def FwImage.fresh : FwImage :=
  { st := .none, running := 0, runVersion := 0, runSecurity := 0, runCosigned := false, bytes := 0, pieces := [],
    staged := 0, version := 0, security := 0, cosigned := false, vendorSlot := 0, revokeLower := false,
    fallback := false, burned := 0, burning := false, prev := none }

/-- A perturbation slot at reset (Table 19.4). -/
def Perturb.fresh : Perturb :=
  { active := false, kind := 0, session := 0, target := 0, amount := 0, left := 0, since := 0, grants := 0 }

/-! ### Units of the device -/

namespace State

/-- Rack time as a number (R3). -/
def now (s : State) : Tick := s.time.now.toNat

/-- Basin `b`. -/
def basin (s : State) (b : Nat) : Basin := Tbl.get (Basin.fresh b) b s.basins
/-- Basin `b` replaced. -/
def setBasin (s : State) (b : Nat) (x : Basin) : State := { s with basins := Tbl.set (Basin.fresh b) b x s.basins }
/-- Basin `b` changed by `f`. -/
def modBasin (s : State) (b : Nat) (f : Basin → Basin) : State := s.setBasin b (f (s.basin b))

/-- Tile `t`. -/
def tile (s : State) (t : Nat) : Tile := Tbl.get Tile.fresh t s.tiles
/-- Tile `t` replaced. -/
def setTile (s : State) (t : Nat) (x : Tile) : State := { s with tiles := Tbl.set Tile.fresh t x s.tiles }
/-- Tile `t` changed by `f`. -/
def modTile (s : State) (t : Nat) (f : Tile → Tile) : State := s.setTile t (f (s.tile t))

/-- Fabric link `n`. -/
def link (s : State) (n : Nat) : Link := Tbl.get Link.fresh n s.fab.links
/-- Fabric link `n` changed by `f`. -/
def modLink (s : State) (n : Nat) (f : Link → Link) : State :=
  { s with fab := { s.fab with links := Tbl.mod Link.fresh n f s.fab.links } }

/-- LPDDR5X channel `m`. -/
def chan (s : State) (m : Nat) : MemChan := Tbl.get MemChan.fresh m s.memDev.chans
/-- LPDDR5X channel `m` changed by `f`. -/
def modChan (s : State) (m : Nat) (f : MemChan → MemChan) : State :=
  { s with memDev := { s.memDev with chans := Tbl.mod MemChan.fresh m f s.memDev.chans } }

/-- Manifest entry `i`. -/
def entry (s : State) (i : Nat) : Entry := Tbl.get Entry.fresh i s.man.entries
/-- Manifest entry `i` replaced. -/
def setEntry (s : State) (i : Nat) (e : Entry) : State :=
  { s with man := { s.man with entries := Tbl.set Entry.fresh i e s.man.entries } }
/-- Manifest entry `i` changed by `f`. -/
def modEntry (s : State) (i : Nat) (f : Entry → Entry) : State := s.setEntry i (f (s.entry i))

/-- Session `n`, if it is open. -/
def session (s : State) (n : Nat) : Option Session := Tbl.get none n s.ep.sessions
/-- Session `n` replaced or closed. -/
def setSession (s : State) (n : Nat) (x : Option Session) : State :=
  { s with ep := { s.ep with sessions := Tbl.set none n x s.ep.sessions } }
/-- Session `n`, if open, changed by `f`. -/
def modSession (s : State) (n : Nat) (f : Session → Session) : State :=
  s.setSession n ((s.session n).map f)

/-- Firmware image type `i` (0 boot loader, 1 management, 2 basin, 3 flash controller). -/
def image (s : State) (i : Nat) : FwImage := Tbl.get FwImage.fresh i s.sec.images
/-- Firmware image type `i` changed by `f`. -/
def modImage (s : State) (i : Nat) (f : FwImage → FwImage) : State :=
  { s with sec := { s.sec with images := Tbl.mod FwImage.fresh i f s.sec.images } }

/-- Perturbation slot `i`. -/
def perturb (s : State) (i : Nat) : Perturb := Tbl.get Perturb.fresh i s.ptb
/-- Perturbation slot `i` replaced. -/
def setPerturb (s : State) (i : Nat) (p : Perturb) : State := { s with ptb := Tbl.set Perturb.fresh i p s.ptb }

/-- A free value (log entry 4): what nothing in the spec fixes, fresh each time. -/
def free (s : State) : Nat × State := (Config.freeNat s.freeCtr, { s with freeCtr := s.freeCtr + 1 })

/-- The member list of slice `id`, empty when the device holds none. -/
def membersOf (s : State) (id : Nat) : List (Nat × Nat) :=
  ((s.fab.members.find? fun m => m.1 == id).map (·.2)).getD []

/-- A switch link is live here: ACTIVE (R376). -/
def linkLive (s : State) (n : Nat) : Bool := decide (n < 84) && (s.link n).st == .active

/-- The route set for the device at a position: for each index the first 20 planes whose link is live here and in that
device's latest mask (R376). -/
def routeSet (s : State) (pos : Nat) : List Nat :=
  let m := (Tbl.get PeerMask.fresh pos s.fab.peers).live
  (List.range 4).flatMap fun i =>
    (((List.range 21).map fun p => 4 * p + i).filter fun n => s.linkLive n && m.getLsbD n).take 20

/-- The route-set link whose next grant slot of basin `b` comes first (R370, R376); which one of several is open. -/
def pickLink (s : State) (pos b : Nat) : Option Nat × State :=
  let t := s.now * 1000 / 9216
  let wait := fun n => (b + 8 * (n + t) - n - t) % 8
  let l := s.routeSet pos
  match l with
  | [] => (none, s)
  | _ =>
    let d := (l.map wait).foldl min 8
    let c := l.filter fun n => wait n == d
    let f := s.free
    ((c.drop (f.1 % c.length)).head?, f.2)

/-- Towpath coordinates of a rack position (R382). -/
def towCoord (pos k : Nat) : Nat := if k = 0 then pos % 8 else if k = 1 then pos / 8 % 4 else pos / 32 % 4

/-- The towpath link toward a position: dimension order, the shorter direction of the ring, ties toward +; the other
direction, then the next dimension first, when it is not ACTIVE (R390). -/
def towHop (s : State) (dst : Nat) : Option Nat :=
  let me := s.fab.position.toNat
  let up := fun n => (s.link n).st == .active && !s.fab.ignored.contains n
  (List.range 3).findSome? fun k =>
    let size := if k = 0 then 8 else 4
    let a := towCoord me k
    let d := towCoord dst k
    if a = d then none
    else
      let plus := (d + size - a) % size
      let first := if 2 * plus ≤ size then 84 + 2 * k else 85 + 2 * k
      let other := 84 + 2 * k + (if first = 84 + 2 * k then 1 else 0)
      if up first then some first else if up other then some other else none

end State

/-- Flits of credit that a link holds on a VC: 9 at first (R371). -/
def Link.credit (l : Link) (vc : Nat) : Nat := Tbl.get 9 vc l.credits

/-- Flits that wait on a VC leave as far as credit and the replay buffer of 512 flits allow (R367, R369, R371). -/
def Link.pump (l : Link) (vc : Nat) : Link :=
  let w := Tbl.get 0 vc l.waiting
  let k := min w (min (l.credit vc) (512 - l.replay.length))
  let seqs := (List.range k).map fun i => (l.txSeq.toNat + i) % 4096
  { l with
    waiting := Tbl.set 0 vc (w - k) l.waiting, credits := Tbl.set 9 vc (l.credit vc - k) l.credits,
    txSeq := l.txSeq + BitVec.ofNat 12 k, replay := l.replay ++ seqs.map fun q => (q, vc) }

namespace State

/-- `k` flits handed to a link on a VC. -/
def xmit (s : State) (n vc k : Nat) : State :=
  s.modLink n fun l => { l with waiting := Tbl.mod 0 vc (· + k) l.waiting }.pump vc

/-- The VC of a control message of basin `b`: of the running context for a message of a step, else of the basin's firmware
(Tables 10.6, 10.8). -/
def msgVc (b : Nat) (ctx : Option Nat) : Msg → Nat
  | .shape .. | .seal .. | .void .. | .qcredit .. | .dispatch .. | .combine .. | .collective .. | .queueFlits .. | .grant .. | .gack .. | .gnak ..
  | .status .. => 4 * b + ctx.getD 0
  | .towpath _ => 40
  | .shardRequest .. | .shardForward .. | .dump _ => 41
  | _ => 32 + b

/-- The rack position of a destination on another device. -/
def remotePos (s : State) : Dest → Option Nat
  | .member id o => ((s.membersOf id)[o]?).bind fun m => if m.1 == s.fab.position.toNat then none else some m.1
  | .device p => if p = s.fab.position.toNat then none else some p
  | _ => none

/-- A message joins what was sent, with the slice, generation and epoch of its origin basin (R127, Table 10.4). -/
def post (s : State) (src : Nat) (d : Dest) (m : Msg) (via : Option Nat) : State :=
  let x := s.basin src
  let e := Tbl.get Slot.fresh x.cut.activeSlot.toNat x.slots
  { s with msgs := s.msgs ++ [⟨src, d, m, via, x.sliceId.toNat, x.gen.toNat, e.tag.toNat⟩] }

/-- A message leaves basin `src`: on a link of the route set, or over the towpath where its path says so or no route set
exists (R376, R389); what stays on the device takes no link. `ctx` is the context that a message of a step belongs to. -/
def sendFrom (s : State) (src : Nat) (ctx : Option Nat) (d : Dest) (m : Msg) : State :=
  let vc := msgVc src ctx m
  match d with
  | .link n => (s.xmit n vc 1).post src d m (some n)
  | _ =>
    match s.remotePos d with
    | none => s.post src d m none
    | some pos =>
      let e := Tbl.get DevEntry.fresh pos s.fab.devTable
      let p := if e.path = 2 then (none, s) else s.pickLink pos src
      let via := match p.1 with
        | some n => some n
        | none => if vc < 32 then none else s.towHop pos
      let s1 := match via with
        | some n => p.2.xmit n (if n < 84 then vc else 40) 1
        | none => p.2
      s1.post src d m via

/-- A message of basin `src` under its running context. -/
def send (s : State) (src : Nat) (d : Dest) (m : Msg) : State :=
  let x := s.basin src
  s.sendFrom src (if x.cut.hasSlot then some (Tbl.get Slot.fresh x.cut.activeSlot.toNat x.slots).ctx.toNat else none) d m

end State

/-! ### Units of a basin -/

namespace Basin

/-- Context `c`. -/
def ctx (x : Basin) (c : Nat) : Ctx := Tbl.get Ctx.fresh c x.ctxs
/-- Context `c` changed by `f`. -/
def modCtx (x : Basin) (c : Nat) (f : Ctx → Ctx) : Basin := { x with ctxs := Tbl.mod Ctx.fresh c f x.ctxs }
/-- Pound `p`. -/
def pound (x : Basin) (p : Nat) : Pound := Tbl.get Pound.fresh p x.pounds
/-- Pound `p` changed by `f`. -/
def modPound (x : Basin) (p : Nat) (f : Pound → Pound) : Basin := { x with pounds := Tbl.mod Pound.fresh p f x.pounds }
/-- Queue `q`. -/
def queue (x : Basin) (q : Nat) : Queue := Tbl.get Queue.fresh q x.queues
/-- Queue `q` changed by `f`. -/
def modQueue (x : Basin) (q : Nat) (f : Queue → Queue) : Basin := { x with queues := Tbl.mod Queue.fresh q f x.queues }
/-- Cut slot `k`. -/
def slot (x : Basin) (k : Nat) : Slot := Tbl.get Slot.fresh k x.slots
/-- Cut slot `k` changed by `f`. -/
def modSlot (x : Basin) (k : Nat) (f : Slot → Slot) : Basin := { x with slots := Tbl.mod Slot.fresh k f x.slots }
/-- Row map of row 4b + j. -/
def row (x : Basin) (j : Nat) : RowMap := Tbl.get RowMap.fresh j x.rowmap
/-- Row map of row 4b + j changed by `f`. -/
def modRow (x : Basin) (j : Nat) (f : RowMap → RowMap) : Basin := { x with rowmap := Tbl.mod RowMap.fresh j f x.rowmap }
/-- BSN_SRAM_CTX_c. -/
def sramCtx (x : Basin) (c : Nat) : SramCtx := Tbl.get SramCtx.fresh c x.sram
/-- BSN_BRG_CTX_c. -/
def brgCtx (x : Basin) (c : Nat) : BrgCtx := Tbl.get BrgCtx.fresh c x.brg
/-- BSN_MAN_CTX_c. -/
def manCtx (x : Basin) (c : Nat) : ManCtx := Tbl.get ManCtx.fresh c x.man
/-- BSN_LC_WAYS_c in effect. -/
def ways (x : Basin) (c : Nat) : BitVec 16 := Tbl.get 0 c x.dram.ways
/-- BSN_SLC_CAP_c in effect. -/
def cap (x : Basin) (c : Nat) : BitVec 16 := Tbl.get 0 c x.sluice.cap
/-- Contexts that exist, in context order (R315). -/
def existing (x : Basin) : List Nat := (List.range 4).filter fun c => (x.ctx c).exist
/-- The basin counts as stopped for its locked words (R11). -/
def stopped (x : Basin) : Bool :=
  x.st.state == .offline || x.st.state == .init || x.st.state == .ready || x.st.state == .fenced
/-- The slot that is active, if one is (BSN_CUT, Table 3.14). -/
def activeSlot (x : Basin) : Option Nat := if x.cut.hasSlot then some x.cut.activeSlot.toNat else none
/-- The context that owns the active slot (R471). -/
def running (x : Basin) : Option Nat := x.activeSlot.map fun k => (x.slot k).ctx.toNat
/-- The share that slot `k` holds. -/
def shareOf (x : Basin) (k : Nat) : Option Share :=
  let sl := x.slot k
  if sl.valid then
    x.shares.find? fun h => h.model == sl.model && h.edition == sl.edition && BitVec.ofNat 32 h.cutId == sl.cutId
  else none
/-- The share of the active slot. -/
def activeShare (x : Basin) : Option Share := x.activeSlot.bind x.shareOf
/-- Which contexts' totals of Table 2.11, 5.9, 6.13 or 8.11 grow: one charged count. -/
def chargeParity (x : Basin) (c k n : Nat) : Basin := x.modCtx c fun y => { y with parity := Tbl.mod 0 k (· + n) y.parity }
/-- A sluice count charged to context `c`. -/
def chargeSluice (x : Basin) (c k n : Nat) : Basin := x.modCtx c fun y => { y with sluice := Tbl.mod 0 k (· + n) y.sluice }
/-- A barge count charged to context `c`. -/
def chargeBarge (x : Basin) (c k n : Nat) : Basin := x.modCtx c fun y => { y with barges := Tbl.mod 0 k (· + n) y.barges }

end Basin

/-! ### Slices (R25, R383, R622) -/

namespace State

/-- The slice ordinal of local basin `b`, if it is listed (R622). -/
def ordinal (s : State) (b : Nat) : Option Nat :=
  let id := (s.basin b).sliceId.toNat
  if id = 0 then none
  else (s.membersOf id).findIdx? fun m => m.1 == s.fab.position.toNat && m.2 == b

/-- Local basins of slice `id` that its member list names, in ascending basin number. -/
def localMembers (s : State) (id : Nat) : List Nat :=
  (List.range 8).filter fun b => decide (id ≠ 0) && decide ((s.basin b).sliceId.toNat = id) && (s.ordinal b).isSome

/-- The local basin of ordinal `o` in slice `id`, while it belongs to the slice (R622). -/
def localOfOrdinal (s : State) (id o : Nat) : Option Nat :=
  ((s.membersOf id)[o]?).bind fun m =>
    if m.1 == s.fab.position.toNat && decide ((s.basin m.2).sliceId.toNat = id) then some m.2 else none

/-- Ordinal `o` of slice `id` names a basin of this device. -/
def ordinalHere (s : State) (id o : Nat) : Bool := (((s.membersOf id)[o]?).map fun m => m.1 == s.fab.position.toNat).getD false

/-- The slice lies wholly on this device. -/
def oneDevice (s : State) (id : Nat) : Bool := (s.membersOf id).all fun m => m.1 == s.fab.position.toNat

/-- LOCK_ACK and DRAINED of basin `b` go out unsynchronized: 1 s of holdover, in a slice that spans devices (R572). -/
def unsyncOf (s : State) (b : Nat) : Bool := s.time.unsync && !s.oneDevice (s.basin b).sliceId.toNat

/-- Member `o` of the slice of basin `b` is in READY or SERVING, as basin `b` knows it (R135). DESIGN CHOICE: a member on another device is, while `b` holds
a non-zero generation for it (R504, R521; log entry 47). -/
def memberServes (s : State) (b o : Nat) : Bool :=
  let id := (s.basin b).sliceId.toNat
  if s.ordinalHere id o then
    match s.localOfOrdinal id o with
    | some x => (s.basin x).st.state == .ready || (s.basin x).st.state == .serving
    | none => false
  else Tbl.get 0#16 o (s.basin b).genTable != 0#16

/-- The ordinal that keeps the slice of basin `b`: the lowest in READY or SERVING (R135). -/
def keeperOrdinal (s : State) (b : Nat) : Option Nat :=
  (List.range (s.membersOf (s.basin b).sliceId.toNat).length).find? fun o => s.memberServes b o

/-- Basin `b` is its slice's keeper (R135). -/
def isKeeper (s : State) (b : Nat) : Bool :=
  match s.ordinal b with
  | some o => s.keeperOrdinal b == some o
  | none => false

/-- The slot that a basin changes to in the lockage that it takes part in. -/
def nextSlot (s : State) (b : Nat) : Option Nat :=
  (s.ordinal b).bind fun o => ((s.basin b).part.slots[o]?).bind id

/-- `m` sent from basin `b` to every other member of its slice, in ordinal order. -/
def sendSlice (s : State) (b : Nat) (m : Msg) : State :=
  let id := (s.basin b).sliceId.toNat
  match s.ordinal b with
  | some o => ((List.range (s.membersOf id).length).filter (· != o)).foldl (fun t k => t.send b (.member id k) m) s
  | none => s

/-- Every member of the slice of basin `b`, itself among them. -/
def sendAll (s : State) (b : Nat) (m : Msg) : State :=
  let id := (s.basin b).sliceId.toNat
  (List.range (s.membersOf id).length).foldl (fun t k => t.send b (.member id k) m) s

/-- `f` applied to each of `bs` in turn. -/
def foldBasins (s : State) (bs : List Nat) (f : State → Nat → State) : State := bs.foldl f s

end State

/-- Basins of a mask in ascending order (Table 11.6, byte 7). -/
def maskBasins (m : BitVec 8) : List Nat := (List.range 8).filter fun b => m.getLsbD b

/-- The mask of a list of basins. -/
def basinsMask (bs : List Nat) : BitVec 8 := BitVec.ofNat 8 (bs.foldl (fun a b => a ||| (1 <<< b)) 0)

/-- The basin of a tile's row (R13). -/
def tileBasin (t : Nat) : Nat := t / 34 / 4

/-- The tiles of basin `b` in ascending tile number. -/
def basinTiles (b : Nat) : List Nat := (List.range 136).map fun i => 136 * b + i

/-- Code of a basin state (R436). -/
def BState.code : BState → Nat
  | .offline => 0 | .init => 1 | .ready => 2 | .serving => 3 | .fenced => 4 | .resetting => 5 | .retired => 6

/-- Code of a fence cause (Table 15.1). -/
def Cause.code : Cause → Nat
  | .none => 0 | .commandTimeout => 1 | .stepTimeout => 2 | .lockDrain => 3 | .channel => 4 | .operator => 5
  | .thermal => 6 | .spares => 7 | .escalation => 8 | .warmReset => 9

/-- Code of lock_state (Table 3.14). -/
def LockState.code : LockState → Nat
  | .idle => 0 | .running => 1 | .locking => 2 | .drained => 3 | .switching => 4

/-- Code of an out-of-service kind (Table 3.9). -/
def ColKind.code : ColKind → Nat
  | .spare => 0 | .failed => 1 | .test => 2 | .filling => 3

/-- Code of a residency state (Table 7.11). -/
def Residency.code : Residency → Nat
  | .cold => 0 | .warm => 1 | .hot => 2 | .loading => 3 | .notReady => 4

/-- Code of a link state (Table 10.7). -/
def LinkSt.code : LinkSt → Nat
  | .down => 0 | .training => 1 | .active => 2 | .leaving => 3 | .cal => 4 | .failed => 5

/-- Code of a firmware image state (Table 14.13). -/
def FwSt.code : FwSt → Nat
  | .none => 0 | .staging => 1 | .verified => 2 | .activating => 3 | .pending => 4 | .failed => 5

/-- Code of a request state (Table 9.3). -/
def ReqSt.code : ReqSt → Nat
  | .free => 0 | .queued => 1 | .prefill => 2 | .decode => 3 | .paused => 4 | .done => 5 | .failed => 6

/-- Value of a status (Table 12.2). -/
def Status.code : Status → Nat
  | .ok => 0x0000 | .accepted => 0x0001 | .badFormat => 0x0101 | .badOpcode => 0x0102 | .badParam => 0x0103
  | .badMac => 0x0201 | .counterReplay => 0x0202 | .noSession => 0x0203 | .notPermitted => 0x0204
  | .noResource => 0x0301 | .planMismatch => 0x0302 | .shapeExceedsPlan => 0x0303 | .capacity => 0x0304
  | .busyLocked => 0x0401 | .wrongState => 0x0402 | .deferred => 0x0403 | .digestMismatch => 0x0501
  | .parityUnrecovered => 0x0502 | .shardMissing => 0x0503 | .flashUncorrectable => 0x0504 | .timedOut => 0x0601
  | .fenced => 0x0602 | .aborted => 0x0603 | .unitFault => 0x0701 | .overflowFault => 0x0702 | .epochFault => 0x0703
  | .doubleCommit => 0x0704 | .powerLimited => 0x0801 | .thermalLimited => 0x0802 | .outOfService => 0x0803

/-- The status of an array fault (Table 3.16). -/
def faultStatus : ArrayFault → Status
  | .epoch => .epochFault | .overflow => .overflowFault | .unit => .unitFault | .doubleCommit => .doubleCommit
  | .badParam => .badParam | .uncorrectable => .flashUncorrectable

/-- A cap that moves from `c` toward `target` by `slew` units a tick, `dt` ticks on (R585). -/
def ramp (c target slew dt : Nat) : Nat :=
  if target < c then max target (c - slew * dt) else min target (c + slew * dt)

/-- The commanded cap C at tick `t`, without the plan's later steps (R585). -/
def Power.capAtTick (p : Power) (t : Nat) : Nat := ramp p.capC p.target p.slew (t - p.capAt)

/-! ### Packets and notices -/

namespace State

/-- The tag of a frame that the port sends (R395): vlan_id in tagged operation, VID 0 for a priority tag. -/
def frameTag (s : State) : Option (BitVec 12) := if s.eth.vlanEn then some s.eth.vlanId else if s.eth.pfcEn then some 0 else none

/-- A packet handed to its carriage. During a handover pause the device holds it (R511). Over I3C it joins the queue of
64, where the oldest notice makes room (R426), and ALERT_N goes low (R425). Over Ethernet it waits while its priority
is paused (R398) and is lost unless the port is UP (R422). -/
def emit (s : State) (p : Pkt) : State :=
  if s.ep.pause then { s with ep := { s.ep with waiting := s.ep.waiting ++ [p] } }
  else match p.carriage with
    | .i3c =>
      let q := s.ep.i3c
      let q' := if q.length < 64 then q else
        match q.findIdx? fun x => x.kind == .notice with
        | some i => q.eraseIdx i
        | none => q
      if q'.length < 64 then { s with ep := { s.ep with i3c := q' ++ [p] }, pins := { s.pins with alertN := false } }
      else s
    | .ethernet =>
      if s.eth.paused.contains p.priority then { s with ep := { s.ep with waiting := s.ep.waiting ++ [p] } }
      else if s.eth.st = 2 ∧ s.eth.portReset = false then { s with ep := { s.ep with sent := s.ep.sent ++ [{ p with tag := s.frameTag }] } }
      else s

/-- An authenticated packet of session `n` under `key`, or under the session's key (R413): it takes the next device counter of the
session (R412). None follows WARM_RESET's ACCEPTED (R455). -/
def emitUnder (s : State) (n : Nat) (key : Option (List Byte)) (p : Pkt) : State :=
  match s.session n, s.mgmt.warmDue with
  | some x, none =>
    let s' := s.setSession n (some { x with tx := x.tx + 1, txCount := x.txCount + 1 })
    s'.emit { p with session := n, counter := x.tx, key := key.getD x.key }
  | _, _ => s

/-- An authenticated packet of session `n` under its key. -/
def emitFrom (s : State) (n : Nat) (p : Pkt) : State := s.emitUnder n none p

/-- A notice of session `n` as it is handed on (R423): flags [1] and [0], the notice's opcode, the session's notice sequence. -/
def noticePkt (s : State) (n seq opcode : Nat) (c : Carriage) (peer : Peer) (st : Status) (body : List Byte) : Pkt :=
  { kind := .notice, carriage := c, auth := true, opcode := opcode, session := n, seq := seq, counter := 0, status := st, committed := 0, touched := 0,
    tick := s.now, priority := s.eth.pfcA.toNat, key := [], sign := 0, salt := [], frag := 0, more := false, context := 0, mask := 0, peer := peer,
    tag := none, body := body }

/-- Notice `opcode` to session `n` (R423): its target's carriage and address, or those of its latest accepted command (R424). -/
def noticeTo (s : State) (n opcode : Nat) (st : Status) (body : List Byte) : State :=
  match s.session n with
  | some x =>
    let carr : Option (Carriage × Peer) :=
      match x.target with
      | none => some (x.carriage, x.peer)
      | some t => if t.mask.getLsbD (opcode - 0x1001) then
          (if t.carriage = 0 then some (.ethernet, t.peer) else if t.carriage = 1 then some (.i3c, t.peer) else none) else none
    match carr with
    | some c =>
      let s' := s.modSession n fun y => { y with noticeSeq := y.noticeSeq + 1 }
      s'.emitFrom n (s.noticePkt n (x.noticeSeq + 1) opcode c.1 c.2 st body)
    | none => s
  | none => s

/-- Open sessions that `f` picks, in ascending number. -/
def sessionsWhere (s : State) (f : Session → Bool) : List Nat :=
  s.ep.sessions.filterMap fun e => e.2.bind fun x => if f x then some e.1 else none

/-- A notice to every OPERATOR session (R424). -/
def noticeOps (s : State) (opcode : Nat) (st : Status) (body : List Byte) : State :=
  (s.sessionsWhere fun x => x.role == .operator).foldl (fun t n => t.noticeTo n opcode st body) s

/-- A notice to the sessions of context `c` in basin `b` (R424): those whose scope covers it. -/
def noticeCtx (s : State) (b c opcode : Nat) (st : Status) (body : List Byte) : State :=
  (s.sessionsWhere fun x => decide (x.ctx = c) && x.basins.getLsbD b).foldl (fun t n => t.noticeTo n opcode st body) s

/-- NOTICE_FAULT body (Table 12.16). -/
def faultBody (b c event bstate entry : Nat) (req step : Nat) : List Byte :=
  natBe 1 b ++ natBe 1 c ++ natBe 1 event ++ natBe 1 bstate ++ natBe 2 entry ++ natBe 2 0 ++ natBe 8 req ++ natBe 4 step

/-- NOTICE_FAULT to the sessions of context `c` of basin `b`. -/
def noticeFault (s : State) (b c event : Nat) (st : Status) (entry req step : Nat) : State :=
  s.noticeCtx b c 0x1001 st (faultBody b c event (s.basin b).st.state.code entry req step)

/-- NOTICE_FAULT to every existing context of basin `b`. -/
def noticeBasin (s : State) (b event : Nat) (st : Status) : State :=
  (s.basin b).existing.foldl (fun t c => t.noticeFault b c event st 0xFFFF 0 0) s

/-- NOTICE_SERVICE (Table 12.16); the detail of an event other than 9 is open. -/
def noticeService (s : State) (event subject detail : Nat) : State :=
  s.noticeOps 0x1006 (if event = 7 then .outOfService else .ok) (natBe 2 event ++ natBe 2 0 ++ natBe 4 subject ++ natBe 4 detail)

/-- NOTICE_SERVICE of an event whose detail the spec leaves open. -/
def noticeOpen (s : State) (event subject : Nat) : State := s.free.2.noticeService event subject (s.free.1 % 2 ^ 32)

/-- A firmware image takes a state, with NOTICE_SERVICE event 9; its subject is open (R508). -/
def setFw (s : State) (i : Nat) (st : FwSt) : State :=
  if (s.image i).st = st then s
  else
    let s1 := s.modImage i fun x => { x with st := st }
    s1.free.2.noticeService 9 (s1.free.1 % 2 ^ 32) (i * 256 + st.code)

/-- NOTICE_MODEL (Table 12.16), in ascending index order, at most 1,024 indices each over Ethernet (R463). -/
def noticeModel (s : State) (b c : Nat) (st : Status) (model edition event state basins : Nat) (idx : List Nat) : State :=
  let body (l : List Nat) := natBe 4 model ++ natBe 2 edition ++ natBe 1 c ++ natBe 1 event ++ natBe 1 state ++
    natBe 1 basins ++ natBe 2 l.length ++ l.flatMap (natBe 4)
  let parts := if idx.isEmpty then [[]] else (List.range ((idx.length + 479) / 480)).map fun i => (idx.drop (480 * i)).take 480
  parts.foldl (fun t l => t.noticeCtx b c 0x1005 st (body l)) s

/-- NOTICE_POWER (Table 12.16) with the commanded cap in W. -/
def noticePower (s : State) (event energy : Nat) : State :=
  s.noticeOps 0x1004 (if 1 ≤ event ∧ event ≤ 5 then .powerLimited else .ok)
    (natBe 1 event ++ natBe 1 s.power.level.toNat ++ natBe 2 (s.power.capAtTick s.now / 100000) ++ natBe 4 energy)

/-! ### Trace (R611-R614) -/

/-- A trace record of basin `b`: it is taken while recording, or starts the recording when it matches the trigger. A
full buffer overwrites its oldest record with wrap set, and stops without. -/
def record (s : State) (b source : Nat) (ctx : Byte) (data : BitVec 48) : State :=
  if s.trace.sources.getLsbD source && s.trace.basins.getLsbD b && s.trace.armed then
    let on := Tbl.get false b s.trace.recording
    let hit := decide (s.trace.trigger = 0xFFFFFFFF) ||
      (decide (s.trace.trigger.toNat / 2 ^ 28 = source) && decide (data.toNat % 2 ^ 28 = s.trace.trigger.toNat % 2 ^ 28))
    if on || hit then
      let buf := Tbl.get [] b s.trace.buf
      let r : TraceRec := { tick := s.now, source := BitVec.ofNat 8 source, ctx := ctx, data := data }
      if buf.length < 65536 then
        { s with trace := { s.trace with recording := Tbl.set false b true s.trace.recording,
                                         buf := Tbl.set [] b (buf ++ [r]) s.trace.buf } }
      else if s.trace.wrap then
        { s with trace := { s.trace with recording := Tbl.set false b true s.trace.recording,
                                         buf := Tbl.set [] b (buf.drop 1 ++ [r]) s.trace.buf } }
      else { s with trace := { s.trace with recording := Tbl.set false b false s.trace.recording } }
    else s
  else s

end State

/-- Six data bytes of a trace record (bytes 10 to 15). -/
def data48 (a b c : Nat) : BitVec 48 := BitVec.ofNat 48 (a % 65536 + (b % 65536) * 65536 + (c % 65536) * 2 ^ 32)

/-! ### Results of commands -/

/-- What a command that ends at acceptance answers: the state, its status, its committed and touched extents (R434), and
the reply's parameters from 0x20. -/
structure Res where
  st        : State
  status    : Status
  committed : Nat
  touched   : Nat
  body      : List Byte

/-- A command ends with its acceptance, or its work goes on and an event ends it (R418); `units` counts what it ended at once (the
requests of DESTROY_CONTEXT and CLOSE_SESSION). -/
inductive Run where
  | done (r : Res)
  | later (s : State) (units : Nat)

/-- A command that a check refuses: nothing changes. -/
def refuse (s : State) (st : Status) : Run := .done { st := s, status := st, committed := 0, touched := 0, body := [] }

/-- A command that took effect as a whole (R434). -/
def took (s : State) (body : List Byte) : Run := .done { st := s, status := .ok, committed := 1, touched := 1, body := body }

/-! ### Flash blocks (R262, R263, R272) -/

namespace State

/-- A block of a channel. -/
def block (s : State) (ch k : Nat) : FlashBlock := Tbl.get FlashBlock.fresh (65536 * ch + k) s.flash.blocks

/-- A block changed by `f`. -/
def modBlock (s : State) (ch k : Nat) (f : FlashBlock → FlashBlock) : State :=
  { s with flash := { s.flash with blocks := Tbl.mod FlashBlock.fresh (65536 * ch + k) f s.flash.blocks } }

/-- The block of channel `ch` in superblock `k`, as the superblock table has it. -/
def blockIn (s : State) (ch k : Nat) : Nat :=
  let v := Tbl.get 0 (32 * k + ch) s.flash.table
  if v = 0 then k else v - 1

/-- The superblock of a block; none for a spare block of the data area and for one of the metadata area. -/
def superAt (s : State) (ch k : Nat) : Option Nat :=
  match s.flash.table.find? fun e => e.1 % 32 == ch && e.2 == k + 1 with
  | some e => some (e.1 / 32)
  | none => if k < s.flash.supers ∧ s.blockIn ch k = k then some k else none

/-- The superblock that holds an extent; 0 in the map is no entry. -/
def superOf (s : State) (x : Nat) : Option Nat :=
  let v := Tbl.get 0 x s.flash.map
  if v = 0 then none else some ((v - 1) / 65536)

/-- Page offset of an extent in the blocks of its superblock, in units of 32 pages (R263). -/
def slotOf (s : State) (x : Nat) : Nat := (Tbl.get 0 x s.flash.map - 1) % 65536

/-- Page `p` of a block is read, and `more` further page reads follow (R272, Table 7.3): codewords of the page that the block's last read took need no
further one. -/
def readPage (s : State) (ch k p more : Nat) : State :=
  s.modBlock ch k fun y => { y with reads := y.reads + more + (if y.page = p + 1 then 0 else 1), page := p + 1 }

/-- A 64 KiB chunk of an extent is read: its 4 pages, in channel j mod 32 (R263). -/
def readFlashChunk (s : State) (x j : Nat) : State :=
  match s.superOf x with
  | some k =>
    let ch := j % 32
    (List.range 4).foldl (fun t n => t.readPage ch (t.blockIn ch k) (32 * t.slotOf x + 4 * (j / 32) + n) 0) s
  | none => s

end State

end Sys2Proof.Machine
end

