-- ==== Sys2Proof/Machine/Flags.lean ====
section
/-! DEFINITION. Number formats of the tile (R47-R52), rounding (R64, R69), special values and overflow with the counts
that they add (R68, Table 2.7), exact arithmetic on decoded values, and the special functions (R72). -/

namespace Sys2Proof.Machine

/-! ### Decoded values -/

/-- A value of an element: NaN, or a signed magnitude m x 2^e. -/
inductive FVal where
  | nan
  | fin (neg : Bool) (m : Nat) (e : Int)
  deriving DecidableEq, Repr

/-- A binary floating-point format of Table 2.4: mantissa bits, exponent of its smallest subnormal, position of the sign
bit, code of its largest finite magnitude, and the code of infinity where it has one. -/
structure FltFmt where
  mant : Nat
  lsb  : Int
  sign : Nat
  top  : Nat
  inf  : Option Nat
  deriving DecidableEq, Repr

/-- FP32 (binary32). -/
def fmtFp32 : FltFmt := { mant := 23, lsb := -149, sign := 31, top := 0x7F7FFFFF, inf := some 0x7F800000 }
/-- BF16. -/
def fmtBf16 : FltFmt := { mant := 7, lsb := -133, sign := 15, top := 0x7F7F, inf := some 0x7F80 }

/-- The floating-point formats of Table 2.4. -/
def fmtFlt : Fmt → Option FltFmt
  | .e4m3 => some { mant := 3, lsb := -9, sign := 7, top := 0x7E, inf := none }
  | .e5m2 => some { mant := 2, lsb := -16, sign := 7, top := 0x7B, inf := some 0x7C }
  | .e3m2 => some { mant := 2, lsb := -4, sign := 5, top := 0x1F, inf := none }
  | .e2m3 => some { mant := 3, lsb := -3, sign := 5, top := 0x1F, inf := none }
  | .e2m1 => some { mant := 1, lsb := -1, sign := 3, top := 0x7, inf := none }
  | .bf16 => some fmtBf16
  | .fp32 => some fmtFp32
  | .mxi | .int8 | .e8m0 | .t2b => none

/-- Bits of one packed element (R53); a T2B weight has no width of its own (five to a byte, R50). -/
def fmtBits : Fmt → Nat
  | .e4m3 | .e5m2 | .mxi | .int8 | .e8m0 => 8
  | .e3m2 | .e2m3 => 6
  | .e2m1 => 4
  | .bf16 => 16
  | .fp32 => 32
  | .t2b => 0

/-- Format of a 4-bit format field, in Table 2.4 order. -/
def fmtOfCode : Nat → Option Fmt
  | 0 => some .e4m3 | 1 => some .e5m2 | 2 => some .e3m2 | 3 => some .e2m3 | 4 => some .e2m1 | 5 => some .mxi
  | 6 => some .int8 | 7 => some .bf16 | 8 => some .fp32 | 9 => some .e8m0 | 10 => some .t2b | _ => none

/-- The magnitude that a magnitude code stands for. -/
def FltFmt.magnitude (f : FltFmt) (c : Nat) : Nat × Int :=
  let ex := c / 2 ^ f.mant
  let m := c % 2 ^ f.mant
  if ex = 0 then (m, f.lsb) else (m + 2 ^ f.mant, f.lsb + (ex : Int) - 1)

/-- An element decoded; an infinite input counts as the largest finite value of its sign, and the flag says so (Table
2.7). -/
def FltFmt.decode (f : FltFmt) (c : Nat) : FVal × Bool :=
  let neg := c.testBit f.sign
  let a := c % 2 ^ f.sign
  if a ≤ f.top then let p := f.magnitude a; (.fin neg p.1 p.2, false)
  else if f.inf = some a then let p := f.magnitude f.top; (.fin neg p.1 p.2, true)
  else (.nan, false)

/-- m / 2^d rounded to nearest, ties to even (R64). -/
def rne (m d : Nat) : Nat :=
  let q := m / 2 ^ d
  let r := m % 2 ^ d
  if 2 ^ d < 2 * r ∨ (2 * r = 2 ^ d ∧ q % 2 = 1) then q + 1 else q

/-- The magnitude m x 2^e rounded into the format: the code, and whether it went beyond the largest finite value, which
it then is (R64, R68, R69). DESIGN CHOICE: a value above the largest finite one that rounds back to it has not exceeded it and
counts nothing; the spec does not say whether the value is judged before or after rounding (log entry 11). -/
def FltFmt.round (f : FltFmt) (m : Nat) (e : Int) : Nat × Bool :=
  if m = 0 then (0, false)
  else
    let q := max ((m.log2 : Int) + e - f.mant) f.lsb
    let r := if q ≤ e then m * 2 ^ (e - q).toNat else rne m (q - e).toNat
    let c := (q - f.lsb).toNat * 2 ^ f.mant + r
    if c ≤ f.top then (c, false) else (f.top, true)

/-- The sign bit of a format. -/
def FltFmt.signBit (f : FltFmt) (neg : Bool) : Nat := if neg then 2 ^ f.sign else 0

/-- A two's complement byte as an integer. -/
def byteInt (c : Nat) : Int := (BitVec.ofNat 8 c).toInt

/-- An integer as a decoded value at scale 2^e. -/
def intVal (i : Int) (e : Int) : FVal := .fin (decide (i < 0)) i.natAbs e

/-- A packed element decoded (R47, R48): T2B weights are decoded from their bytes instead (R50). -/
def fmtDecode (f : Fmt) (c : Nat) : FVal × Bool :=
  match fmtFlt f with
  | some g => g.decode c
  | none =>
    match f with
    | .mxi => (intVal (byteInt c) (-6), false)
    | .int8 => (intVal (byteInt c) 0, false)
    | .e8m0 => if c % 256 = 255 then (.nan, false) else (.fin false 1 ((c % 256 : Nat) - 127), false)
    | _ => (intVal ((c : Int) - 1) 0, false)

/-! ### Exact arithmetic -/

/-- The signed integer of a value at exponent `e`, at most its own. -/
def scaled (neg : Bool) (m : Nat) (e x : Int) : Int :=
  let v : Int := (m * 2 ^ (e - x).toNat : Nat)
  if neg then -v else v

/-- Exact sum: a zero sum of opposite signs is +0 (round to nearest). -/
def FVal.add : FVal → FVal → FVal
  | .nan, _ => .nan
  | _, .nan => .nan
  | .fin n1 m1 e1, .fin n2 m2 e2 =>
    let x := min e1 e2
    let i := scaled n1 m1 e1 x + scaled n2 m2 e2 x
    if i = 0 then .fin (n1 && n2) 0 x else .fin (decide (i < 0)) i.natAbs x

/-- Exact product. -/
def FVal.mul : FVal → FVal → FVal
  | .nan, _ => .nan
  | _, .nan => .nan
  | .fin n1 m1 e1, .fin n2 m2 e2 => .fin (n1 != n2) (m1 * m2) (e1 + e2)

/-- Ordered comparison; a NaN compares as nothing (R71). -/
def FVal.cmp : FVal → FVal → Option Ordering
  | .nan, _ => none
  | _, .nan => none
  | .fin n1 m1 e1, .fin n2 m2 e2 =>
    let x := min e1 e2
    some (compare (scaled n1 m1 e1 x) (scaled n2 m2 e2 x))

/-- Exact sum of a list. -/
def FVal.sum (l : List FVal) : FVal := l.foldl FVal.add (.fin false 0 0)

/-- The value is a NaN. -/
def FVal.isNan : FVal → Bool
  | .nan => true
  | .fin _ _ _ => false

/-! ### Results and what they count -/

/-- What an operation adds to the arithmetic counters of its tile (Table 2.11). -/
structure Ev where
  narrow : Nat
  arith  : Nat
  nanOut : Nat
  bad    : Nat
  deriving DecidableEq, Repr

/-- Nothing counted. -/
def Ev.zero : Ev := { narrow := 0, arith := 0, nanOut := 0, bad := 0 }
/-- Counts added. -/
def Ev.add (a b : Ev) : Ev :=
  { narrow := a.narrow + b.narrow, arith := a.arith + b.arith, nanOut := a.nanOut + b.nanOut, bad := a.bad + b.bad }
/-- Counts of a list of results. -/
def Ev.total (l : List Ev) : Ev := l.foldl Ev.add Ev.zero
/-- One saturation of the accumulator or the vector unit, or one infinite input. -/
def Ev.arith1 (b : Bool) : Ev := { Ev.zero with arith := if b then 1 else 0 }

/-- The counters of a tile with `v` added, each saturating (Table 2.12). -/
def TileCnt.count (c : TileCnt) (v : Ev) : TileCnt :=
  { c with satNarrow := satAdd c.satNarrow v.narrow, satArith := satAdd c.satArith v.arith,
           nanOut := satAdd c.nanOut v.nanOut, badCode := satAdd c.badCode v.bad }

/-- The NaN that a unit writes where the spec says only that the result is a NaN: a quiet NaN of open sign and payload
(log entry 4). -/
def openNan32 : BitVec 32 := Config.nanPattern ||| 0x7FC00000#32
/-- The BF16 NaN of the vector unit: the upper half of the open NaN. -/
def openNan16 : BitVec 16 := (openNan32 >>> 16).setWidth 16

/-- An FP32 word decoded. -/
def dec32 (w : BitVec 32) : FVal × Bool := fmtFp32.decode w.toNat
/-- A BF16 element decoded. -/
def dec16 (w : BitVec 16) : FVal × Bool := fmtBf16.decode w.toNat

/-- A result in FP32: rounded once, saturated with its count, or NaN (Table 2.7). -/
def enc32 : FVal → BitVec 32 × Ev
  | .nan => (openNan32, Ev.zero)
  | .fin n m e => let r := fmtFp32.round m e; (BitVec.ofNat 32 (r.1 + fmtFp32.signBit n), Ev.arith1 r.2)

/-- A result in BF16. DESIGN CHOICE: an overflow gives BF16's largest finite value and counts as that of an FP32 result does; Table 2.7
names FP32 results only (log entry 12). -/
def enc16 : FVal → BitVec 16 × Ev
  | .nan => (openNan16, Ev.zero)
  | .fin n m e => let r := fmtBf16.round m e; (BitVec.ofNat 16 (r.1 + fmtBf16.signBit n), Ev.arith1 r.2)

/-- m x 2^e rounded to an integer, ties to even. -/
def roundInt (neg : Bool) (m : Nat) (e : Int) : Int :=
  let v : Nat := if 0 ≤ e then m * 2 ^ e.toNat else rne m (-e).toNat
  if neg then -(v : Int) else v

/-- An integer clamped to lo..hi, and whether it was. -/
def clampInt (lo hi i : Int) : Int × Bool := if i < lo then (lo, true) else if hi < i then (hi, true) else (i, false)

/-- A two's complement byte. -/
def intByte (i : Int) : Nat := (BitVec.ofInt 8 i).toNat

/-- A value rounded into a format (R64, R68): the code and whether it was beyond the largest finite value. A NaN gives
the format's NaN of Table 2.7, and 0 where it has none. `lo` is the least INT8 result, -127 at drain (R66). For E8M0 the
nearest power of two, open for zero and negative values (log entry 4). -/
def fmtEncode (f : Fmt) (lo : Int) (v : FVal) : Nat × Bool :=
  match fmtFlt f with
  | some g =>
    match v with
    | .nan => (match f with | .e4m3 => 0x7F | .e5m2 => 0x7E | .bf16 => 0x7FC0 | .fp32 => 0x7FC00000 | _ => 0, false)
    | .fin n m e => let r := g.round m e; (r.1 + g.signBit n, r.2)
  | none =>
    match f, v with
    | .mxi, .nan => (0, false)
    | .mxi, .fin n m e => let r := clampInt (-128) 127 (roundInt n m (e + 6)); (intByte r.1, r.2)
    | .int8, .nan => (0, false)
    | .int8, .fin n m e => let r := clampInt lo 127 (roundInt n m e); (intByte r.1, r.2)
    | .e8m0, .nan => (255, false)
    | .e8m0, .fin n m e =>
      if n || decide (m = 0) then (Config.unstated 9 (BitVec.ofNat 32 m) % 256, false)
      else
        let k := (m.log2 : Int) + e
        let up := decide (3 * 2 ^ m.log2 < 2 * m) || (decide (3 * 2 ^ m.log2 = 2 * m) && decide ((k + 127) % 2 = 1))
        let c := (if up then k + 1 else k) + 127
        let r := clampInt 0 254 c
        (r.1.toNat, r.2)
    | _, .nan => (1, false)
    | _, .fin n m e => let r := clampInt (-1) 1 (roundInt n m e); ((r.1 + 1).toNat, r.2)

/-! ### Special functions (R72, Table 2.9) -/

/-- Integer square root, by bits from 2^n down. -/
def isqrtBits : Nat → Nat → Nat → Nat
  | 0, _, r => r
  | n + 1, x, r => let c := r + 2 ^ n; if c * c ≤ x then isqrtBits n x c else isqrtBits n x r
/-- Floor of the square root. -/
def isqrt (x : Nat) : Nat := isqrtBits (x.log2 / 2 + 1) x 0

/-- Fixed-point precision of the reference of exp, in bits. -/
def expBits : Nat := 300

/-- Terms n, n+1, ... of the series of exp(r / 2^expBits), from term `t`. -/
def expSeries (r : Nat) : Nat → Nat → Nat → Nat
  | 0, _, t => t
  | k + 1, n, t => t + expSeries r k (n + 1) (t * r / (n * 2 ^ expBits))

/-- `x` squared `n` times in fixed point. -/
def squareFix : Nat → Nat → Nat
  | 0, x => x
  | n + 1, x => squareFix n (x * x / 2 ^ expBits)

/-- exp of m x 2^e in fixed point of `expBits` bits: the series of x / 256, squared eight times. -/
def expFix (m : Nat) (e : Int) : Nat :=
  let sh := (expBits : Int) - 8 + e
  let r := if 0 ≤ sh then m * 2 ^ sh.toNat else m / 2 ^ (-sh).toNat
  squareFix 8 (expSeries r 60 1 (2 ^ expBits))

/-- The code of the largest FP32 magnitude at most m x 2^e, at most the largest finite one, and whether m x 2^e is that
magnitude exactly. -/
def trunc32 (m : Nat) (e : Int) : Nat × Bool :=
  if m = 0 then (0, true)
  else
    let q := max ((m.log2 : Int) + e - 23) (-149)
    if q ≤ e then
      let c := (q + 149).toNat * 2 ^ 23 + m * 2 ^ (e - q).toNat
      if c ≤ 0x7F7FFFFF then (c, true) else (0x7F7FFFFF, false)
    else
      let d := (q - e).toNat
      let c := (q + 149).toNat * 2 ^ 23 + m / 2 ^ d
      if c ≤ 0x7F7FFFFF then (c, decide (m % 2 ^ d = 0)) else (0x7F7FFFFF, false)

/-- A result that lies `down` ulp below to `up` ulp above its truncated reference; which of them is open (R72, log
entry 4). -/
def openUlp (fn : Nat) (w : BitVec 32) (c down up : Nat) : Nat :=
  let k := Config.specialOffset fn w % (down + up + 1)
  min (c + k - down) 0x7F7FFFFF

/-- exp (R72). -/
def fnExp (w : BitVec 32) : BitVec 32 × Ev :=
  let d := dec32 w
  match d.1 with
  | .nan => (openNan32, Ev.zero)
  | .fin neg m e =>
    let x := min e 0
    let i := scaled false m e x
    let big := decide (0 < 10000 * i - 887228 * ((2 ^ (-x).toNat : Nat) : Int))
    let tiny := decide (0 < 100 * i - 10397 * ((2 ^ (-x).toNat : Nat) : Int))
    if !neg && big then (0x7F7FFFFF#32, Ev.add (Ev.arith1 d.2) (Ev.arith1 true))
    else if neg && tiny then (0#32, Ev.arith1 d.2)
    else
      let f := expFix m e
      let t := if neg then trunc32 (2 ^ (3 * expBits) / f) (-2 * (expBits : Int)) else trunc32 f (-(expBits : Int))
      let c := if m = 0 then openUlp 0 w t.1 2 2
        else if t.1 < 2 ^ 23 then openUlp 0 w t.1 0 1 else openUlp 0 w t.1 1 2
      (BitVec.ofNat 32 c, Ev.arith1 d.2)

/-- 1 / x (R72). -/
def fnRcp (w : BitVec 32) : BitVec 32 × Ev :=
  let d := dec32 w
  match d.1 with
  | .nan => (openNan32, Ev.zero)
  | .fin neg m e =>
    if m = 0 then (BitVec.ofNat 32 (0x7F7FFFFF + fmtFp32.signBit neg), Ev.arith1 true)
    else
      let q := 2 ^ 64 / m
      let exact := decide (2 ^ 64 % m = 0)
      let t := trunc32 q (-64 - e)
      let r := fmtFp32.round q (-64 - e)
      if r.2 then (BitVec.ofNat 32 (0x7F7FFFFF + fmtFp32.signBit neg), Ev.add (Ev.arith1 d.2) (Ev.arith1 true))
      else
        let c := if exact && t.2 then openUlp 1 w t.1 1 1 else openUlp 1 w t.1 0 1
        (BitVec.ofNat 32 (c + fmtFp32.signBit neg), Ev.arith1 d.2)

/-- 1 / sqrt x (R72); open at -0, which the table does not give (log entry 4). -/
def fnRsqrt (w : BitVec 32) : BitVec 32 × Ev :=
  let d := dec32 w
  match d.1 with
  | .nan => (openNan32, Ev.zero)
  | .fin neg m e =>
    if m = 0 then (if neg then BitVec.ofNat 32 (Config.unstated 2 w) else 0x7F7FFFFF#32, Ev.arith1 (!neg))
    else if neg then (openNan32, Ev.arith1 d.2)
    else
      let m2 := if e % 2 = 0 then m else 2 * m
      let e2 := if e % 2 = 0 then e else e - 1
      let q := isqrt (2 ^ 128 / m2)
      let exact := decide (q * q * m2 = 2 ^ 128)
      let t := trunc32 q (-64 - e2 / 2)
      let c := if exact && t.2 then openUlp 2 w t.1 1 1 else openUlp 2 w t.1 0 1
      (BitVec.ofNat 32 c, Ev.arith1 d.2)

/-! ### Vector-unit operations on one lane -/

/-- FP32 result of an exact function of two lanes, infinite inputs counted (R71, Table 2.7). -/
def lane32 (f : FVal → FVal → FVal) (a b : BitVec 32) : BitVec 32 × Ev :=
  let x := dec32 a
  let y := dec32 b
  let r := enc32 (f x.1 y.1)
  (r.1, Ev.add r.2 (Ev.add (Ev.arith1 x.2) (Ev.arith1 y.2)))

/-- BF16 result of an exact function of two lanes. -/
def lane16 (f : FVal → FVal → FVal) (a b : BitVec 16) : BitVec 16 × Ev :=
  let x := dec16 a
  let y := dec16 b
  let r := enc16 (f x.1 y.1)
  (r.1, Ev.add r.2 (Ev.add (Ev.arith1 x.2) (Ev.arith1 y.2)))

/-- Minimum: the number when one input is NaN (R71); between zeros of opposite sign the choice is open. -/
def FVal.min2 (a b : FVal) : FVal :=
  match FVal.cmp a b with
  | some .lt => a
  | some .gt => b
  | some .eq => if Config.zeroTie then a else b
  | none => if a.isNan then b else a

/-- Maximum, with the same rule for NaN. -/
def FVal.max2 (a b : FVal) : FVal :=
  match FVal.cmp a b with
  | some .lt => b
  | some .gt => a
  | some .eq => if Config.zeroTie then a else b
  | none => if a.isNan then b else a

/-- FP32 fused multiply-add, rounded once (R71). -/
def fma32Lane (a b c : BitVec 32) : BitVec 32 × Ev :=
  let x := dec32 a
  let y := dec32 b
  let z := dec32 c
  let r := enc32 (FVal.add (FVal.mul x.1 y.1) z.1)
  (r.1, Ev.add r.2 (Ev.add (Ev.arith1 x.2) (Ev.add (Ev.arith1 y.2) (Ev.arith1 z.2))))

/-- BF16 fused multiply-add, rounded once. -/
def fma16Lane (a b c : BitVec 16) : BitVec 16 × Ev :=
  let x := dec16 a
  let y := dec16 b
  let z := dec16 c
  let r := enc16 (FVal.add (FVal.mul x.1 y.1) z.1)
  (r.1, Ev.add r.2 (Ev.add (Ev.arith1 x.2) (Ev.add (Ev.arith1 y.2) (Ev.arith1 z.2))))

/-- CMP32: conditions 0 less, 1 less or equal, 2 equal, 3 not equal; a NaN input gives false (R71, Table 3.17). -/
def cmpLane (cond : Nat) (a b : BitVec 32) : Bool × Ev :=
  let x := dec32 a
  let y := dec32 b
  let ev := Ev.add (Ev.arith1 x.2) (Ev.arith1 y.2)
  match FVal.cmp x.1 y.1 with
  | none => (false, ev)
  | some o =>
    (match cond with
      | 0 => o == .lt
      | 1 => o != .gt
      | 2 => o == .eq
      | _ => o != .eq, ev)

/-- INT32 addition of the accumulator, saturating (Table 2.7). -/
def addInt32 (w : BitVec 32) (i : Int) : BitVec 32 × Ev :=
  let r := clampInt (-(2 ^ 31)) (2 ^ 31 - 1) (w.toInt + i)
  (BitVec.ofInt 32 r.1, Ev.arith1 r.2)

/-- FP32 addition of an exact value into an accumulator entry: the value is rounded to FP32 first when `first` is set
(R63), and the sum is rounded; at most one saturation counts per entry. -/
def addFp32 (first : Bool) (w : BitVec 32) (v : FVal) : BitVec 32 × Ev :=
  let r := if first then enc32 v else (0#32, Ev.zero)
  let x := if first then (dec32 r.1).1 else v
  let y := match v with | .nan => FVal.nan | .fin _ _ _ => x
  let s := enc32 (FVal.add (dec32 w).1 y)
  (s.1, { Ev.zero with arith := min 1 (r.2.arith + s.2.arith) })

/-! ### Top-k (R73) -/

/-- `a` of index `i` ranks above `b` of index `j`: larger value; between equal values the lower index; a NaN below every
number. -/
def ranksAbove (a b : FVal) (i j : Nat) : Bool :=
  match FVal.cmp a b with
  | some .gt => true
  | some .lt => false
  | some .eq => decide (i < j)
  | none => if a.isNan && b.isNan then decide (i < j) else b.isNan

/-- Insertion in descending rank. -/
def rankInsert (x : FVal × Nat) : List (FVal × Nat) → List (FVal × Nat)
  | [] => [x]
  | y :: ys => if ranksAbove x.1 y.1 x.2 y.2 then x :: y :: ys else y :: rankInsert x ys

/-- The indices of the k highest-ranking values, in descending rank. -/
def topK (k : Nat) (l : List FVal) : List Nat :=
  ((l.zip (List.range l.length)).foldl (fun acc x => (rankInsert x acc).take k) []).map (·.2)

end Sys2Proof.Machine
end

