-- ==== Sys2Proof/Machine/Operands.lean ====
section
/-! DEFINITION. Operand forms of the tile: operand-buffer addresses and spans (R79, R101), packed elements (R53), weight
tiles dense, 2:4 and 1:4 and T2B packs (R54-R57), activation row blocks (R58), zero maps (R59, R60), and which pairings
of formats a mode admits (R43, R44). -/

namespace Sys2Proof.Machine

/-- Byte address in the operand buffer of a bank and an address in 16 B units (Table 3.6). -/
def opAddr (bank : BitVec 2) (addr : BitVec 12) : Nat := bank.toNat * 65536 + addr.toNat * 16

/-- A span of `n` bytes from `a` stays in its bank of 64 KiB (R79, R101). -/
def inBank (a n : Nat) : Bool := decide (a % 65536 + n ≤ 65536)

/-- Element `j` of width `w` of a little-endian bit string (R53). -/
def packed (w : Nat) (v j : Nat) : Nat := v / 2 ^ (w * j) % 2 ^ w

/-- Elements of width `w` packed into a little-endian number. -/
def packNat (w : Nat) : List Nat → Nat
  | [] => 0
  | x :: xs => x % 2 ^ w + 2 ^ w * packNat w xs

/-- Bytes of `n` packed elements of a format (R50, R53). -/
def packedBytes (f : Fmt) (n : Nat) : Nat := match f with | .t2b => (n + 4) / 5 | _ => (n * fmtBits f + 7) / 8

/-- Code of weight `j` of a byte of T2B: 0, 1 or 2 for -1, 0 or +1; an invalid byte decodes as zeros (R50, R52). -/
def t2bDigit (b : Byte) (j : Nat) : Nat := if 243 ≤ b.toNat then 1 else b.toNat / 3 ^ j % 3

/-- Five digits as a T2B byte. -/
def t2bByte (l : List Nat) : Nat := (l.zip [1, 3, 9, 27, 81]).foldl (fun a p => a + p.1 * p.2) 0

/-- Invalid T2B bytes of a list (R52). -/
def t2bBad (l : List Byte) : Nat := (l.filter fun b => decide (243 ≤ b.toNat)).length

/-- The codes of `n` packed elements read from bytes. -/
def unpackCodes (f : Fmt) (n : Nat) (bs : List Byte) : List Nat :=
  match f with
  | .t2b => (bs.flatMap fun b => (List.range 5).map (t2bDigit b)).take n
  | _ => let v := leNat bs; (List.range n).map (packed (fmtBits f) v)

/-- T2B bytes from digits, five at a time; what fills a last partial byte is open (log entry 4). -/
def packDigits : Nat → List Nat → List Byte
  | 0, _ => []
  | n + 1, l =>
    let g := l.take 5
    let pad := (List.range (5 - g.length)).map fun i => Config.unstated 10 (BitVec.ofNat 32 i) % 3
    BitVec.ofNat 8 (t2bByte (g ++ pad)) :: packDigits n (l.drop 5)

/-- Codes packed into bytes. -/
def packCodes (f : Fmt) (l : List Nat) : List Byte :=
  match f with
  | .t2b => packDigits (packedBytes .t2b l.length) l
  | _ => natLe (packedBytes f l.length) (packNat (fmtBits f) l)

/-! ### Modes -/

/-- Dense K of a weight tile (Table 2.2). -/
def denseK : MuMode → Nat
  | .mx4 => 64
  | .t2 => 128
  | _ => 32

/-- K that a weight tile covers, dense or sparse (Table 2.2). -/
def tileK (m : MuMode) (sp : Sparsity) : Nat := if m = .t2 then 128 else if sp = .dense then denseK m else 2 * denseK m

/-- The mode's operands are MX blocks with E8M0 scales. -/
def isMx : MuMode → Bool
  | .mx8 | .mxi8 | .mx4 => true
  | _ => false

/-- Weight formats of a mode (R42, R43). -/
def weightOk (m : MuMode) (f : Fmt) : Bool :=
  match m with
  | .f8 => f == .e4m3 || f == .e5m2
  | .i8 => f == .int8
  | .mx8 => f == .e4m3 || f == .e5m2 || f == .e3m2 || f == .e2m3
  | .mxi8 => f == .mxi
  | .mx4 => f == .e2m1
  | .bf => f == .bf16
  | .t2 => f == .t2b

/-- Activation formats of a mode (R42, R43). -/
def actOk (m : MuMode) (f : Fmt) : Bool := match m with | .t2 => f == .int8 | _ => weightOk m f

/-- Weight structures of a mode (R44). -/
def sparsityOk (m : MuMode) (sp : Sparsity) : Bool :=
  match m, sp with
  | _, .dense => true
  | .bf, _ => false
  | .t2, .twoFour => true
  | .t2, .oneFour => false
  | _, _ => true

/-- Bytes of a weight tile, or of a whole pack in T2 mode (Table 2.5). -/
def weightBytes (m : MuMode) (sp : Sparsity) (f : Fmt) : Nat :=
  if m = .t2 then (if sp = .dense then 4736 else 4480)
  else
    let pos := tileK m sp * 32
    let scales := if isMx m then pos / 32 else 0
    match sp with
    | .dense => pos * fmtBits f / 8 + scales
    | .twoFour => pos / 2 * fmtBits f / 8 + pos / 8 + scales
    | .oneFour => pos / 4 * fmtBits f / 8 + pos / 16 + scales

/-! ### Weights -/

/-- A weight of a column: its position along K and its value without scale. -/
abbrev KW := Nat × FVal

/-- The E8M0 scale of index `i` that stands from byte `off`. -/
def scaleAt (bs : List Byte) (off i : Nat) : FVal := (fmtDecode .e8m0 ((bs[off + i]?).getD 0).toNat).1

/-- Decoded T2B group code of 2:4 packs: the weights at four positions as codes 0, 1, 2 (Table 2.6). -/
def t2bGroup (c : Nat) : List Nat :=
  if c = 0 then [1, 1, 1, 1]
  else if c ≤ 8 then
    let v := if (c - 1) % 2 = 0 then 2 else 0
    (List.range 4).map fun p => if p = (c - 1) / 2 then v else 1
  else if c ≤ 32 then
    let q := (c - 9) / 4
    let r := (c - 9) % 4
    let pr := ([(0, 1), (0, 2), (0, 3), (1, 2), (1, 3), (2, 3)][q]?).getD (0, 0)
    (List.range 4).map fun p =>
      if p = pr.1 then (if r / 2 = 0 then 2 else 0) else if p = pr.2 then (if r % 2 = 0 then 2 else 0) else 1
  else [1, 1, 1, 1]

/-- Weight code of (k, n) in tile q of a T2B pack (R56, R57). -/
def t2bCode (sp : Sparsity) (bs : List Byte) (payload q k n : Nat) : Nat :=
  if sp = .dense then
    let t := n * 640 + 128 * q + k
    t2bDigit ((bs[t / 5]?).getD 0) (t % 5)
  else
    let j := n * 160 + (128 * q + k) / 4
    ((t2bGroup (packed 6 payload j))[(128 * q + k) % 4]?).getD 1

/-- The weights of column `n`: for each kept value its position along K, value and whether it is an infinite input. DESIGN CHOICE: the zero second kept value
of an expanded 1:4 group is left out, since the spec names no position for it; a NaN activation there makes no NaN (log entry 174). -/
def columnWeights (w : WPlane) (n : Nat) : List (Nat × FVal × Bool) :=
  let kt := tileK w.mode w.sp
  if w.mode = .t2 then
    let payload := leNat (w.bytes.take 3840)
    (List.range 128).map fun k => (k, intVal ((t2bCode w.sp w.bytes payload w.q k n : Int) - 1) 0, false)
  else
    let v := leNat w.bytes
    let wd := fmtBits w.fmt
    match w.sp with
    | .dense => (List.range kt).map fun k => let d := fmtDecode w.fmt (packed wd v (n * kt + k)); (k, d.1, d.2)
    | .twoFour =>
      let kept := kt * 32 / 2
      let idx := leNat (w.bytes.drop (kept * wd / 8))
      (List.range (kt / 2)).map fun i =>
        let j := n * kt / 2 + i
        let d := fmtDecode w.fmt (packed wd v j)
        (i / 2 * 4 + packed 2 idx j, d.1, d.2)
    | .oneFour =>
      let kept := kt * 32 / 4
      let idx := leNat (w.bytes.drop (kept * wd / 8))
      (List.range (kt / 4)).map fun i =>
        let j := n * kt / 4 + i
        let d := fmtDecode w.fmt (packed wd v j)
        (i * 4 + packed 2 idx j, d.1, d.2)

/-- The E8M0 scale of block `b` of column `n` (R53, R54). -/
def weightScale (w : WPlane) (n b : Nat) : FVal :=
  let kt := tileK w.mode w.sp
  let off := weightBytes w.mode w.sp w.fmt - kt
  scaleAt w.bytes off (n * (kt / 32) + b)

/-- The BF16 scale of the 64-weight group `g` (0 or 1) of tile q of column `n` (R51, R56, R57). -/
def groupScale (w : WPlane) (n g : Nat) : FVal × Bool :=
  let base := if w.sp = .dense then 4096 else 3840
  let off := base + 2 * (n * 10 + 2 * w.q + g)
  dec16 (BitVec.ofNat 16 (leNat ((w.bytes.drop off).take 2)))

/-- Codes that decode as zeros and count in TIL_BADCODE when tile `q` of a pack is loaded; a byte that spans two tiles
counts with its first weight (R52, Table 2.6). -/
def packBad (sp : Sparsity) (bs : List Byte) (q : Nat) : Nat :=
  if sp = .dense then
    ((List.range 32).map fun n =>
      ((List.range 128).filter fun i => decide (128 * q ≤ 5 * i) && decide (5 * i < 128 * q + 128) &&
        decide (243 ≤ ((bs[128 * n + i]?).getD 0).toNat)).length).foldl (· + ·) 0
  else
    let v := leNat (bs.take 3840)
    ((List.range 32).map fun n =>
      ((List.range 32).filter fun i => decide (33 ≤ packed 6 v (n * 160 + 32 * q + i))).length).foldl (· + ·) 0

/-- Infinite inputs among the elements of a weight tile. -/
def weightInf (w : WPlane) : Nat :=
  if w.mode = .t2 then
    ((List.range 64).filter fun i => (groupScale w (i / 2) (i % 2)).2).length
  else ((List.range 32).map fun n => ((columnWeights w n).filter fun x => x.2.2).length).foldl (· + ·) 0

/-! ### Activations -/

/-- Bytes of an activation block of 32 x 32 elements, with its scales in MX formats (R58). -/
def actBlockBytes (mx : Bool) (f : Fmt) : Nat := packedBytes f 1024 + (if mx then 32 else 0)

/-- Row `r` of an activation block: 32 decoded elements with their scale applied, and the infinite inputs among them. -/
def actRow (mx : Bool) (f : Fmt) (blk : List Byte) (r : Nat) : List FVal × Nat :=
  let v := leNat (blk.take (packedBytes f 1024))
  let l := (List.range 32).map fun k => fmtDecode f (packed (fmtBits f) v (r * 32 + k))
  let s := if mx then scaleAt blk (packedBytes f 1024) r else .fin false 1 0
  (l.map fun x => FVal.mul x.1 s, (l.filter fun x => x.2).length)

/-- A row of a row block over the K of a weight tile: `blks` are its activation blocks in K order. -/
def actRowK (mx : Bool) (f : Fmt) (blks : List (List Byte)) (r : Nat) : List FVal × Nat :=
  (blks.map fun b => actRow mx f b r).foldl (fun a x => (a.1 ++ x.1, a.2 + x.2)) ([], 0)

/-- Bit `i` of a zero map, packed little-endian in K order (R59). -/
def zmapBit (m : Memory) (z : ZMap) (i : Nat) : Bool := (m.byte (z.addr.toNat + (z.first + i) / 8)).getLsbD ((z.first + i) % 8)

/-- A zero map with bit `i` set to `v`. -/
def setZmapBit (m : Memory) (z : ZMap) (i : Nat) (v : Bool) : Memory :=
  let a := z.addr.toNat + (z.first + i) / 8
  let k := (z.first + i) % 8
  let x := m.byte a
  m.setByte a (if v then x ||| (1#8 <<< k) else x &&& ~~~(1#8 <<< k))

/-- A zero-map bit is 0 only when every element of the block encodes zero of either sign and no scale is 0xFF (R59). -/
def zeroBit (mx : Bool) (f : Fmt) (blk : List Byte) : Bool :=
  let v := leNat (blk.take (packedBytes f 1024))
  let codes := (List.range 1024).map (packed (fmtBits f) v)
  let zero := codes.all fun c => match (fmtDecode f c).1 with | .fin _ m _ => decide (m = 0) | .nan => false
  let scaleNan := mx && ((blk.drop (packedBytes f 1024)).any fun b => decide (b.toNat = 255))
  !(zero && !scaleNan)

/-! ### One row against one weight column (R63) -/

/-- Products of the kept weights with their activations. -/
def products (row : List FVal) (ws : List (Nat × FVal × Bool)) : List FVal :=
  ws.map fun x => FVal.mul ((row[x.1]?).getD (.fin false 0 0)) x.2.1

/-- An integer value of exponent `e` back as an integer. -/
def valInt : FVal → Int
  | .nan => 0
  | .fin n m e => let i : Int := (m * 2 ^ e.toNat : Nat); if n then -i else i

/-- The accumulator entry of column `n` after one more row (R63, R55). -/
def accumulate (w : WPlane) (row : List FVal) (n : Nat) (acc : BitVec 32) : BitVec 32 × Ev :=
  let ws := columnWeights w n
  match w.mode with
  | .f8 | .bf => addFp32 true acc (FVal.sum (products row ws))
  | .mx8 | .mx4 =>
    addFp32 true acc (FVal.sum (ws.map fun x =>
      FVal.mul (FVal.mul ((row[x.1]?).getD (.fin false 0 0)) x.2.1) (weightScale w n (x.1 / 32))))
  | .i8 => addInt32 acc ((products row ws).foldl (fun a p => a + valInt p) 0)
  | .mxi8 =>
    (List.range (tileK w.mode w.sp / 32)).foldl (fun a b =>
      let p := FVal.sum (products row (ws.filter fun x => x.1 / 32 == b))
      let r := addFp32 false a.1 (FVal.mul p (weightScale w n b))
      (r.1, Ev.add a.2 r.2)) (acc, Ev.zero)
  | .t2 =>
    (List.range 2).foldl (fun a g =>
      let p := FVal.sum (products row (ws.filter fun x => x.1 / 64 == g))
      let r := addFp32 false a.1 (FVal.mul p (groupScale w n g).1)
      (r.1, Ev.add a.2 r.2)) (acc, Ev.zero)

/-! ### MX blocks written at drain (R49) -/

/-- emax of R49. -/
def emaxOf : Fmt → Int
  | .e4m3 => 8
  | .e5m2 => 15
  | .e3m2 => 4
  | .e2m3 => 2
  | .e2m1 => 2
  | _ => 0

/-- floor(log2) of a magnitude m x 2^e. -/
def floorLog2 (m : Nat) (e : Int) : Int := (m.log2 : Int) + e

/-- One MX block of up to 32 values: its scale byte and element codes (R49, Table 2.7). -/
def mxBlock (f : Fmt) (vs : List FVal) : Nat × List Nat :=
  if vs.any FVal.isNan then (255, vs.map fun _ => 0)
  else
    let mags := vs.filterMap fun v => match v with
      | .nan => none
      | .fin _ m e => if m = 0 then none else some (floorLog2 m e)
    match mags with
    | [] => (0, vs.map fun v => (fmtEncode f (-128) v).1)
    | x :: xs =>
      let k := (clampInt (-127) 127 (xs.foldl max x - emaxOf f)).1
      ((k + 127).toNat, vs.map fun v => (fmtEncode f (-128) (FVal.mul v (.fin false 1 (-k)))).1)

end Sys2Proof.Machine
end

