-- ==== Sys2Proof/Machine/Array.lean ====
section
/-! DEFINITION. The tile array: logical positions and the row map (R119, R122), which pound a tile stands in (R28, R29,
R95), parity at the consumer and the taint of a step (R212, R213, R241), array faults (R140), the commit bitmap (R162),
and the share of a column that the running context owns (R215-R218). -/

namespace Sys2Proof.Machine

/-! ### Logical positions -/

/-- Row map of device row `r`. -/
def State.rowMap (s : State) (r : Nat) : RowMap := (s.basin (r / 4)).row (r % 4)

/-- Physical column `c` stands out of service in this row map (R119). -/
def RowMap.out (m : RowMap) (c : Nat) : Bool := decide (c = m.aCol.toNat) || decide (c = m.bCol.toNat)

/-- Logical column of physical column `c` (R119). -/
def RowMap.logical (m : RowMap) (c : Nat) : Option Nat :=
  if m.out c then none
  else some (c - (if m.aCol.toNat < c then 1 else 0) - (if m.bCol.toNat < c then 1 else 0))

/-- Physical column that stands at logical column `j` (R119). -/
def RowMap.physical (m : RowMap) (j : Nat) : Nat :=
  (((List.range 34).filter fun c => !m.out c)[j]?).getD 0

namespace State

/-- Logical position (device row, logical column) of tile `t`; none for a column out of service. -/
def position (s : State) (t : Nat) : Option (Nat × Nat) := ((s.rowMap (t / 34)).logical (t % 34)).map fun j => (t / 34, j)

/-- The tile at a logical position. -/
def tileAt (s : State) (r j : Nat) : Nat := r * 34 + (s.rowMap r).physical j

/-- Pound `p` homed in basin `h` covers logical position (r, j) (R95). -/
def covers (s : State) (h p r j : Nat) : Bool :=
  let d := ((s.basin h).pound p).pdef
  decide (4 * h + d.top ≤ r) && decide (r < 4 * h + d.top + d.height) && decide (d.left ≤ j) && decide (j < d.left + d.width)

/-- The pounds of the device that a cut declares, as (home basin, index). -/
def allPounds (s : State) : List (Nat × Nat) :=
  (List.range 8).flatMap fun h => ((List.range 16).filter fun p => decide (0 < ((s.basin h).pound p).pdef.height)).map fun p => (h, p)

/-- The pound that tile `t` stands in (R19, R29). -/
def poundOf (s : State) (t : Nat) : Option (Nat × Nat) :=
  (s.position t).bind fun x => s.allPounds.find? fun q => s.covers q.1 q.2 x.1 x.2

/-- The tiles of pound `p` homed in basin `h`, in logical row-major order (R98). -/
def poundTiles (s : State) (h p : Nat) : List Nat :=
  let d := ((s.basin h).pound p).pdef
  (List.range d.height).flatMap fun i => (List.range d.width).map fun j => s.tileAt (4 * h + d.top + i) (d.left + j)

/-- The basins that a pound spans, home first (R28, R29). -/
def poundBasins (s : State) (h p : Nat) : List Nat :=
  let d := ((s.basin h).pound p).pdef
  (List.range 8).filter fun b => decide (h ≤ b) && decide (4 * b < 4 * h + d.top + d.height)

/-- The pound `p` of basin `h` changed by `f`. -/
def modPound (s : State) (h p : Nat) (f : Pound → Pound) : State := s.modBasin h fun x => x.modPound p f

/-- The neighbour of tile `t` on a side, in logical positions; east and west are physical neighbours that carry the flit
past what stands out of service (R15, R16, R122, R123). -/
def neighbour (s : State) (t : Nat) (d : Side) : Option Nat :=
  (s.position t).bind fun x =>
    match d with
    | .north => if x.1 = 0 then none else some (s.tileAt (x.1 - 1) x.2)
    | .south => if x.1 = 31 then none else some (s.tileAt (x.1 + 1) x.2)
    | .west => if x.2 = 0 then none else some (s.tileAt x.1 (x.2 - 1))
    | .east => if x.2 = 31 then none else some (s.tileAt x.1 (x.2 + 1))

/-- A border filter passes a flit between two basins (R31). -/
def borderOpen (s : State) (a b : Nat) : Bool :=
  decide (a = b) || (decide ((s.basin a).sliceId ≠ 0) && decide ((s.basin a).sliceId = (s.basin b).sliceId))

/-- Local basins of the slice of basin `b`, or `b` alone when it is in none. -/
def sliceBasins (s : State) (b : Nat) : List Nat :=
  let l := s.localMembers (s.basin b).sliceId.toNat
  if l.contains b then l else [b]

end State

/-- The opposite side. -/
def oppositeSide : Side → Side
  | .north => .south
  | .south => .north
  | .east => .west
  | .west => .east

/-- Output number of a side, in the order N, E, S, W (Table 3.5). -/
def sideCode : Side → Nat
  | .north => 0
  | .east => 1
  | .south => 2
  | .west => 3

/-! ### The next schedule word of a tile (Tables 3.5, 3.6) -/

/-- Bits [lo + n - 1 : lo] of a schedule word. -/
def wbits (w lo n : Nat) : Nat := w / 2 ^ lo % 2 ^ n

/-- The wait of a schedule word in cycles, bits [63:54]. -/
def schedWait (w : BitVec 64) : Nat := wbits w.toNat 54 10

/-- Byte of schedule memory where slot `k` holds its schedule word `i`. -/
def wordByte (k i : Nat) : Nat := 32768 * k + 0x180 + 8 * i

/-- Eight bytes of a memory as one little-endian word. -/
def Memory.word64 (m : Memory) (a : Nat) : BitVec 64 := BitVec.ofNat 64 (leNat (m.read a 8))

namespace State

/-- The slot that runs in the basin of a tile. -/
def runSlot (s : State) (t : Nat) : Nat := (s.basin (tileBasin t)).cut.activeSlot.toNat

/-- The schedule word that a tile issues next. -/
def fetch (s : State) (t : Nat) : BitVec 64 := Memory.word64 (s.tile t).mem.sched (wordByte (s.runSlot t) (s.tile t).core.pc)

end State

/-! ### Array faults (R140) -/

/-- A pound stops with a fault raised in a phrase cycle; the first fault of a step is the one that its context ends with. -/
def Pound.failed (p : Pound) (f : ArrayFault) (cyc : Nat) : Pound :=
  { p with stopped := true, fault := some (p.fault.getD f), stopCyc := if p.stopped then p.stopCyc else cyc }

namespace State

/-- A tile raises an array fault in phrase cycle `cyc` on behalf of pound `hp`: the tile stops in that cycle, the rest of the pound in the next one, and
the other pounds of the slice hold at their next step boundaries until the slice's next lockage (R140). The teardown is the row CONTEXT_TEARDOWN
(R477). -/
def faultOf (s : State) (t : Nat) (hp : Option (Nat × Nat)) (f : ArrayFault) (cyc : Nat) : State :=
  let b := tileBasin t
  let s1 := s.modTile t fun x => { x with core := { x.core with stopped := true } }
  let s2 := match hp with
    | some q => s1.modPound q.1 q.2 fun p => p.failed f cyc
    | none => s1
  let s3 := (s2.sliceBasins b).foldl (fun u i =>
    u.modBasin i fun x => { x with pounds := x.pounds.map fun e => (e.1, { e.2 with held := true }) }) s2
  s3.record b 4 (BitVec.ofNat 8 (((s.basin b).running).getD 0))
    (data48 (faultStatus f).code (s.basin b).st.state.code (s.basin b).st.cause.code)

/-- A tile raises an array fault in the pound it stands in, in a cycle of its phrase. -/
def arrayFaultAt (s : State) (t cyc : Nat) (f : ArrayFault) : State := s.faultOf t (s.poundOf t) f cyc

/-- A tile raises an array fault in the cycle of its last issue. -/
def arrayFault (s : State) (t : Nat) (f : ArrayFault) : State := s.arrayFaultAt t (s.tile t).core.cyc f

/-- A fault that a pound's sequencer raises (R162, R173), at the pound's first tile. -/
def poundFault (s : State) (h p : Nat) (f : ArrayFault) : State :=
  match s.poundTiles h p with
  | t :: _ => s.arrayFault t f
  | [] => s.modPound h p fun q => q.failed f 0

/-! ### Parity (R212, R213, R241) -/

/-- The current step of the tile's pound is tainted. -/
def taintTile (s : State) (t : Nat) : State :=
  match s.poundOf t with
  | some hp => s.modPound hp.1 hp.2 fun p => { p with taint := true }
  | none => s

end State

/-- A parity error that a read of words [w, w + n) of a space meets: a transient one fails one read alone (R617). -/
def ParErr.hit (e : ParErr) (sp : Space) (w n : Nat) : Bool :=
  e.space == sp && decide (w ≤ e.word) && decide (e.word < w + n) && !(e.transient && e.seen)

/-- Words [w, w + n) of a space written with correct parity. -/
def TileMem.cleared (m : TileMem) (sp : Space) (w n : Nat) : TileMem :=
  { m with parity := m.parity.filter fun e => !(e.space == sp && decide (w ≤ e.word) && decide (e.word < w + n)) }

/-- A read of words of a space is damaged. -/
def TileMem.damaged (m : TileMem) (sp : Space) (w n : Nat) : Bool := m.parity.any fun e => e.hit sp w n

/-- Which of words [w, w + n) of a space a read finds damaged, counted from w. -/
def TileMem.marks (m : TileMem) (sp : Space) (w n : Nat) : List Nat :=
  (m.parity.filter fun e => e.hit sp w n).map fun e => e.word - w

/-- Words that arrive damaged at word `w` of a space stay damaged there: nothing between producer and consumer regenerates parity
(R213). -/
def TileMem.mark (m : TileMem) (sp : Space) (w : Nat) (l : List Nat) : TileMem :=
  { m with parity := m.parity ++ l.map fun i => { space := sp, word := w + i, transient := false, seen := false } }

/-- The errors of a read are recorded for repair (R241). -/
def TileMem.recorded (m : TileMem) (sp : Space) (w n : Nat) : TileMem :=
  { m with parity := m.parity.map fun e => if e.hit sp w n then { e with seen := true } else e }

namespace State

/-- A tile consumes words [w, w + n) of a space: a damaged word is recorded and taints the step, which runs on (R241). -/
def consume (s : State) (t : Nat) (sp : Space) (w n : Nat) : State :=
  if (s.tile t).mem.damaged sp w n then
    (s.modTile t fun x => { x with mem := x.mem.recorded sp w n }).taintTile t
  else s

/-- The cut that basin `y` runs. -/
def cutOf (s : State) (y : Nat) : Nat := (((s.basin y).activeShare).map (·.cutId)).getD 0

/-- Tiles of a pound that stand in basin `y`, as logical positions of the basin, in row-major order. -/
def poundPlaces (s : State) (h p y : Nat) : List Nat :=
  let d := ((s.basin h).pound p).pdef
  (List.range d.height).flatMap fun i =>
    let r := 4 * h + d.top + i
    if r / 4 = y then (List.range d.width).map fun j => r % 4 * 32 + d.left + j else []

/-- Bytes of a half that land in basin `y`: its tiles' part of the pound's half. -/
def halfPart (s : State) (h p y phrase : Nat) : Nat :=
  Config.halfBytes (s.cutOf h) p phrase * (s.poundPlaces h p y).length / max 1 (s.poundTiles h p).length

/-- Operand-buffer bytes of a tile of a pound that landing half `k` of a phrase takes: first byte and length (R324, R325; log entry 50). -/
def halfRange (s : State) (t : Nat) (hp : Nat × Nat) (phrase k : Nat) : Nat × Nat :=
  let y := tileBasin t
  (Config.landingArea (s.cutOf y) hp.2 0 k % 2 ^ 18, s.halfPart hp.1 hp.2 y phrase / max 1 (s.poundPlaces hp.1 hp.2 y).length)

/-- Items of a pound's program whose phrase is a paced attention phrase: it has landing halves (R325). -/
def pacedItems (s : State) (h p : Nat) : List (Nat × ProgItem) :=
  let q := (s.basin h).pound p
  ((List.range q.prog.length).zip q.prog).filter fun e => e.2.kind == .attention && decide (0 < Config.halfBytes (s.cutOf h) p e.2.phrase)

/-- The landing halves of tile `t` that hold byte `a` of its operand buffer. -/
def halvesAt (s : State) (t a : Nat) : List Nat :=
  match s.poundOf t with
  | none => []
  | some hp => [0, 1].filter fun k => (s.pacedItems hp.1 hp.2).any fun e =>
      let r := s.halfRange t hp e.2.phrase k
      decide (r.1 ≤ a) && decide (a < r.1 + r.2)

/-- What came into the landing halves that hold byte `a`: a barge of a half's data, or one that failed (R326). -/
def halfCame (s : State) (t a : Nat) (failed : Bool) : State :=
  (s.halvesAt t a).foldl (fun u k => u.modTile t fun x => { x with core := { x.core with
    came := if failed then Tbl.set 0 k 2 x.core.came else if Tbl.get 0 k x.core.came = 2 then x.core.came else Tbl.set 0 k 1 x.core.came } }) s

/-- A word reads landing half `k`: one that is not full taints the step, and the late landing counts once in BSN_BRG_LATE, charged to the running
context (R326, R328). -/
def readHalf (s : State) (t k : Nat) : State :=
  match Tbl.get 0 k (s.tile t).core.halves with
  | 1 => s
  | 0 =>
    let s1 := (s.modTile t fun x => { x with core := { x.core with halves := Tbl.set 0 k 2 x.core.halves } }).taintTile t
    s1.modBasin (tileBasin t) fun x =>
      let y := match x.running with | some c => x.chargeBarge c 2 1 | none => x
      { y with eng := { y.eng with late := satAdd y.eng.late 1 } }
  | _ => s.taintTile t

/-- A word of a piece of a paced attention phrase reads bytes [a, a + n) of the operand buffer: the landing halves that it meets (R326). -/
def readHalves (s : State) (t a n : Nat) : State :=
  match (s.tile t).core.phrase, s.poundOf t with
  | some ph, some hp =>
    if ph.half.isNone then s
    else [0, 1].foldl (fun u k =>
      let r := s.halfRange t hp ph.phrase k
      if a < r.1 + r.2 ∧ r.1 < a + n then u.readHalf t k else u) s
  | _, _ => s

/-- Bytes consumed from the operand buffer. -/
def consumeOp (s : State) (t a n : Nat) : State := (s.consume t .opbuf (a / 4) ((n + 3) / 4)).readHalves t a n

/-- Bytes that a unit of the tile produces, written to the operand buffer with correct parity (R213). -/
def writeOp (s : State) (t a : Nat) (bs : List Byte) : State :=
  s.modTile t fun x => { x with mem := { (x.mem.cleared .opbuf (a / 4) ((bs.length + 3) / 4)) with
    opbuf := Memory.write x.mem.opbuf a bs } }

/-- Bytes moved into the operand buffer; `bad` lists the words among them whose parity fails (R213). -/
def moveOp (s : State) (t a : Nat) (bs : List Byte) (bad : List Nat) : State :=
  (s.writeOp t a bs).modTile t fun x => { x with mem := x.mem.mark .opbuf (a / 4) bad }

/-- Bytes moved into the column; `bad` lists the words among them whose parity fails (R213). -/
def moveColumn (s : State) (t a : Nat) (bs : List Byte) (bad : List Nat) : State :=
  s.modTile t fun x => { x with mem := { (x.mem.cleared .column (a / 4) ((bs.length + 3) / 4)) with
    column := Memory.write x.mem.column a bs }.mark .column (a / 4) bad }

/-- Words written to the operand buffer. -/
def writeOpWords (s : State) (t a : Nat) (ws : List (BitVec 32)) : State :=
  s.modTile t fun x => { x with mem := { (x.mem.cleared .opbuf (a / 4) ws.length) with
    opbuf := Memory.writeWords x.mem.opbuf a ws } }

/-- Counters of a tile advance. -/
def count (s : State) (t : Nat) (v : Ev) : State := s.modTile t fun x => { x with cnt := x.cnt.count v }

/-! ### Step parameters (Table 4.3) and the commit bitmap (R162) -/

/-- Rows of the phrase under way: of the step, of the mooring entry, or of the key blocks of the sequence (R164, R165). -/
def phraseRows (s : State) (h : Nat) (p : Pound) : Nat :=
  match p.phrase with
  | none => 0
  | some ph =>
    match ph.kind with
    | .dense => p.rows
    | .attention => (ph.len + 31) / 32 * 32
    | .grouped =>
      let k := (s.basin h).sluice.steps.find? fun r => r.ctx == p.ctx && r.route == ph.route.toNat && r.step == p.step % 2 ^ 32
      ((k.bind fun r => r.table.find? fun e => e.1 == ph.slot.toNat).map (·.2.1)).getD 0

/-- Row groups G of R rows (Table 4.3). -/
def groupCount (g rows : Nat) : Nat := ((rows + 31) / 32 + max 1 g - 1) / max 1 g

/-- Tile operations of the phrase under way: rings x S x G (R162). -/
def phraseOps (s : State) (h : Nat) (p : Pound) : Nat :=
  p.pdef.ring.rings * p.plan.segs * groupCount p.pdef.ring.g (s.phraseRows h p)

/-- A tile operation's index committed: a repeat, or an index beyond the phrase's operations, raises DOUBLE_COMMIT
(R162). -/
def commit (s : State) (t op : Nat) : State :=
  match s.poundOf t with
  | none => s
  | some hp =>
    let p := (s.basin hp.1).pound hp.2
    if p.commits.contains op || decide (s.phraseOps hp.1 p ≤ op) then s.arrayFault t .doubleCommit
    else s.modPound hp.1 hp.2 fun q => { q with commits := op :: q.commits }

/-! ### Column shares (R90, R215-R218) -/

/-- First byte and size of the share of context `c` in each column of basin `b` (R215, R216). -/
def shareRange (s : State) (b c : Nat) : Nat × Nat :=
  let x := (s.basin b).sramCtx c
  (x.base.toNat * 65536, x.size.toNat * 65536)

/-- The residency entry of an object in context `c` of basin `b`. -/
def resOf (s : State) (b c m e : Nat) : Option ResEntry :=
  ((s.basin b).ctx c).res.find? fun r => r.model == m && r.edition == e

/-- First byte of an object's weights in each column of context `c`'s share in basin `b`: the static region follows the cut store
(R217). -/
def staticBase (s : State) (b c m e : Nat) : Nat :=
  let x := (s.basin b).sramCtx c
  x.base.toNat * 65536 + x.store.toNat * 32768 + (((s.resOf b c m e).map (·.off)).getD 0) * 65536

/-- First byte of the static region of the object whose cut basin `b` runs. -/
def runBase (s : State) (b : Nat) : Nat :=
  match (s.basin b).running, (s.basin b).activeShare with
  | some c, some h => s.staticBase b c h.model h.edition
  | _, _ => 0

/-- Bytes [a, a + n) of a column lie in the share of the running context of basin `b` (R218). -/
def inShare (s : State) (b a n : Nat) : Bool :=
  match (s.basin b).running with
  | none => false
  | some c => let r := s.shareRange b c; decide (r.1 ≤ a) && decide (a + n ≤ r.1 + r.2)

/-- First byte and size of the dynamic region that the active cut declares: it ends the running context's share (R89, R217; log entry 13). -/
def dynamicRange (s : State) (b : Nat) : Nat × Nat :=
  match (s.basin b).running with
  | none => (0, 0)
  | some c =>
    let r := s.shareRange b c
    let d := ((((s.basin b).activeShare).map (·.dynKib)).getD 0) * 1024
    (r.1 + r.2 - d, d)

/-- Bytes [a, a + n) of a column lie in the dynamic region. -/
def inDynamic (s : State) (b a n : Nat) : Bool :=
  let r := s.dynamicRange b
  decide (r.1 ≤ a) && decide (a + n ≤ r.1 + r.2)

/-- The current rack tick is an issue tick (R582): the 8-bit reversal of t mod 256 lies below the duty n. -/
def issueTick (s : State) : Bool :=
  let t := s.time.now
  let rev := (List.range 8).foldl (fun a i => a + if t.getLsbD i then 2 ^ (7 - i) else 0) 0
  decide (rev < s.power.duty.toNat)

/-- No dredge window is open in a basin where the pound has a tile: a window freezes the whole pound (R108). -/
def windowClear (s : State) (hp : Nat × Nat) : Bool := (s.poundBasins hp.1 hp.2).all fun b => !(s.basin b).maint.open_

/-- A tile issues schedule words: it runs a phrase, it has not stopped, nor its pound before the cycle of its next word, its basin and its pound's home
serve, no basin of its pound has a dredge window open, and the tick is an issue tick (R20, R103, R107, R108, R140, R520, R582). -/
def issues (s : State) (t : Nat) : Bool :=
  let x := (s.tile t).core
  let b := s.basin (tileBasin t)
  x.inPhrase && !x.stopped && b.st.state == .serving && !b.maint.open_ && s.issueTick &&
    (match s.poundOf t with
      | some hp =>
        let p := (s.basin hp.1).pound hp.2
        (!p.stopped || decide (x.cyc + schedWait (s.fetch t) ≤ p.stopCyc)) && (s.basin hp.1).st.state == .serving && s.windowClear hp
      | none => true)

/-- The tiles of a pound end their phrase: the step has ended, or is void (R105, R245). -/
def endTiles (s : State) (h p : Nat) : State :=
  (s.poundTiles h p).foldl (fun u t => u.modTile t fun x => { x with core := { x.core with inPhrase := false } }) s

end State


end Sys2Proof.Machine
end

