-- ==== Sys2Proof/Machine/Schedule.lean ====
section
/-! DEFINITION. The schedule of a tile: schedule words (R101, R102, Tables 3.6 and 3.17), the phrase table (R100), how words issue (R103-R105),
the rings of a pound and the rotations of a phrase (R148-R152), and the claims of tile operations (R157-R162). -/

namespace Sys2Proof.Machine

/-! ### Schedule words (Table 3.6) -/

/-- The operation of a schedule word: units 0x0 to 0x9, and for the vector unit the code of Table 3.17. -/
inductive SchedOp where
  | nop
  | muLoad (bank : BitVec 2) (addr : BitVec 12) (mode : MuMode) (sp : Sparsity)
  | muStream (bank : BitVec 2) (addr : BitVec 12) (block : BitVec 5) (fromReg : Bool) (rows : BitVec 6)
  | drain (first blocks : BitVec 5) (fmt steps : BitVec 4) (fn : BitVec 6) (bank : BitVec 2) (addr : BitVec 12)
  | vu (code : BitVec 6) (a b : BitVec 4) (v : VuSpan)
  | sram (write : Bool) (column : BitVec 16) (bank : BitVec 2) (addr : BitVec 12) (len : BitVec 11)
  | route (n e s w own : RouteSrc) (repeatMinus1 : BitVec 6)
  | queue (pop : Bool) (qid : BitVec 8) (bank : BitVec 2) (addr : BitVec 12) (flitsMinus1 : BitVec 16)
  | counter (reg : Fin 16) (increment : BitVec 16)
  | loop (wordsMinus1 : BitVec 6) (fromReg : Bool) (count : BitVec 16)
  | endWord
  deriving DecidableEq, Repr

/-- Modes in Table 2.2 order. -/
def modeOfCode : Nat → Option MuMode
  | 0 => some .f8 | 1 => some .i8 | 2 => some .mx8 | 3 => some .mxi8 | 4 => some .mx4 | 5 => some .bf | 6 => some .t2 | _ => none

/-- Weight structure of an MU load: 0 dense, 1 2:4 or T2B 2:4, 2 1:4. -/
def sparsityOfCode : Nat → Option Sparsity
  | 0 => some .dense | 1 => some .twoFour | 2 => some .oneFour | _ => none

/-- Source of a ROUTE output: 0 none, 1 N, 2 E, 3 S, 4 W, 5 the tile. -/
def routeSrcOfCode : Nat → Option RouteSrc
  | 0 => some .none | 1 => some (.side .north) | 2 => some (.side .east) | 3 => some (.side .south) | 4 => some (.side .west)
  | 5 => some .tile | _ => none

/-- Fields [43:40] and [39:36] that a vector operation uses; the others must be 0 (Table 3.6). -/
def vuFieldsOk (code a b : Nat) : Bool :=
  if code = 7 then true else if code = 5 || code = 16 then decide (b = 0) else decide (a = 0) && decide (b = 0)

/-- A schedule word decoded: none for a reserved unit, a reserved value or a non-zero reserved bit (R101, Table 3.16). DESIGN CHOICE: a schedule
register is named by a number below 16, higher bits of its field count as reserved (log entry 14). -/
def decodeSched (x : BitVec 64) : Option SchedOp :=
  let w := x.toNat
  match wbits w 50 4 with
  | 0 => if wbits w 0 50 = 0 then some .nop else none
  | 1 =>
    match wbits w 48 2 with
    | 0 => if wbits w 0 29 ≠ 0 then none else
      match modeOfCode (wbits w 31 3), sparsityOfCode (wbits w 29 2) with
      | some m, some sp => some (.muLoad (BitVec.ofNat 2 (wbits w 46 2)) (BitVec.ofNat 12 (wbits w 34 12)) m sp)
      | _, _ => none
    | 1 => if wbits w 0 22 ≠ 0 ∨ (wbits w 28 1 = 1 ∧ 16 ≤ wbits w 22 6) then none else
      some (.muStream (BitVec.ofNat 2 (wbits w 46 2)) (BitVec.ofNat 12 (wbits w 34 12)) (BitVec.ofNat 5 (wbits w 29 5)) (decide (wbits w 28 1 = 1))
        (BitVec.ofNat 6 (wbits w 22 6)))
    | _ => none
  | 2 => if wbits w 0 12 ≠ 0 then none else
    some (.drain (BitVec.ofNat 5 (wbits w 45 5)) (BitVec.ofNat 5 (wbits w 40 5)) (BitVec.ofNat 4 (wbits w 36 4)) (BitVec.ofNat 4 (wbits w 32 4))
      (BitVec.ofNat 6 (wbits w 26 6)) (BitVec.ofNat 2 (wbits w 24 2)) (BitVec.ofNat 12 (wbits w 12 12)))
  | 3 => if vuFieldsOk (wbits w 44 6) (wbits w 40 4) (wbits w 36 4) then
      some (.vu (BitVec.ofNat 6 (wbits w 44 6)) (BitVec.ofNat 4 (wbits w 40 4)) (BitVec.ofNat 4 (wbits w 36 4))
        { srcBank := BitVec.ofNat 2 (wbits w 34 2), srcAddr := BitVec.ofNat 12 (wbits w 22 12), dstBank := BitVec.ofNat 2 (wbits w 20 2),
          dstAddr := BitVec.ofNat 12 (wbits w 8 12), len := BitVec.ofNat 8 (wbits w 0 8) })
    else none
  | 4 => if wbits w 0 8 ≠ 0 then none else
    some (.sram (decide (wbits w 49 1 = 1)) (BitVec.ofNat 16 (wbits w 33 16)) (BitVec.ofNat 2 (wbits w 31 2)) (BitVec.ofNat 12 (wbits w 19 12))
      (BitVec.ofNat 11 (wbits w 8 11)))
  | 5 => if wbits w 0 29 ≠ 0 then none else
    match routeSrcOfCode (wbits w 47 3), routeSrcOfCode (wbits w 44 3), routeSrcOfCode (wbits w 41 3), routeSrcOfCode (wbits w 38 3),
      routeSrcOfCode (wbits w 35 3) with
    | some n, some e, some s, some v, some o => some (.route n e s v o (BitVec.ofNat 6 (wbits w 29 6)))
    | _, _, _, _, _ => none
  | 6 => if wbits w 0 11 ≠ 0 then none else
    some (.queue (decide (wbits w 49 1 = 1)) (BitVec.ofNat 8 (wbits w 41 8)) (BitVec.ofNat 2 (wbits w 39 2)) (BitVec.ofNat 12 (wbits w 27 12))
      (BitVec.ofNat 16 (wbits w 11 16)))
  | 7 => if wbits w 0 30 ≠ 0 then none else some (.counter (Fin.ofNat 16 (wbits w 46 4)) (BitVec.ofNat 16 (wbits w 30 16)))
  | 8 => if wbits w 0 27 ≠ 0 ∨ (wbits w 43 1 = 1 ∧ 16 ≤ wbits w 27 16) then none else
    some (.loop (BitVec.ofNat 6 (wbits w 44 6)) (decide (wbits w 43 1 = 1)) (BitVec.ofNat 16 (wbits w 27 16)))
  | 9 => if wbits w 0 50 = 0 then some .endWord else none
  | _ => none

/-- Code of a mode in Table 2.2 order. -/
def modeCode : MuMode → Nat
  | .f8 => 0 | .i8 => 1 | .mx8 => 2 | .mxi8 => 3 | .mx4 => 4 | .bf => 5 | .t2 => 6

/-- Code of a weight structure. -/
def sparsityCode : Sparsity → Nat
  | .dense => 0 | .twoFour => 1 | .oneFour => 2

/-- Code of a ROUTE source. -/
def routeSrcCode : RouteSrc → Nat
  | .none => 0 | .side .north => 1 | .side .east => 2 | .side .south => 3 | .side .west => 4 | .tile => 5

/-- One when `b` holds. -/
def bit1 (b : Bool) : Nat := if b then 1 else 0

/-- The operation bits [53:0] of a schedule word, from Table 3.6. -/
def SchedOp.bits : SchedOp → Nat
  | .nop => 0
  | .muLoad bank addr m sp => 1 * 2 ^ 50 + bank.toNat * 2 ^ 46 + addr.toNat * 2 ^ 34 + modeCode m * 2 ^ 31 + sparsityCode sp * 2 ^ 29
  | .muStream bank addr block fromReg rows => 1 * 2 ^ 50 + 1 * 2 ^ 48 + bank.toNat * 2 ^ 46 + addr.toNat * 2 ^ 34 + block.toNat * 2 ^ 29 +
      bit1 fromReg * 2 ^ 28 + rows.toNat * 2 ^ 22
  | .drain first blocks fmt steps fn bank addr => 2 * 2 ^ 50 + first.toNat * 2 ^ 45 + blocks.toNat * 2 ^ 40 + fmt.toNat * 2 ^ 36 +
      steps.toNat * 2 ^ 32 + fn.toNat * 2 ^ 26 + bank.toNat * 2 ^ 24 + addr.toNat * 2 ^ 12
  | .vu code a b v => 3 * 2 ^ 50 + code.toNat * 2 ^ 44 + a.toNat * 2 ^ 40 + b.toNat * 2 ^ 36 + v.srcBank.toNat * 2 ^ 34 + v.srcAddr.toNat * 2 ^ 22 +
      v.dstBank.toNat * 2 ^ 20 + v.dstAddr.toNat * 2 ^ 8 + v.len.toNat
  | .sram write column bank addr len => 4 * 2 ^ 50 + bit1 write * 2 ^ 49 + column.toNat * 2 ^ 33 + bank.toNat * 2 ^ 31 + addr.toNat * 2 ^ 19 +
      len.toNat * 2 ^ 8
  | .route n e s w own r => 5 * 2 ^ 50 + routeSrcCode n * 2 ^ 47 + routeSrcCode e * 2 ^ 44 + routeSrcCode s * 2 ^ 41 + routeSrcCode w * 2 ^ 38 +
      routeSrcCode own * 2 ^ 35 + r.toNat * 2 ^ 29
  | .queue pop qid bank addr n => 6 * 2 ^ 50 + bit1 pop * 2 ^ 49 + qid.toNat * 2 ^ 41 + bank.toNat * 2 ^ 39 + addr.toNat * 2 ^ 27 + n.toNat * 2 ^ 11
  | .counter reg inc => 7 * 2 ^ 50 + reg.val * 2 ^ 46 + inc.toNat * 2 ^ 30
  | .loop n fromReg count => 8 * 2 ^ 50 + n.toNat * 2 ^ 44 + bit1 fromReg * 2 ^ 43 + count.toNat * 2 ^ 27
  | .endWord => 9 * 2 ^ 50

/-- The schedule word of an operation after a wait. -/
def schedWord (wait : BitVec 10) (o : SchedOp) : BitVec 64 := BitVec.ofNat 64 (wait.toNat * 2 ^ 54 + o.bits)

/-- An operation that a schedule word can spell. -/
def SchedOp.wf : SchedOp → Bool
  | .muStream _ _ _ fromReg rows => !fromReg || decide (rows.toNat < 16)
  | .vu code a b _ => vuFieldsOk code.toNat a.toNat b.toNat
  | .loop _ fromReg count => !fromReg || decide (count.toNat < 16)
  | _ => true

/-- What must differ between words of one cycle: the unit, and for the matrix unit load and stream (R104). -/
def SchedOp.unit : SchedOp → Nat
  | .nop => 0 | .muLoad .. => 16 | .muStream .. => 17 | .drain .. => 2 | .vu .. => 3 | .sram .. => 4 | .route .. => 5 | .queue .. => 6
  | .counter .. => 7 | .loop .. => 8 | .endWord => 9

/-! ### Slot images in schedule memory (Table 3.5) -/

/-- Phrase-table entry `i` of slot `k` (R100): first word, base length, cycles per iteration, the register of c. -/
def phraseEntry (m : Memory) (k i : Nat) : Nat × Nat × Nat × Nat :=
  let w := (Memory.word64 m (32768 * k + 0x40 + 8 * i)).toNat
  (wbits w 52 12, wbits w 32 20, wbits w 16 16, wbits w 12 4)

/-- Link-slot map of output `o` of slot `k`, in the order N, E, S, W (Table 3.5). -/
def slotLinkMap (m : Memory) (k o : Nat) : BitVec 64 := Memory.word64 m (32768 * k + 0x100 + 8 * o)

namespace State

/-- A tile's issue registers after a word of unit `u` and wait `n` has issued (R104). -/
def issued (s : State) (t u n : Nat) : State :=
  s.modTile t fun x => { x with core := { x.core with
    pc := x.core.pc + 1, cyc := x.core.cyc + n, used := (if n = 0 then x.core.used else []) ++ [u] } }

/-- Some input register of a tile held a flit when another came, before cycle `cyc`: no word took the first one in time (R106). A flit along a row is there
2 cycles after its logical count (R123). -/
def overwritten (x : Tile) (cyc : Nat) : Bool :=
  x.net.inq.any fun q => match q.2 with
    | _ :: e :: _ => decide (e.1 + (if q.1 % 2 = 1 then 2 else 0) < cyc)
    | _ => false

/-- Tile `t` issues its next schedule word, of the kind that `f` picks: the word issues exactly its wait after the previous one; a
reserved unit, value or bit, and two words for one unit in a cycle, raise UNIT_FAULT (R101, R104, Table 3.16), an input register overwritten since the last
word OVERFLOW_FAULT (R106). A word of another kind stays to be issued. A parity error in schedule memory is recorded, taints the step and raises no such
fault (R83, R141); DESIGN CHOICE: where the damaged word has no legal operation it only waits (log entry 171). -/
def issueWord (s : State) (t : Nat) (f : SchedOp → Option (State → State)) : State :=
  if !s.issues t then s
  else
    let w := s.fetch t
    let x := (s.tile t).core
    let a := wordByte (s.runSlot t) x.pc / 4
    let bad := (s.tile t).mem.damaged .sched a 2
    let cyc := x.cyc + schedWait w
    match decodeSched w with
    | none => if bad then (s.consume t .sched a 2).issued t 0 (schedWait w) else s.arrayFaultAt t cyc .unit
    | some o =>
      match f o with
      | none => s
      | some body =>
        let s1 := s.consume t .sched a 2
        if schedWait w = 0 && x.used.contains o.unit then (if bad then s1.issued t 0 0 else s1.arrayFault t .unit)
        else if overwritten (s.tile t) cyc then (s1.issued t o.unit (schedWait w)).arrayFault t .overflow
        else body (s1.issued t o.unit (schedWait w))

end State

namespace State

/-- Byte of every column of basin `b` where the image that slot `k` was filled from lies in the cut store (R90). -/
def slotStore (s : State) (b k : Nat) : Nat := (s.shareRange b ((s.basin b).slot k).ctx.toNat).1 + 32768 * ((s.basin b).slot k).place

/-- Slot `k` of a tile is loaded again from the tile's cut-store share (R141). A word there that fails its re-read too is recorded for its chunk's
reload, and the slot waits (Table 6.10). -/
def reloadSlot (s : State) (t k : Nat) : State :=
  let a := s.slotStore (tileBasin t) k
  s.modTile t fun x =>
    let stored := fun (e : ParErr) => e.space == .column && decide (a / 4 ≤ e.word) && decide (e.word < a / 4 + 8192)
    if x.mem.parity.any fun e => stored e && !e.transient then
      { x with mem := { x.mem with parity := x.mem.parity.map fun e => if stored e then { e with seen := true } else e } }
    else
      let mine := fun (e : ParErr) => e.space == .sched && decide (8192 * k ≤ e.word) && decide (e.word < 8192 * k + 8192)
      { x with mem := { x.mem with
        sched := Memory.write x.mem.sched (32768 * k) (Memory.read x.mem.column a 32768),
        parity := x.mem.parity.filter fun e => !mine e && !stored e } }

end State

/-! ### Rings (R148-R152) -/

/-- Tiles Q of a ring (R149). -/
def ringSize (r : Ring) : Nat := if r.shape = 0 then 1 else max 1 r.h * max 1 r.w

/-- Position in the cycle of a ROW_CYCLE ring of h rows and w columns (Table 4.2): east along the top row, a serpentine through rows 1
to h - 1 over columns 1 to w - 1 that begins westward, and north along column 0. -/
def rowCyclePos (h w r c : Nat) : Nat :=
  if r = 0 then c
  else if c = 0 then w + (h - 1) * (w - 1) + (h - 1 - r)
  else w + (r - 1) * (w - 1) + (if r % 2 = 1 then w - 1 - c else c - 1)

/-- Position of a tile of a ring, by its row and column in the ring (R149). -/
def ringPos (g : Ring) (r c : Nat) : Nat :=
  if g.shape = 1 then rowCyclePos g.h g.w r c else if g.shape = 2 then rowCyclePos g.w g.h c r else 0

/-- The lane of the ring that holds a logical position of a pound (R148, R157). DESIGN CHOICE: the rings of a pound are numbered row by row
(log entry 15). -/
def laneOf (d : PoundDef) (home r c : Nat) : Nat :=
  let row := r - (4 * home + d.top)
  let col := c - d.left
  let h := max 1 d.ring.h
  let w := max 1 d.ring.w
  if d.ring.rings ≤ 1 then 0 else row / h * (d.width / w) + col / w

/-- Position in its ring of a logical position of a pound. -/
def posOf (d : PoundDef) (home r c : Nat) : Nat :=
  ringPos d.ring ((r - (4 * home + d.top)) % max 1 d.ring.h) ((c - d.left) % max 1 d.ring.w)

/-- Rounds of a rotation: ceil(s x KU / Q) (R151). -/
def PhrasePlan.rounds (p : PhrasePlan) (q : Nat) : Nat := (p.s * p.ku + q - 1) / max 1 q

/-- The unit that position `p` applies in beat `j` of round `r` (R152). -/
def unitAt (q p r j : Nat) : Nat := r * q + (p + q - j % max 1 q) % max 1 q

/-- Byte in the static region where its home stores unit `u` of segment `sg` (R151). -/
def unitAddr (g : Ring) (p : PhrasePlan) (sg u : Nat) : Nat :=
  g.staticBase + (sg * p.rounds (ringSize g) + u / ringSize g) * p.unitBytes

/-- Where a phrase's cycle stands: rotation (or row-group iteration), round and beat; none in the fill and in cycles after the last beat of
an iteration of `per` cycles (R152, R154, R159). -/
def beatAt (p : PhrasePlan) (q per cyc : Nat) : Option (Nat × Nat × Nat) :=
  if cyc < p.fill then none
  else
    let n := (cyc - p.fill) / max 1 per
    let k := (cyc - p.fill) % max 1 per / max 1 p.beat
    if k < p.rounds q * q then some (n, k / max 1 q, k % max 1 q) else none

/-- Rotations that each segment takes: ceil(G / Q) (R164). -/
def passesOf (q groups : Nat) : Nat := (groups + q - 1) / max 1 q

namespace State

/-- Lane and ring position of a tile in its pound. -/
def ringPlace (s : State) (t : Nat) (hp : Nat × Nat) : Nat × Nat :=
  let d := ((s.basin hp.1).pound hp.2).pdef
  match s.position t with
  | some x => (laneOf d hp.1 x.1 x.2, posOf d hp.1 x.1 x.2)
  | none => (0, 0)

/-- The unit that a tile reads from its own store in a cycle of its phrase: in the fill and in beat 0 of a round its own, with the segment of the rotation
(R151, R152, R154); none in a later beat. -/
def ownUnit (p : Pound) (pos per groups cyc : Nat) : Option (Nat × Nat) :=
  let q := ringSize p.pdef.ring
  let at_ := if cyc < p.plan.fill then some (0, 0, 0) else beatAt p.plan q per cyc
  match at_ with
  | some (n, r, 0) => some (if p.pdef.ring.shape = 0 then 0 else n / max 1 (passesOf q groups), unitAt q pos r 0)
  | _ => none

/-- The tile's beat is that of a null unit, in which the array idles (R152). -/
def nullBeat (s : State) (t : Nat) : Bool :=
  match s.poundOf t with
  | none => false
  | some hp =>
    let p := (s.basin hp.1).pound hp.2
    let q := ringSize p.pdef.ring
    match p.phrase with
    | none => false
    | some ph =>
      let per := (phraseEntry (s.tile t).mem.sched (s.runSlot t) ph.phrase).2.2.1
      match beatAt p.plan q per (s.tile t).core.cyc with
      | some k => p.pdef.ring.shape != 0 && decide (p.plan.s * p.plan.ku ≤ unitAt q (s.ringPlace t hp).2 k.2.1 k.2.2)
      | none => false

end State

/-! ### Row groups (R144-R147) -/

/-- rows_i of row group i (R145). -/
def groupRows (g rows i : Nat) : Nat := min (32 * g) (rows - 32 * g * i)

/-- The row block b of an accumulator block b x s + t (R146). DEDUCED: with g x s at most 16 the drain of one operation runs beside the next one
(R147), so that accumulator blocks 16 to 31 serve as a second set (log entry 16). -/
def rowBlockOf (g s block : Nat) : Nat := (if g * s ≤ 16 then block % 16 else block) / max 1 s

/-- The strip t of an accumulator block (R146). -/
def stripOf (g s block : Nat) : Nat := (if g * s ≤ 16 then block % 16 else block) % max 1 s

/-- Rows of the row group that a STATIONARY tile is at (R154). -/
def State.iterRows (s : State) (hp : Nat × Nat) (iters : Nat) : Nat :=
  let p := (s.basin hp.1).pound hp.2
  groupRows p.pdef.ring.g (s.phraseRows hp.1 p) iters

/-- Place among the operations of a STATIONARY tile that have not drained of the one that block set `z` serves, and the sets with it: a set that serves
none takes the next operation (R147). -/
def setPlace (sets : List Nat) (z : Nat) : Nat × List Nat :=
  match sets.idxOf? z with
  | some i => (i, sets)
  | none => (sets.length, sets ++ [z])

/-- The block set of an accumulator block: 0 or 1 where g x s is at most 16, else the one set (R147; log entry 16). -/
def setOf (g s block : Nat) : Nat := if g * s ≤ 16 then block / 16 else 0

/-- Row group of the tile operation that a tile drains, and its valid rows: the oldest claim of a ring pound, the iteration of a
STATIONARY one; none outside a pound, and where nothing is claimed. -/
def State.drainGroup (s : State) (t : Nat) : Option (Nat × Nat) :=
  match s.poundOf t with
  | none => none
  | some hp =>
    let x := (s.tile t).core
    if ((s.basin hp.1).pound hp.2).pdef.ring.shape = 0 then some (x.iters, s.iterRows hp x.iters)
    else x.ops.head?.map fun o => (o.group, o.rows)

/-! ### Claims (R157-R159) -/

/-- The rotation for which a claim at this cycle counts: the first in the phrase's fill, rotation n + 1 in the first beat of rotation n; none
in any other beat and in the last rotation (R159). -/
def claimFor (p : PhrasePlan) (q per c cyc : Nat) : Option Nat :=
  if cyc < p.fill then (if 0 < c then some 0 else none)
  else match beatAt p q per cyc with
    | some (n, 0, 0) => if n + 1 < c then some (n + 1) else none
    | _ => none

/-- The lanes of a pound as a claim of segment `sg` finds them: all at 0 once a later segment begins (R157). -/
def Pound.lanesFor (p : Pound) (sg : Nat) : Tbl Nat := if p.laneSeg < sg then [] else p.lanes

end Sys2Proof.Machine
end

