-- ==== Sys2Proof/Machine/Sluice.lean ====
section
/-! DEFINITION. The sluice (chapter 05): routing pass, dispatch, mooring pass, combine; and the other collectives of a
step (R387, R388). Numbers are FP32 words, each operation rounded once (R182). -/

namespace Sys2Proof.Machine

/-! ### Scores and selection (R182-R185) -/

/-- FP32 sum, rounded once. -/
def add32w (a b : BitVec 32) : BitVec 32 := (lane32 FVal.add a b).1
/-- FP32 product, rounded once. -/
def mul32w (a b : BitVec 32) : BitVec 32 := (lane32 FVal.mul a b).1
/-- FP32 value negated. -/
def neg32w (a : BitVec 32) : BitVec 32 := a ^^^ 0x80000000#32
/-- A sum in ascending index, each addition rounded. -/
def sum32w (l : List (BitVec 32)) : BitVec 32 := l.foldl add32w 0#32
/-- FP32 one. -/
def one32 : BitVec 32 := 0x3F800000#32

/-- Largest of a list of FP32 words. -/
def max32w (l : List (BitVec 32)) : BitVec 32 :=
  match l with
  | [] => 0#32
  | x :: xs => xs.foldl (fun a b => (lane32 FVal.max2 a b).1) x

/-- Scores of Table 5.2. -/
def scores (fn : Nat) (x : List (BitVec 32)) : List (BitVec 32) :=
  match fn with
  | 0 =>
    let m := max32w x
    let e := x.map fun v => (fnExp (add32w v (neg32w m))).1
    let inv := (fnRcp (sum32w e)).1
    e.map fun v => mul32w v inv
  | 1 => x.map fun v => (fnRcp (add32w one32 (fnExp (neg32w v)).1)).1
  | _ => x

/-- What the routing pass finds for one token: the selected experts in ascending index with their gates, and whether the
normalization sum was +0; none when a logit is a NaN (R182-R185). -/
def selectExperts (r : RouteRec) (x : List (BitVec 32)) : Option (List (Nat × BitVec 32) × Bool) :=
  if x.any fun w => (dec32 w).1.isNan then none
  else
    let s := scores r.score (x.take r.experts)
    let keys := if r.bias then (s.zip r.biases).map fun p => add32w p.1 p.2 else s
    let top := topK r.k (keys.map fun w => (dec32 w).1)
    let sel := (List.range r.experts).filter fun e => top.contains e
    let sc := sel.map fun e => (s[e]?).getD 0#32
    if r.normalize then
      let total := sum32w sc
      if total = 0#32 then some (sel.map fun e => (e, 0#32), true)
      else
        let inv := (fnRcp total).1
        some (sel.zip (sc.map fun g => mul32w (mul32w g inv) r.gateScale), false)
    else some (sel.zip (sc.map fun g => mul32w g r.gateScale), false)

/-- A row in dispatch_fmt: MX formats as blocks of 32 elements with their scales after the elements, the others element by element
(R49, R64, R191). -/
def rowBytes (f : Fmt) (ws : List (BitVec 32)) : List Byte :=
  let vs := ws.map fun w => (dec32 w).1
  match f with
  | .e3m2 | .e2m3 | .e2m1 | .mxi =>
    let blocks := (List.range ((vs.length + 31) / 32)).map fun i => mxBlock f ((vs.drop (32 * i)).take 32)
    packCodes f (blocks.flatMap (·.2)) ++ blocks.map fun b => BitVec.ofNat 8 b.1
  | _ => packCodes f (vs.map fun v => (fmtEncode f (-127) v).1)

/-- The dispatch record of a token for a peer, when the token selected an expert of it (R188, Table 5.4). DESIGN CHOICE: a dispatch_fmt that Table 2.4 does
not list is taken as FP32 (log entry 182). -/
def dispatchRec (r : RouteRec) (peer : Nat) (tok : RouteTok) (sel : List (Nat × BitVec 32)) : Option DispatchRec :=
  let mine := sel.filter fun e => e.1 / r.local_ == peer
  if mine.isEmpty then none
  else some { tag := tok.tag, mask := BitVec.ofNat 16 (mine.foldl (fun a e => a + 2 ^ (e.1 % r.local_)) 0),
              gates := mine.map (·.2), row := rowBytes ((fmtOfCode r.dispatchFmt).getD .fp32) tok.row }

/-- Bits set in a mask of 16. -/
def maskSlots (m : BitVec 16) : List Nat := (List.range 16).filter fun i => m.getLsbD i

/-! ### Route steps -/

/-- Messages of a route and step before any has come. -/
def RouteStep.fresh (c r st : Nat) : RouteStep :=
  { ctx := c, route := r, step := st, routed := false, rowBad := [], areaBad := [], sent := [], got := [], moored := false, table := [], area := [], admitted := [],
    droppedR := [], fan := [], fanned := [], combined := [], combineSent := false, contrib := [], complete := false }

/-- This is the record of context `c`, route `r` and step `st`. -/
def RouteStep.is (x : RouteStep) (c r st : Nat) : Bool := x.ctx == c && x.route == r && x.step == st

/-- The record of a route and step. -/
def Basin.routeStep (x : Basin) (c r st : Nat) : RouteStep :=
  (x.sluice.steps.find? fun k => k.is c r st).getD (RouteStep.fresh c r st)

/-- The record of a route and step replaced. -/
def Basin.setRouteStep (x : Basin) (k : RouteStep) : Basin :=
  { x with sluice := { x.sluice with steps := (x.sluice.steps.filter fun y => !y.is k.ctx k.route k.step) ++ [k] } }

/-- Route record of a context. -/
def Basin.route (x : Basin) (c r : Nat) : RouteRec := Tbl.get RouteRec.fresh r (x.ctx c).routes

/-- A route is current in a context that runs (R178, R192). -/
def Basin.routeCurrent (x : Basin) (c r : Nat) : Bool := decide (x.running = some c) && decide (0 < (x.route c r).experts)

/-- The pound of basin `b` that runs the layer of a route (R181). -/
def State.routePound (s : State) (b c r : Nat) : Option Nat :=
  let l := ((s.basin b).route c r).layer
  (List.range 16).find? fun p =>
    let q := (s.basin b).pound p
    decide (0 < q.pdef.height) && q.ctx == c && decide (q.pdef.firstLayer ≤ l) && decide (l < q.pdef.firstLayer + q.pdef.layers)

/-- A fault that the sluice raises for a route (R192, R211): at the route's pound, or at the basin's first tile. -/
def State.sluiceFault (s : State) (b c r : Nat) (f : ArrayFault) : State :=
  match s.routePound b c r with
  | some p => s.poundFault b p f
  | none => s.arrayFault (136 * b) f

/-- The step that the route's pound is in. -/
def State.routeStepNow (s : State) (b c r : Nat) : Nat :=
  match s.routePound b c r with
  | some p => ((s.basin b).pound p).step
  | none => 0

/-- The sluice holds a message of this route and step: the step its pound is in or the next (R192). -/
def State.stepHeld (s : State) (b c r st : Nat) : Bool :=
  let now := (s.routeStepNow b c r) % 2 ^ 32
  decide (st = now) || decide (st = (now + 1) % 2 ^ 32)

/-- Mooring capacity in effect (R193). -/
def State.capacity (s : State) (b c : Nat) : Nat :=
  let cap := ((s.basin b).cap c).toNat
  let mx := (((s.basin b).activeShare).map (·.maxExpert)).getD 0
  if cap = 0 ∨ mx < cap then mx else cap

/-- Bytes padded with zeros to a multiple of 16. -/
def pad16 (l : List Byte) : List Byte := l ++ List.replicate ((16 - l.length % 16) % 16) 0#8

/-- The bytes of a dispatch record: header, gates of the selected slots, row (R191, Table 5.4). -/
def recBytesOf (r : DispatchRec) : List Byte :=
  pad16 (natLe 2 r.tag.toNat ++ natLe 2 r.mask.toNat ++ natLe 4 0 ++
    (r.gates.take (maskSlots r.mask).length).flatMap fun g => natLe 4 g.toNat) ++ pad16 r.row

/-- Bytes that a dispatch record takes (R191). -/
def recBytes (r : DispatchRec) : Nat := (recBytesOf r).length

/-- Bytes of the mooring table area that the plan declares (Table 4.6, kind 4); none when it declares none. -/
def State.mooringArea (s : State) (b : Nat) : Option Nat :=
  ((s.basin b).activeShare).bind fun h => (h.buffers.find? fun x => x.1 == 4).map (·.2.2)

/-- The dispatch buffers of a route, with the records `got` of step `st`, exceed the area that the plan declares; the buffers of both steps that
the sluice holds count, and the device's own records with them (R189, R192, R211). DESIGN CHOICE: Table 4.6 has no buffer of its own for them,
so the mooring table area of kind 4 bounds them (log entry 17). -/
def State.bufferFull (s : State) (b c r st : Nat) (got : List (Nat × A2AHdr × List DispatchRec)) : Bool :=
  let size := fun (g : List (Nat × A2AHdr × List DispatchRec)) => ((g.flatMap fun m => m.2.2).map recBytes).foldl (· + ·) 0
  let other := ((s.basin b).sluice.steps.filter fun k => k.ctx == c && k.route == r && k.step != st).map fun k => size k.got
  match s.mooringArea b with
  | some area => decide (area < size got + other.foldl (· + ·) 0)
  | none => false

/-- An all-to-all header (Table 5.3). -/
def a2aHdr (kind route source step records pairs dropped : Nat) : A2AHdr :=
  { kind := BitVec.ofNat 8 kind, route := BitVec.ofNat 8 route, source := BitVec.ofNat 16 source,
    step := BitVec.ofNat 32 step, records := BitVec.ofNat 16 records, pairs := BitVec.ofNat 16 pairs,
    dropped := BitVec.ofNat 16 dropped }

/-! ### Routing pass (R182, R188-R190) -/

/-- The routing pass of a step: one dispatch message to every peer, the device's own records to its own mooring pass under the same
rules (R189). A pass that reads a damaged word of its intake leaves nothing and is repeated from its inputs; one whose own rows in the dispatch buffer met a
parity error is repeated too, and sends and counts nothing again (R204). -/
def routingPass (b c r : Nat) (st : Nat) (toks : List RouteTok) (s : State) : State :=
  let x := s.basin b
  let rr := x.route c r
  let k := x.routeStep c r st
  let mineBad := k.rowBad.any fun w => w.1 == rr.self
  let intake := fun (w : Nat × Nat × Nat) => w.1 == c && w.2.1 == st
  if !x.routeCurrent c r || (k.routed && !mineBad) then s
  else if !k.routed && x.sluice.intake.any intake then
    s.modBasin b fun y => { y with sluice := { y.sluice with intake := y.sluice.intake.filter fun w => !intake w } }
  else
    let sel := toks.map fun t => (t, selectExperts rr t.logits)
    let nan := (sel.filter fun p => p.2.isNone).length
    let deg := (sel.filter fun p => match p.2 with | some q => q.2 | none => false).length
    let recsFor := fun p => sel.filterMap fun q => q.2.bind fun y => dispatchRec rr p q.1 y.1
    let hdr := fun (recs : List DispatchRec) =>
      a2aHdr 1 r rr.self st recs.length ((recs.map fun d => (maskSlots d.mask).length).foldl (· + ·) 0) 0
    let peers := List.range rr.peers
    let msgs := peers.map fun p => (p, recsFor p)
    let own := recsFor rr.self
    let got := (k.got.filter fun g => g.1 != rr.self) ++ [(rr.self, hdr own, own)]
    let k' : RouteStep := { k with routed := true, sent := msgs, got := got, rowBad := k.rowBad.filter fun w => w.1 != rr.self }
    if k.routed then s.modBasin b fun y => y.setRouteStep k'
    else if s.bufferFull b c r st got then s.sluiceFault b c r .overflow
    else
    let s1 := s.modBasin b fun y =>
      let y1 := (y.setRouteStep k').chargeSluice c 2 nan
      let y2 := y1.chargeSluice c 3 deg
      { y2 with sluice := { y2.sluice with nanTok := satAdd y2.sluice.nanTok nan, degen := satAdd y2.sluice.degen deg } }
    let s2 := peers.foldl (fun u p => if p = rr.self then u else
      u.send b (.member x.sliceId.toNat ((rr.peerOrd[p]?).getD 0)) (.dispatch c (hdr (recsFor p)) (recsFor p))) s1
    s2.record b 5 (BitVec.ofNat 8 c) (data48 r ((msgs.map fun m => (hdr m.2).pairs.toNat).foldl (· + ·) 0) 0)

/-- ROUTING_PASS. -/
def execRoutingPass (b : BasinId) (c : CtxId) (route : BitVec 5) (step : BitVec 32) (toks : List RouteTok) (s : State) :
    Host.Outcome State Fault Refusal := .next (routingPass b c route.toNat step.toNat toks s)

/-! ### Dispatch (R190, R192) -/

/-- A dispatch message arrives: of a foreign epoch EPOCH_FAULT, for another step or route UNIT_FAULT, beyond the declared
buffer OVERFLOW_FAULT, each discarded; else it is held, once for each peer (R192, R211). -/
def dispatchMsg (b c : Nat) (h : A2AHdr) (epoch : BitVec 2) (recs : List DispatchRec) (s : State) : State :=
  let x := s.basin b
  let r := h.route.toNat
  let st := h.step.toNat
  let k := x.routeStep c r st
  if epoch ≠ x.cut.epoch then s.sluiceFault b c r .epoch
  else if h.kind ≠ 1 || !x.routeCurrent c r || !s.stepHeld b c r st then s.sluiceFault b c r .unit
  else if k.got.any fun g => g.1 == h.source.toNat then s
  else
    let got := k.got ++ [(h.source.toNat, h, recs)]
    if s.bufferFull b c r st got then s.sluiceFault b c r .overflow
    else s.modBasin b fun y => y.setRouteStep { k with got := got }

/-- DISPATCH. -/
def execDispatch (b : BasinId) (c : CtxId) (h : A2AHdr) (epoch : BitVec 2) (recs : List DispatchRec) (s : State) :
    Host.Outcome State Fault Refusal := .next (dispatchMsg b c h epoch recs s)

/-! ### Combine messages sent (R205, R206) -/

/-- Values FMA'd into a fan-in row from column `col`, gate x value + sum rounded once each (R205), and what they count. -/
def fanAdd (row : List (BitVec 32)) (col : Nat) (gate : BitVec 32) (ys : List (BitVec 32)) : List (BitVec 32) × Ev :=
  let padded := row ++ List.replicate (col + ys.length - row.length) 0#32
  let new := (ys.zip (padded.drop col)).map fun p => fma32Lane gate p.1 p.2
  (padded.take col ++ new.map (·.1) ++ padded.drop (col + ys.length), Ev.total (new.map (·.2)))

/-- A record's row of the dispatch buffer: records in ascending peer index, in each peer's order (R200; log entry 26). -/
def dispatchRows (k : RouteStep) (peers : Nat) : List (Nat × Nat × DispatchRec) :=
  let l := (List.range peers).flatMap fun p =>
    (((k.got.find? fun g => g.1 == p).map (·.2.2)).getD []).map fun d => (p, d)
  l.zip (List.range l.length) |>.map fun x => (x.2, x.1.1, x.1.2)

/-- A fan-in sum narrowed once to combine_fmt, as an FP32 word: a NaN becomes that of Table 2.7, and both it and a saturation count as
those of any drain (R205, R206). DESIGN CHOICE: every combine_fmt but BF16 leaves the FP32 sum (log entry 183). -/
def combineNarrow (fmt : Nat) (w : BitVec 32) : BitVec 32 × Ev :=
  match (dec32 w).1 with
  | .nan => (0x7FC00000#32, { Ev.zero with nanOut := 1 })
  | .fin n m e => if fmt = 7 then let r := enc16 (.fin n m e); (r.1 ++ 0#16, { Ev.zero with narrow := r.2.arith }) else (w, Ev.zero)

/-- Columns [col, col + n) of a fan-in row narrowed. -/
def fanNarrow (fmt : Nat) (row : List (BitVec 32)) (col n : Nat) : List (BitVec 32) × Ev :=
  let new := ((row.drop col).take n).map (combineNarrow fmt)
  (row.take col ++ new.map (·.1) ++ row.drop (col + n), Ev.total (new.map (·.2)))

/-- The combine record for one dispatch record. -/
def combineRec (k : RouteStep) (row : Nat) (d : DispatchRec) : CombineRec :=
  let slots := maskSlots d.mask
  let app := slots.filter fun sl => (((k.admitted.find? fun e => e.1 == sl).map (·.2)).getD []).any fun e => e.1 == row
  let drp := slots.filter fun sl => !app.contains sl
  let bits := fun (l : List Nat) => BitVec.ofNat 16 (l.foldl (fun a i => a + 2 ^ i) 0)
  { tag := d.tag, applied := bits app, dropped := bits drp,
    row := if app.isEmpty then [] else ((k.fan.find? fun f => f.1 == row).map (·.2)).getD [] }

/-- Every peer that sent a dispatch message receives exactly one combine message; the device keeps its own (R206). -/
def sendCombine (b c r st : Nat) (s : State) : State :=
  let x := s.basin b
  let rr := x.route c r
  let k := x.routeStep c r st
  if k.combineSent || !k.moored then s
  else
    let rows := dispatchRows k rr.peers
    let recsFor := fun p => (rows.filter fun q => q.2.1 == p).map fun q => combineRec k q.1 q.2.2
    let cnt := fun (f : CombineRec → BitVec 16) (l : List CombineRec) =>
      (l.map fun d => (maskSlots (f d)).length).foldl (· + ·) 0
    let hdr := fun (l : List CombineRec) => a2aHdr 2 r rr.self st l.length (cnt (·.applied) l) (cnt (·.dropped) l)
    let own := recsFor rr.self
    let k' : RouteStep := { k with combineSent := true, combined := k.combined ++ [(rr.self, hdr own, own)] }
    let s1 := s.modBasin b fun y => y.setRouteStep k'
    (List.range rr.peers).foldl (fun u p => if p = rr.self then u else
      u.send b (.member x.sliceId.toNat ((rr.peerOrd[p]?).getD 0)) (.combine c (hdr (recsFor p)) (recsFor p))) s1

/-- Every entry with a non-zero count has had its last phrase drained. -/
def allFanned (k : RouteStep) : Bool := k.table.all fun e => e.2.1 == 0 || k.fanned.contains e.1

/-! ### Mooring pass (R193-R200, R203) -/

/-- The pairs of one local slot in the order of admission: by rank, then by source peer (R194). Each is (row, peer, rank,
gate). -/
def slotPairs (rows : List (Nat × Nat × DispatchRec)) (peers slot : Nat) : List (Nat × Nat × Nat × BitVec 32) :=
  let ofPeer := fun p =>
    let l := (rows.filter fun q => q.2.1 == p && q.2.2.mask.getLsbD slot).map fun q =>
      (q.1, p, ((q.2.2.gates)[((maskSlots q.2.2.mask).takeWhile (· != slot)).length]?).getD 0#32)
    (l.zip (List.range l.length)).map fun x => (x.1.1, x.1.2.1, x.2, x.1.2.2)
  let all := (List.range peers).flatMap ofPeer
  let depth := (all.map fun x => x.2.2.1 + 1).foldl max 0
  (List.range depth).flatMap fun rk => all.filter fun x => x.2.2.1 == rk

/-- The mooring table of a step as bytes (Tables 5.6 and 5.7), and after it the dispatch rows and the token lists (R199): each element holds row,
source peer and gate. DESIGN CHOICE: the token lists follow the rows of the dispatch buffer, slot by slot (log entry 17). -/
def mooringBytes (cutId r st cap : Nat) (rr : RouteRec) (rows : List (Nat × Nat × DispatchRec))
    (per : List (Nat × List (Nat × Nat × Nat × BitVec 32) × Nat)) : List Byte :=
  let stored := rows.flatMap fun q => pad16 q.2.2.row
  let sum := fun (f : Nat × List (Nat × Nat × Nat × BitVec 32) × Nat → Nat) (l : List (Nat × List (Nat × Nat × Nat × BitVec 32) × Nat)) =>
    (l.map f).foldl (· + ·) 0
  let header := natLe 4 0x524F4F4D ++ natLe 4 st ++ natLe 1 r ++ natLe 1 rr.local_ ++ natLe 2 rows.length ++ natLe 2 (sum (·.2.1.length) per) ++
    natLe 2 (sum (·.2.2) per) ++ natLe 2 cap ++ natLe 14 0
  let entry := fun (i : Nat) (e : Nat × List (Nat × Nat × Nat × BitVec 32) × Nat) =>
    natLe 2 (rr.self * rr.local_ + e.1) ++ natLe 1 e.1 ++ natLe 1 (bit1 (decide (0 < e.2.2))) ++ natLe 2 e.2.1.length ++ natLe 2 e.2.2 ++
      natLe 4 (stored.length + 8 * sum (·.2.1.length) (per.take i)) ++ natLe 4 (Config.expertSegment cutId r e.1) ++
      natLe 4 (Config.expertOutputs cutId r e.1) ++ natLe 12 0
  header ++ (per.mapIdx entry).flatten ++ stored ++
    per.flatMap fun e => e.2.1.flatMap fun q => natLe 2 q.1 ++ natLe 2 q.2.1 ++ natLe 4 q.2.2.2.toNat

/-- The mooring pass of a step, once every peer's header and records are held: admission up to the capacity, the table of
L entries, the drops and the empty entries counted (R194, R195, R198, R203, R210). -/
def mooringPass (b c r st : Nat) (s : State) : State :=
  let x := s.basin b
  let rr := x.route c r
  let k := x.routeStep c r st
  let whole := (List.range rr.peers).all fun p => k.got.any fun g => g.1 == p && g.2.1.records.toNat == g.2.2.length
  if !x.routeCurrent c r || (k.moored && k.areaBad.isEmpty) || !whole then s
  else
    let rows := dispatchRows k rr.peers
    let cap := s.capacity b c
    let per := (List.range rr.local_).map fun sl =>
      let l := slotPairs rows rr.peers sl
      (sl, l.take cap, l.drop cap)
    let dropped := (per.map fun e => e.2.2.length).foldl (· + ·) 0
    let empty := (per.filter fun e => e.2.1.isEmpty).length
    let table := per.map fun e => (e.1, e.2.1.length, e.2.2.length)
    let adm := per.map fun e => (e.1, e.2.1)
    let drp := per.flatMap fun e => e.2.2.map fun q => (q.2.1, q.1, e.1)
    let cutId := (((s.basin b).activeShare).map (·.cutId)).getD 0
    let k' : RouteStep := { k with moored := true, table := table, admitted := adm, droppedR := drp, areaBad := [],
                                   area := mooringBytes cutId r st cap rr rows (per.map fun e => (e.1, e.2.1, e.2.2.length)) }
    if k.moored then s.modBasin b fun y => y.setRouteStep k'
    else if match s.mooringArea b with | some n => decide (n < 32 + 32 * rr.local_) | none => false then s.sluiceFault b c r .overflow
    else
    let s1 := s.modBasin b fun y =>
      let y1 := ((y.setRouteStep k').chargeSluice c 0 dropped).chargeSluice c 1 empty
      let y2 := y1.modCtx c fun z => { z with skip := per.foldl (fun t e =>
        Tbl.mod 0#32 (16 * r + e.1) (fun v => satAdd v e.2.2.length) t) z.skip }
      { y2 with sluice := { y2.sluice with drops := satAdd y2.sluice.drops dropped, empty := satAdd y2.sluice.empty empty } }
    let s2 := s1.record b 5 (BitVec.ofNat 8 c) (data48 r ((per.map fun e => e.2.1.length).foldl (· + ·) 0) dropped)
    if allFanned k' then sendCombine b c r st s2 else s2

/-! ### Combine received (R206, R207) -/

/-- A combine message arrives; it is checked as a dispatch message is (R192, R211). -/
def combineMsg (b c : Nat) (h : A2AHdr) (epoch : BitVec 2) (recs : List CombineRec) (s : State) : State :=
  let x := s.basin b
  let r := h.route.toNat
  let st := h.step.toNat
  let k := x.routeStep c r st
  if epoch ≠ x.cut.epoch then s.sluiceFault b c r .epoch
  else if h.kind ≠ 2 || !x.routeCurrent c r || !s.stepHeld b c r st then s.sluiceFault b c r .unit
  else if k.combined.any fun g => g.1 == h.source.toNat then s
  else s.modBasin b fun y => y.setRouteStep { k with combined := k.combined ++ [(h.source.toNat, h, recs)] }

/-- COMBINE. -/
def execCombine (b : BasinId) (c : CtxId) (h : A2AHdr) (epoch : BitVec 2) (recs : List CombineRec) (s : State) :
    Host.Outcome State Fault Refusal := .next (combineMsg b c h epoch recs s)

/-- Rows added element by element, each addition rounded. -/
def addRows (a b : List (BitVec 32)) : List (BitVec 32) :=
  let n := max a.length b.length
  (List.range n).map fun i => add32w ((a[i]?).getD 0#32) ((b[i]?).getD 0#32)

/-- Every combine message of the step is held, the device's own fan-in among them (R207). -/
def combineWhole (k : RouteStep) (rr : RouteRec) : Bool :=
  (List.range rr.peers).all fun p => k.combined.any fun g => g.1 == p

/-- The routed contribution of each token: the own fan-in first, then each peer's in ascending index (R207). -/
def combineComplete (b c r st : Nat) (s : State) : State :=
  let x := s.basin b
  let rr := x.route c r
  let k := x.routeStep c r st
  if !k.routed || k.complete || !combineWhole k rr then s
  else
    let order := rr.self :: (List.range rr.peers).filter (· != rr.self)
    let tags := ((k.sent.flatMap fun m => m.2.map fun d => d.tag.toNat)).eraseDups
    let recsOf := fun p => ((k.combined.find? fun g => g.1 == p).map (·.2.2)).getD []
    let one := fun tag => order.foldl (fun a p =>
      match (recsOf p).find? fun d => d.tag.toNat == tag && d.applied != 0#16 with
      | some d => addRows a d.row
      | none => a) []
    s.modBasin b fun y => y.setRouteStep { k with complete := true, contrib := tags.map fun t => (t, one t) }

/-- COMBINE_COMPLETE. -/
def execCombineComplete (b : BasinId) (c : CtxId) (route : BitVec 5) (step : BitVec 32) (s : State) :
    Host.Outcome State Fault Refusal := .next (combineComplete b c route.toNat step.toNat s)

/-! ### Other collectives (R387, R388) -/

/-- The result of a collective once every expected sender's message is held: REDUCE adds in ascending sender index,
GATHER and HANDOFF put the segments in ascending sender index. -/
def collResult (kind : Nat) (parts : Tbl (List (BitVec 32))) : List (BitVec 32) :=
  if kind = 3 then
    match parts.map (·.2) with
    | [] => []
    | x :: xs => xs.foldl addRows x
  else parts.flatMap (·.2)

/-- One sender's part of a collective is held, once for each sender, in ascending index; with the last of the `expect`ed ones the collective is
complete (R387). -/
def Basin.addPart (x : Basin) (kind c : Nat) (h : A2AHdr) (values : List (BitVec 32)) (expect : Option Nat) : Basin :=
  let is := fun (k : Coll) => k.ctx == c && k.kind == kind && k.route == h.route.toNat && k.step == h.step.toNat
  let k := (x.sluice.colls.find? is).getD
    { ctx := c, kind := kind, route := h.route.toNat, step := h.step.toNat, parts := [], result := none }
  if k.parts.any fun e => e.1 == h.source.toNat then x
  else
    let before := k.parts.filter fun e => decide (e.1 < h.source.toNat)
    let after := k.parts.filter fun e => decide (h.source.toNat < e.1)
    let parts := before ++ (h.source.toNat, values) :: after
    let whole := match expect with | some n => decide (n ≤ parts.length) | none => false
    let k' := { k with parts := parts, result := if whole then some (collResult kind parts) else k.result }
    { x with sluice := { x.sluice with colls := (x.sluice.colls.filter fun q => !is q) ++ [k'] } }

/-- One message of a collective arrives; a foreign epoch is EPOCH_FAULT (R127, R387). -/
def collective (kind b c : Nat) (h : A2AHdr) (epoch : BitVec 2) (participants : Nat) (values : List (BitVec 32)) (s : State) :
    State :=
  if epoch ≠ (s.basin b).cut.epoch then s.sluiceFault b c h.route.toNat .epoch
  else if h.kind.toNat ≠ kind then s
  else s.modBasin b fun x => x.addPart kind c h values (some participants)

/-- REDUCE. -/
def execReduce (b : BasinId) (c : CtxId) (h : A2AHdr) (epoch : BitVec 2) (participants : Nat) (values : List (BitVec 32))
    (s : State) : Host.Outcome State Fault Refusal := .next (collective 3 b c h epoch participants values s)

/-- GATHER. -/
def execGather (b : BasinId) (c : CtxId) (h : A2AHdr) (epoch : BitVec 2) (participants : Nat) (values : List (BitVec 32))
    (s : State) : Host.Outcome State Fault Refusal := .next (collective 4 b c h epoch participants values s)

/-- HANDOFF. -/
def execHandoff (b : BasinId) (c : CtxId) (h : A2AHdr) (epoch : BitVec 2) (participants : Nat) (values : List (BitVec 32))
    (s : State) : Host.Outcome State Fault Refusal := .next (collective 5 b c h epoch participants values s)

end Sys2Proof.Machine
end

