-- ==== Sys2Proof/Machine/Datapath.lean ====
section
/-! DEFINITION. Schedule words of the tile's units: NOP, the matrix unit's load and stream (R39-R46, R60-R63), the drain
(R65-R70), the vector unit (R71-R73, R102) and the SRAM port (R214, R218). -/

namespace Sys2Proof.Machine

/-- A span beyond the end of its bank (R79, R173; log entry 21). -/
def State.spanFault (s : State) (t : Nat) : State := s.arrayFault t .overflow

/-! ### Matrix unit -/

/-- Cycles in which the array waited on a load while the outgoing weight tile was in force: max(v, 32) - v, or
max(4v, 32) - 4v in BF mode (R41). -/
def loadWait (mode : MuMode) (v : Nat) : Nat := if mode = .bf then 32 - 4 * v else 32 - v

/-- Row blocks that meet each weight tile: the g of the pound's ring (R144). -/
def State.rowBlocks (s : State) (t : Nat) : Nat :=
  ((s.poundOf t).map fun hp => max 1 ((s.basin hp.1).pound hp.2).pdef.ring.g).getD 1

/-- The planes swap once the next weight tile is loaded and the last row for the current one has entered (R40); the wait of a weight tile that was in force
counts as it leaves, one that was skipped or met a null beat has none (R41, R61, R152). -/
def Tile.planes (x : Tile) (g : Nat) : Tile :=
  if x.core.loaded && x.core.due == 0 then
    let w := if x.core.active.bytes.isEmpty || !x.core.active.real then 0 else loadWait x.core.active.mode x.core.rowsMet
    { x with
      cnt := { x.cnt with muLoadWait := satAdd x.cnt.muLoadWait w },
      core := { x.core with active := x.core.shadow, shadow := x.core.active, loaded := false, due := g, rowsMet := 0 } }
  else x

/-- Which tile of a T2B pack a load takes: the matrix unit takes the tiles of a pack in order q = 0 to 4, loads that it skips
among them; a phrase begins its packs anew (R56; log entry 22). -/
def nextQ (last : Option (Nat × Nat)) (mode : MuMode) (addr : Nat) : Nat :=
  match last with
  | some p => if mode = .t2 ∧ p.1 = addr ∧ p.2 < 4 then p.2 + 1 else 0
  | none => 0

/-- The operands of an MU load are legal (R43, R44). -/
def muLoadOk (mode : MuMode) (sp : Sparsity) (fmt : Fmt) : Bool := weightOk mode fmt && sparsityOk mode sp

/-- Every activation block that `k` bits of each map cover is zero: every pair of the weight tile is skipped (R60, R61). A row block without
a map counts as having every bit set (R62). -/
def allSkipped (m : Memory) (maps : List ZMap) (k : Nat) : Bool :=
  !maps.isEmpty && maps.all fun z => (List.range k).all fun i => !zmapBit m z i

/-- The matrix operation of the phrase that a tile's pound runs (R43). -/
def State.phraseForm (s : State) (t : Nat) : Option PhraseForm := (s.poundOf t).bind fun hp => ((s.basin hp.1).pound hp.2).plan.form

/-- The rows among `rows` of accumulator block `blk` that hold what an earlier tile operation left start from zero (R144, R146; log entry 80). -/
def Tile.freshRows (x : Tile) (blk : Nat) (rows : List Nat) : Tile :=
  let old := Tbl.get 0#32 blk x.core.stale
  let l := rows.filter fun r => old.getLsbD r
  l.foldl (fun y r => { y with
    mem := { (y.mem.cleared .acc (1024 * blk + 32 * r) 32) with
      acc := (List.range 32).foldl (fun a n => Tbl.set 0#32 (1024 * blk + 32 * r + n) 0#32 a) y.mem.acc },
    core := { y.core with stale := Tbl.mod 0#32 blk (fun m => m &&& ~~~(1#32 <<< r)) y.core.stale } }) x

/-- The next weight tile loads into the shadow plane (R40), also in the beat of a null unit, beside which the next beat's unit loads. A tile whose
every pair is skipped is not loaded and no byte of it is read, but it takes its turn (R61). -/
def muLoad (t : Nat) (bank : BitVec 2) (addr : BitVec 12) (mode : MuMode) (sp : Sparsity) (fmt : Fmt) (maps : List ZMap) (s : State) : State :=
  let a := opAddr bank addr
  let n := weightBytes mode sp fmt
  if !muLoadOk mode sp fmt then s.arrayFault t .unit
  else
    let g := s.rowBlocks t
    let q := nextQ (s.tile t).core.pack mode a
    let pack := if mode = .t2 then some (a, q) else none
    let s0 := (maps.foldl (fun u z => u.consumeOp t (z.addr.toNat + z.first / 8) 1) s).modTile t fun x => x.planes g
    if allSkipped (s0.tile t).mem.opbuf maps (tileK mode sp / 32) then
      s0.modTile t fun x => { x with core := { x.core with
        shadow := { mode := mode, sp := sp, fmt := fmt, q := q, bytes := [], real := false }, loaded := true, pack := pack } }
    else if !inBank a n then s0.spanFault t
    else
      let s1 := s0.consumeOp t a n
      let w : WPlane := { mode := mode, sp := sp, fmt := fmt, q := q, bytes := Memory.read (s1.tile t).mem.opbuf a n, real := true }
      let ev : Ev := { Ev.zero with arith := weightInf w, bad := if mode = .t2 then packBad sp w.bytes w.q else 0 }
      s1.modTile t fun x => { x with cnt := x.cnt.count ev, core := { x.core with shadow := w, loaded := true, pack := pack } }

/-- Schedule word MU, load: the weights have the format that the phrase's plan gives, and `fmt` where it gives none (R43). -/
def execMuLoad (t : TileId) (fmt : Fmt) (maps : List ZMap) (s : State) : Host.Outcome State Fault Refusal :=
  .next (s.issueWord t fun o => match o with
    | .muLoad bank addr mode sp => some (muLoad t bank addr mode sp (((s.phraseForm t).map (·.wgt)).getD fmt) maps)
    | _ => none)

/-- g and s of the tile's pound; 1 and 1 for a tile in no pound. -/
def State.gs (s : State) (t : Nat) : Nat × Nat :=
  ((s.poundOf t).map fun hp =>
    let p := (s.basin hp.1).pound hp.2
    (max 1 p.pdef.ring.g, max 1 p.plan.s)).getD (1, 1)

/-- The valid rows rows_i that a schedule register holds; in a STATIONARY pound, where no claim writes one, those of the row group of the operation that
the accumulator block set `z` serves (R147, R154, R158; log entry 24). -/
def State.rowsReg (s : State) (t i z : Nat) : Nat :=
  match s.poundOf t with
  | some hp =>
    let x := (s.tile t).core
    if ((s.basin hp.1).pound hp.2).pdef.ring.shape = 0 then s.iterRows hp (x.iters + (setPlace x.sets z).1)
    else (Tbl.get 0#32 i x.regs).toNat
  | none => (Tbl.get 0#32 i (s.tile t).core.regs).toNat

/-- Valid rows of a stream word: the immediate, or of rows_i those of the row block that the accumulator block belongs to (R45, R145,
R146; log entry 24). DESIGN CHOICE: an immediate count above 32 counts as 32 (log entry 175). -/
def streamRows (s : State) (t : Nat) (block : BitVec 5) (fromReg : Bool) (rows : BitVec 6) : Nat :=
  let gs := s.gs t
  if fromReg then min 32 (s.rowsReg t rows.toNat (setOf gs.1 gs.2 block.toNat) - 32 * rowBlockOf gs.1 gs.2 block.toNat)
  else min 32 (rows.toNat + 1)

/-- The stream of a block takes its place: a block set that serves no operation of a STATIONARY tile takes the next one (R147, R154). -/
def State.openSet (s : State) (t block : Nat) : State :=
  match s.poundOf t with
  | some hp =>
    let gs := s.gs t
    if ((s.basin hp.1).pound hp.2).pdef.ring.shape = 0 then
      s.modTile t fun x => { x with core := { x.core with sets := (setPlace x.core.sets (setOf gs.1 gs.2 block)).2 } }
    else s
  | none => s

/-- The accumulator entries of one row after the row has met the weight tile: entries 1,024 x block + 32 x row + column
(R39, R80). -/
def streamRow (w : WPlane) (row : List FVal) (base : Nat) (acc : Tbl (BitVec 32)) : Tbl (BitVec 32) × Ev :=
  (List.range 32).foldl (fun a n =>
    let r := accumulate w row n (Tbl.get 0#32 (base + n) a.1)
    (Tbl.set 0#32 (base + n) r.1 a.1, Ev.add a.2 r.2)) (acc, Ev.zero)

/-- Rows 0 to v - 1 streamed. -/
def streamAll (w : WPlane) (mx : Bool) (fmt : Fmt) (blks : List (List Byte)) (block v : Nat) (acc : Tbl (BitVec 32)) :
    Tbl (BitVec 32) × Ev :=
  (List.range v).foldl (fun a r =>
    let x := actRowK mx fmt blks r
    let y := streamRow w x.1 (1024 * block + 32 * r) a.1
    (y.1, Ev.add a.2 (Ev.add y.2 { Ev.zero with arith := x.2 }))) (acc, Ev.zero)

/-- A row block streamed against the current weight tile (R39): no row of a block without valid rows (R45), and no row of a pair whose every
covered activation block has a zero-map bit of 0, which is counted (R60); a row block without a map has every bit set (R62). The first stream of a tile
operation into a row starts it anew (R146). In the beat of a null unit the array idles, and its weight tile leaves with its turn (R152). -/
def muStream (t : Nat) (bank : BitVec 2) (addr : BitVec 12) (block : BitVec 5) (fromReg : Bool) (rows : BitVec 6)
    (fmt : Fmt) (map : Option ZMap) (s : State) : State :=
  let g := s.rowBlocks t
  let turn := s.modTile t fun x =>
    let y := x.planes g
    { y with core := { y.core with due := y.core.due - 1 } }
  if s.nullBeat t then turn.modTile t fun x => { x with core := { x.core with active := { x.core.active with real := false } } }
  else
    let s0 := turn.openSet t block.toNat
    let w := (s0.tile t).core.active
    let k := tileK w.mode w.sp / 32
    let mx := isMx w.mode
    let bb := actBlockBytes mx fmt
    let a := opAddr bank addr
    let v := streamRows s t block fromReg rows
    if !actOk w.mode fmt then s0.arrayFault t .unit
    else if v = 0 then s0
    else
      let s1 := match map with
        | some z => s0.consumeOp t (z.addr.toNat + z.first / 8) 1
        | none => s0
      if allSkipped (s1.tile t).mem.opbuf map.toList k then
        s1.modTile t fun x =>
          let y := x.freshRows block.toNat (List.range v)
          { y with cnt := { y.cnt with skip := satAdd y.cnt.skip 1 } }
      else if !inBank a (k * bb) then s1.spanFault t
      else
        let s2 := ((s1.consumeOp t a (k * bb)).modTile t fun x => x.freshRows block.toNat (List.range v)).consume t .acc (1024 * block.toNat) (32 * v)
        let x := s2.tile t
        let blks := (List.range k).map fun i => Memory.read x.mem.opbuf (a + i * bb) bb
        let r := streamAll w mx fmt blks block.toNat v x.mem.acc
        s2.modTile t fun y => { y with
          mem := { (y.mem.cleared .acc (1024 * block.toNat) (32 * v)) with acc := r.1 },
          cnt := { (y.cnt.count r.2) with muActive := satAdd y.cnt.muActive v },
          core := { y.core with rowsMet := y.core.rowsMet + v, accMode := Tbl.set .f8 block.toNat w.mode y.core.accMode } }

/-- Schedule word MU, stream: the activations have the format that the phrase's plan gives, and `fmt` where it gives none (R43). -/
def execMuStream (t : TileId) (fmt : Fmt) (map : Option ZMap) (s : State) : Host.Outcome State Fault Refusal :=
  .next (s.issueWord t fun o => match o with
    | .muStream bank addr block fromReg rows => some (muStream t bank addr block fromReg rows (((s.phraseForm t).map (·.act)).getD fmt) map)
    | _ => none)

/-- Schedule word NOP: the word only waits (Table 3.6). -/
def execNop (t : TileId) (s : State) : Host.Outcome State Fault Refusal :=
  .next (s.issueWord t fun o => match o with
    | .nop => some id
    | _ => none)

/-! ### Drain -/

/-- The reciprocal of an FP32 scale, rounded to FP32, and what it counts (R66). DESIGN CHOICE: the reciprocal of a zero scale, and of a subnormal one where
it exceeds FP32, is the largest finite value of its sign, uncounted (log entry 18). -/
def recip32 (w : BitVec 32) : FVal × Ev :=
  let d := dec32 w
  match d.1 with
  | .nan => (.nan, Ev.zero)
  | .fin n m e =>
    if m = 0 then ((dec32 (BitVec.ofNat 32 (0x7F7FFFFF + fmtFp32.signBit n))).1, Ev.zero)
    else
      let q := 2 ^ 128 / m * 2 + (if 2 ^ 128 % m = 0 then 0 else 1)
      ((dec32 (enc32 (.fin n q (-129 - e))).1).1, Ev.arith1 d.2)

/-- An exact value rounded to FP32. -/
def reround : FVal → FVal × Ev
  | .nan => (.nan, Ev.zero)
  | .fin n m e => let r := enc32 (.fin n m e); ((dec32 r.1).1, r.2)

/-- One product, rounded once. -/
def mulRound (v : FVal × Ev) (w : BitVec 32) : FVal × Ev :=
  let x := dec32 w
  let r := reround (FVal.mul v.1 x.1)
  (r.1, Ev.add v.2 (Ev.add r.2 (Ev.arith1 x.2)))

/-- One sum, rounded once. -/
def addRound (v : FVal × Ev) (w : BitVec 32) : FVal × Ev :=
  let x := dec32 w
  let r := reround (FVal.add v.1 x.1)
  (r.1, Ev.add v.2 (Ev.add r.2 (Ev.arith1 x.2)))

/-- The special function of a code of Table 3.17 on one FP32 word. -/
def specialFn (code : Nat) (w : BitVec 32) : BitVec 32 × Ev :=
  if code = 13 then fnExp w else if code = 14 then fnRcp w else fnRsqrt w

/-- An accumulator entry through steps 1 to 5 of R65; row scale, column scale and bias are those of the entry's row and column; a partial sum takes none
of them (R70). DESIGN CHOICE: bits 0 to 3 of `steps` enable steps 2 to 5 in this order (log entry 176). `beyond` marks a key position at or beyond the
sequence's length, whose score is set to -3.4028235 x 10^38 before the exponential, here or in a later vector word (R165; log entry 76). -/
def drainValue (mode : MuMode) (steps : BitVec 4) (fn : Nat) (partialSum beyond : Bool) (rs cs bi e : BitVec 32) : FVal × Ev :=
  let v1 : FVal × Ev := if mode = .i8 then ((dec32 (enc32 (intVal e.toInt 0)).1).1, Ev.zero) else
    let d := dec32 e; (d.1, Ev.arith1 d.2)
  if partialSum then v1
  else
    let scaled2 := mode == .f8 || mode == .i8 || mode == .t2
    let scaled3 := mode == .f8 || mode == .i8
    let v2 := if steps.getLsbD 0 && scaled2 then mulRound v1 rs else v1
    let v3 := if steps.getLsbD 1 && scaled3 then mulRound v2 cs else v2
    let v4 := if steps.getLsbD 2 then addRound v3 bi else v3
    let v5 := if beyond then ((dec32 0xFF7FFFFF#32).1, v4.2) else v4
    if steps.getLsbD 3 && fn != 0 then
      let x := specialFn fn (enc32 v5.1).1
      (if v5.1.isNan then .nan else (dec32 x.1).1, Ev.add v5.2 x.2)
    else v5

/-- FP8 and INT8 outputs are written against the cut's static output scale (R66). -/
def scaledOut (mx : Bool) (f : Fmt) : Bool := !mx && (f == .e4m3 || f == .e5m2 || f == .int8)

/-- One output block narrowed to its format: bytes, counts and the zero-map bit (R49, R59, R65 step 6, R66, Table 2.7).
`vs` holds the 32 rows of 32 values. DESIGN CHOICE: of an MX block that a NaN turns to scale 0xFF, the NaN inputs count, not all 32
elements (log entry 19). -/
def narrowBlock (f : Fmt) (mx : Bool) (outScale : BitVec 32) (vs : List (List FVal)) : List Byte × Ev × Bool :=
  if mx then
    let rows := vs.map (mxBlock f)
    let nans := (vs.map fun r => if r.any FVal.isNan then (r.filter FVal.isNan).length else 0).foldl (· + ·) 0
    let bs := packCodes f (rows.flatMap (·.2)) ++ rows.map fun r => BitVec.ofNat 8 r.1
    (bs, { Ev.zero with nanOut := nans }, zeroBit true f bs)
  else
    let rec8 := recip32 outScale
    let vals := vs.flatten.map fun v => if scaledOut mx f then reround (FVal.mul v rec8.1) else (v, Ev.zero)
    let enc := vals.map fun v => fmtEncode f (-127) v.1
    let ev : Ev := { narrow := (enc.filter (·.2)).length,
                     arith := (Ev.total (vals.map (·.2))).arith + (if scaledOut mx f then rec8.2.arith else 0),
                     nanOut := (vals.filter fun v => v.1.isNan).length, bad := 0 }
    let bs := packCodes f (enc.map (·.1))
    (bs, ev, zeroBit false f bs)

/-- Output formats that are always MX blocks (Table 2.4), and FP8 where the cut says so. -/
def drainMx (f : Fmt) (sup : DrainSupply) : Bool :=
  match f with
  | .e3m2 | .e2m3 | .e2m1 | .mxi => true
  | .e4m3 | .e5m2 => sup.mx
  | _ => false

/-- What a drain of one accumulator block writes: its bytes, counts, zero-map bit, and its 32 rows of values. -/
structure Drained where
  bytes : List Byte
  ev    : Ev
  bit   : Bool
  vals  : List (List FVal)

/-- Accumulator block `blk`, of row block `rb` and strip `t`, drained in the mode that filled it; its first `keep` rows lie before the end of the
sequence (R165). A partial sum leaves as FP32, or as INT32 in I8
mode (R65, R70). -/
def drainBlock (x : Tile) (f : Fmt) (steps : BitVec 4) (fn : Nat) (sup : DrainSupply) (keep blk rb t : Nat) : Drained :=
  let mode := Tbl.get .f8 blk x.core.accMode
  let entry := fun r c => Tbl.get 0#32 (1024 * blk + 32 * r + c) x.mem.acc
  if sup.partialSum && mode == .i8 then
    { bytes := (List.range 1024).flatMap fun j => natLe 4 (entry (j / 32) (j % 32)).toNat, ev := Ev.zero, bit := true, vals := [] }
  else
    let rs := fun r => Memory.word x.mem.opbuf (sup.rowScales.toNat + 128 * rb + 4 * r)
    let cs := fun c => Memory.word x.mem.opbuf (sup.colScales.toNat + 128 * t + 4 * c)
    let bi := fun c => Memory.word x.mem.opbuf (sup.bias.toNat + 128 * t + 4 * c)
    let rows := (List.range 32).map fun r => (List.range 32).map fun c =>
      drainValue mode steps fn sup.partialSum (decide (keep ≤ r)) (rs r) (cs c) (bi c) (entry r c)
    let vals := rows.map fun r => r.map (·.1)
    let n := narrowBlock (if sup.partialSum then .fp32 else f) (!sup.partialSum && drainMx f sup) (Memory.word x.mem.opbuf sup.outScale.toNat) vals
    { bytes := n.1, ev := Ev.add n.2.1 (Ev.total (rows.flatten.map (·.2))), bit := n.2.2, vals := vals }

/-- Operand-buffer words that the drain of a block reads beside the accumulator: those of the enabled steps of its mode (R65). -/
def drainReads (x : Tile) (f : Fmt) (steps : BitVec 4) (sup : DrainSupply) (blk rb t : Nat) : List (Nat × Nat) :=
  let mode := Tbl.get .f8 blk x.core.accMode
  if sup.partialSum then []
  else
    (if steps.getLsbD 0 && (mode == .f8 || mode == .i8 || mode == .t2) then [(sup.rowScales.toNat + 128 * rb, 128)] else []) ++
    (if steps.getLsbD 1 && (mode == .f8 || mode == .i8) then [(sup.colScales.toNat + 128 * t, 128)] else []) ++
    (if steps.getLsbD 2 then [(sup.bias.toNat + 128 * t, 128)] else []) ++
    (if scaledOut (drainMx f sup) f then [(sup.outScale.toNat, 4)] else [])

/-- Rows of row block `rb` of a drained row group that hold key positions before the sequence's actual length; every row outside a phrase that computes
attention scores (R165, R168). -/
def State.keyRows (s : State) (t : Nat) (grp : Option (Nat × Nat)) (rb : Nat) : Nat :=
  match (s.tile t).core.phrase, grp with
  | some ph, some q =>
    if ph.kind = .attention ∧ !(((s.poundOf t).map fun hp => ((s.basin hp.1).pound hp.2).plan.reduces).getD false) then ph.len - 32 * ((((s.poundOf t).map fun hp => ((s.basin hp.1).pound hp.2).pdef.ring.g).getD 1) * q.1 + rb) else 32
  | _, _ => 32

/-- One row of a block added to its dispatch row: gate x output of the entry's expert, and the narrowing to combine_fmt once the last
admitted expert of the row has come (R205). -/
def fanRow (rr : RouteRec) (slot col : Nat) (pairs : List (Nat × Nat × Nat × BitVec 32)) (k : RouteStep × Ev) (at_ : Nat) (vs : List FVal) :
    RouteStep × Ev :=
  match pairs[at_]? with
  | none => k
  | some e =>
    let old := ((k.1.fan.find? fun q => q.1 == e.1).map (·.2)).getD []
    let sum := fanAdd old col e.2.2.2 (vs.map fun v => (enc32 v).1)
    let later := k.1.admitted.any fun a => decide (slot < a.1) && a.2.any fun q => q.1 == e.1
    let out := if later then (sum.1, Ev.zero) else fanNarrow rr.combineFmt sum.1 col vs.length
    ({ k.1 with fan := (k.1.fan.filter fun q => q.1 != e.1) ++ [(e.1, out.1)] }, Ev.add k.2 (Ev.add sum.2 out.2))

/-- Fan-in of an expert's last phrase: each valid row of each drained block adds to the dispatch row of its pair; blocks come with their row
block and strip (R205). -/
def State.fanIn (s : State) (t : Nat) (hp : Nat × Nat) (group col : Nat) (blocks : List (Nat × Nat × List (List FVal))) : State :=
  let p := (s.basin hp.1).pound hp.2
  match p.phrase with
  | none => s
  | some ph =>
    let k := (s.basin hp.1).routeStep p.ctx ph.route.toNat (p.step % 2 ^ 32)
    let rr := (s.basin hp.1).route p.ctx ph.route.toNat
    let pairs := ((k.admitted.find? fun e => e.1 == ph.slot.toNat).map (·.2)).getD []
    let base := 32 * p.pdef.ring.g * group
    let r := blocks.foldl (fun a b =>
      (b.2.2.zip (List.range b.2.2.length)).foldl (fun a' v =>
        fanRow rr ph.slot.toNat (col + 32 * b.2.1) pairs a' (base + 32 * b.1 + v.2) v.1) a) (k, Ev.zero)
    (s.modBasin hp.1 fun x => x.setRouteStep { r.1 with fanned := ph.slot.toNat :: r.1.fanned.filter (· != ph.slot.toNat) }).count t r.2

/-- `n` more blocks of the tile operation have drained: with the last of its g x s blocks the operation ends, and a ring pound's tile commits
its index (lane x S + sigma) x G + i when it has rows (R161, R162). -/
def State.drainEnd (s : State) (t n : Nat) : State :=
  match s.poundOf t with
  | none => s
  | some hp =>
    let p := (s.basin hp.1).pound hp.2
    let x := (s.tile t).core
    let gs := s.gs t
    if x.drained + n < gs.1 * gs.2 then s.modTile t fun y => { y with core := { y.core with drained := y.core.drained + n } }
    else if p.pdef.ring.shape = 0 then s.modTile t fun y => { y with core := { y.core with drained := 0, iters := y.core.iters + 1, sets := y.core.sets.tail } }
    else
      let s1 := s.modTile t fun y => { y with core := { y.core with drained := 0, ops := y.core.ops.tail } }
      match x.ops with
      | [] => s1
      | o :: _ =>
        if o.rows = 0 then s1
        else s1.commit t (((s.ringPlace t hp).1 * p.plan.segs + o.seg) * groupCount p.pdef.ring.g (s.phraseRows hp.1 p) + o.group)

/-- Blocks drained from a tile end their operation: what they hold is stale for the next one (R146). -/
def Tile.spent (x : Tile) (blks : List Nat) : Tile :=
  { x with core := { x.core with stale := blks.foldl (fun m b => Tbl.set 0#32 b 0xFFFFFFFF#32 m) x.core.stale } }

/-- A drain of `n` blocks from accumulator block `first` into the operand buffer (R65), with the zero-map bit of each (R59) and, for FP8 and INT8,
s_out as the row scale of every row (R66). A tile operation without rows drains nothing (R161). A valid row that the operation did not stream, every pair of
it skipped, drains as zero (R60, R146). DESIGN CHOICE: blocks past 31 go on at block 0 (log entry 20). -/
def drain (t : Nat) (first blocks : BitVec 5) (fmt : BitVec 4) (steps : BitVec 4) (fn : BitVec 6) (bank : BitVec 2)
    (addr : BitVec 12) (sup : DrainSupply) (s : State) : State :=
  match fmtOfCode fmt.toNat with
  | none => s.arrayFault t .unit
  | some f =>
    if fn ≠ 0 ∧ fn ≠ 13 ∧ fn ≠ 14 ∧ fn ≠ 15 then s.arrayFault t .unit
    else
      let n := blocks.toNat + 1
      let bb := actBlockBytes (!sup.partialSum && drainMx f sup) (if sup.partialSum then .fp32 else f)
      let a := opAddr bank addr
      let gs := s.gs t
      let grp := s.drainGroup t
      if (grp.map (·.2)) = some 0 then s.drainEnd t n
      else if !inBank a (n * bb) then s.spanFault t
      else
        let places := (List.range n).map fun i =>
          let blk := (first.toNat + i) % 32
          (i, blk, rowBlockOf gs.1 gs.2 blk, stripOf gs.1 gs.2 blk)
        let valid := fun rb => match grp with | some q => min 32 (q.2 - 32 * rb) | none => 32
        let s := s.modTile t fun x => places.foldl (fun y q => y.freshRows q.2.1 (List.range (valid q.2.2.1))) x
        let s1 := places.foldl (fun u q =>
          (drainReads (s.tile t) f steps sup q.2.1 q.2.2.1 q.2.2.2).foldl (fun v r => v.consumeOp t r.1 r.2) (u.consume t .acc (1024 * q.2.1) 1024)) s
        let out : List ((Nat × Nat × Nat × Nat) × Drained) := places.map fun q => (q, drainBlock (s1.tile t) f steps fn.toNat sup (s.keyRows t grp q.2.2.1) q.2.1 q.2.2.1 q.2.2.2)
        let s2 := s1.writeOp t a (out.flatMap (·.2.bytes))
        let s3 := out.foldl (fun u q =>
          let z : ZMap := ⟨sup.zeroMap.addr, sup.zeroMap.first + 8 * sup.stride * q.1.2.2.1⟩
          u.modTile t fun y =>
            let ob := setZmapBit y.mem.opbuf z q.1.2.2.2 q.2.bit
            { y with cnt := y.cnt.count q.2.ev, mem := { y.mem with opbuf := ob } }) s2
        let s4 := if !sup.partialSum && scaledOut (drainMx f sup) f then
            out.foldl (fun u q => u.writeOp t (sup.outScales.toNat + 128 * q.1.2.2.1)
              ((List.range 32).flatMap fun _ => natLe 4 (Memory.word (s1.tile t).mem.opbuf sup.outScale.toNat).toNat)) s3
          else s3
        let rowsOut : List (Nat × Nat × List (List FVal)) := out.map fun q => (q.1.2.2.1, q.1.2.2.2, q.2.vals)
        let group : Nat := match grp with | some q => q.1 | none => 0
        let s5 := match sup.fan, s.poundOf t with
          | some col, some hp => s4.fanIn t hp group col rowsOut
          | _, _ => s4
        (s5.modTile t fun y => y.spent (places.map (·.2.1))).drainEnd t n

/-- Schedule word DRAIN. -/
def execDrain (t : TileId) (sup : DrainSupply) (s : State) : Host.Outcome State Fault Refusal :=
  .next (s.issueWord t fun o => match o with
    | .drain first blocks fmt steps fn bank addr => some (drain t first blocks fmt steps fn bank addr sup)
    | _ => none)

/-! ### Vector unit (R102) -/

/-- Vectors of a span. -/
def spanVectors (v : VuSpan) : Nat := v.len.toNat + 1
/-- Source address of a span. -/
def spanSrc (v : VuSpan) : Nat := opAddr v.srcBank v.srcAddr
/-- Destination address of a span. -/
def spanDst (v : VuSpan) : Nat := opAddr v.dstBank v.dstAddr

/-- 32-bit words of the operand buffer. -/
def State.opWords (s : State) (t a n : Nat) : List (BitVec 32) := Memory.words (s.tile t).mem.opbuf a n

/-- A BF16 operation on the two halves of a word. -/
def halves2 (f : BitVec 16 → BitVec 16 → BitVec 16 × Ev) (a b : BitVec 32) : BitVec 32 × Ev :=
  let lo := f (a.setWidth 16) (b.setWidth 16)
  let hi := f ((a >>> 16).setWidth 16) ((b >>> 16).setWidth 16)
  (hi.1 ++ lo.1, Ev.add lo.2 hi.2)

/-- A BF16 operation of three operands on the two halves of a word. -/
def halves3 (f : BitVec 16 → BitVec 16 → BitVec 16 → BitVec 16 × Ev) (a b c : BitVec 32) : BitVec 32 × Ev :=
  let lo := f (a.setWidth 16) (b.setWidth 16) (c.setWidth 16)
  let hi := f ((a >>> 16).setWidth 16) ((b >>> 16).setWidth 16) ((c >>> 16).setWidth 16)
  (hi.1 ++ lo.1, Ev.add lo.2 hi.2)

/-- A two-operand operation: source with destination, over the destination (R102). A 64-lane vector is 64 words. -/
def vuTwo (f : BitVec 32 → BitVec 32 → BitVec 32 × Ev) (t : Nat) (v : VuSpan) (s : State) : State :=
  let n := 64 * (spanVectors v)
  if !inBank (spanSrc v) (4 * n) || !inBank (spanDst v) (4 * n) then s.spanFault t
  else
    let s1 := (s.consumeOp t (spanSrc v) (4 * n)).consumeOp t (spanDst v) (4 * n)
    let r := ((s1.opWords t (spanSrc v) n).zip (s1.opWords t (spanDst v) n)).map fun p => f p.1 p.2
    (s1.writeOpWords t (spanDst v) (r.map (·.1))).count t (Ev.total (r.map (·.2)))

/-- A one-operand operation (R102). -/
def vuOne (f : BitVec 32 → BitVec 32 × Ev) (t : Nat) (v : VuSpan) (s : State) : State :=
  let n := 64 * (spanVectors v)
  if !inBank (spanSrc v) (4 * n) || !inBank (spanDst v) (4 * n) then s.spanFault t
  else
    let s1 := s.consumeOp t (spanSrc v) (4 * n)
    let r := (s1.opWords t (spanSrc v) n).map f
    (s1.writeOpWords t (spanDst v) (r.map (·.1))).count t (Ev.total (r.map (·.2)))

/-- A fused multiply-add: source x destination + addend, where the addend follows the destination span (R102). -/
def vuFma (f : BitVec 32 → BitVec 32 → BitVec 32 → BitVec 32 × Ev) (t : Nat) (v : VuSpan) (s : State) : State :=
  let n := 64 * (spanVectors v)
  if !inBank (spanSrc v) (4 * n) || !inBank (spanDst v) (8 * n) then s.spanFault t
  else
    let s1 := (s.consumeOp t (spanSrc v) (4 * n)).consumeOp t (spanDst v) (8 * n)
    let r := ((s1.opWords t (spanSrc v) n).zip ((s1.opWords t (spanDst v) n).zip (s1.opWords t ((spanDst v) + 4 * n) n))).map fun p =>
      f p.1 p.2.1 p.2.2
    (s1.writeOpWords t (spanDst v) (r.map (·.1))).count t (Ev.total (r.map (·.2)))

/-- The tile issues a vector word of a code of Table 3.17; `f` gets its two operation fields and its spans. A reserved code raises UNIT_FAULT
(R102). -/
def vuWord (t code : Nat) (f : Nat → Nat → VuSpan → State → State) (s : State) : Host.Outcome State Fault Refusal :=
  .next (s.issueWord t fun o => match o with
    | .vu c a b v => if c.toNat = code then some (f a.toNat b.toNat v) else if 17 ≤ c.toNat then some (·.arrayFault t .unit) else none
    | _ => none)

/-- FMA32. -/
def execFma32 (t : TileId) (s : State) : Host.Outcome State Fault Refusal := vuWord t 0 (fun _ _ v => vuFma fma32Lane t v) s
/-- ADD32. -/
def execAdd32 (t : TileId) (s : State) : Host.Outcome State Fault Refusal := vuWord t 1 (fun _ _ v => vuTwo (lane32 FVal.add) t v) s
/-- MUL32. -/
def execMul32 (t : TileId) (s : State) : Host.Outcome State Fault Refusal := vuWord t 2 (fun _ _ v => vuTwo (lane32 FVal.mul) t v) s
/-- MIN32. -/
def execMin32 (t : TileId) (s : State) : Host.Outcome State Fault Refusal := vuWord t 3 (fun _ _ v => vuTwo (lane32 FVal.min2) t v) s
/-- MAX32. -/
def execMax32 (t : TileId) (s : State) : Host.Outcome State Fault Refusal := vuWord t 4 (fun _ _ v => vuTwo (lane32 FVal.max2) t v) s
/-- FMA16. -/
def execFma16 (t : TileId) (s : State) : Host.Outcome State Fault Refusal := vuWord t 8 (fun _ _ v => vuFma (halves3 fma16Lane) t v) s
/-- ADD16. -/
def execAdd16 (t : TileId) (s : State) : Host.Outcome State Fault Refusal := vuWord t 9 (fun _ _ v => vuTwo (halves2 (lane16 FVal.add)) t v) s
/-- MUL16. -/
def execMul16 (t : TileId) (s : State) : Host.Outcome State Fault Refusal := vuWord t 10 (fun _ _ v => vuTwo (halves2 (lane16 FVal.mul)) t v) s
/-- MIN16. -/
def execMin16 (t : TileId) (s : State) : Host.Outcome State Fault Refusal := vuWord t 11 (fun _ _ v => vuTwo (halves2 (lane16 FVal.min2)) t v) s
/-- MAX16. -/
def execMax16 (t : TileId) (s : State) : Host.Outcome State Fault Refusal := vuWord t 12 (fun _ _ v => vuTwo (halves2 (lane16 FVal.max2)) t v) s
/-- EXP. -/
def execExp (t : TileId) (s : State) : Host.Outcome State Fault Refusal := vuWord t 13 (fun _ _ v => vuOne fnExp t v) s
/-- RCP. -/
def execRcp (t : TileId) (s : State) : Host.Outcome State Fault Refusal := vuWord t 14 (fun _ _ v => vuOne fnRcp t v) s
/-- RSQRT. -/
def execRsqrt (t : TileId) (s : State) : Host.Outcome State Fault Refusal := vuWord t 15 (fun _ _ v => vuOne fnRsqrt t v) s

/-- CMP32: one flag per lane; conditions 4 to 15 raise UNIT_FAULT (Table 3.17). -/
def vuCmp (cond : Nat) (t : Nat) (v : VuSpan) (s : State) : State :=
  let n := 64 * (spanVectors v)
  if 4 ≤ cond then s.arrayFault t .unit
  else if !inBank (spanSrc v) (4 * n) || !inBank (spanDst v) (4 * n) then s.spanFault t
  else
    let s1 := (s.consumeOp t (spanSrc v) (4 * n)).consumeOp t (spanDst v) (4 * n)
    let r := ((s1.opWords t (spanSrc v) n).zip (s1.opWords t (spanDst v) n)).map fun p => cmpLane cond p.1 p.2
    (s1.modTile t fun x => { x with core := { x.core with cmp := r.map (·.1) } }).count t (Ev.total (r.map (·.2)))

/-- CMP32. -/
def execCmp32 (t : TileId) (s : State) : Host.Outcome State Fault Refusal := vuWord t 5 (fun a _ v => vuCmp a t v) s

/-- SEL: each lane from the source where the last CMP32 set its flag, unchanged otherwise (R102); an infinite lane that is taken counts as
an infinite input (Table 2.7). -/
def vuSel (t : Nat) (v : VuSpan) (s : State) : State :=
  let n := 64 * (spanVectors v)
  if !inBank (spanSrc v) (4 * n) || !inBank (spanDst v) (4 * n) then s.spanFault t
  else
    let s1 := (s.consumeOp t (spanSrc v) (4 * n)).consumeOp t (spanDst v) (4 * n)
    let fl := (s1.tile t).core.cmp
    let r := ((s1.opWords t (spanSrc v) n).zip (s1.opWords t (spanDst v) n)).mapIdx fun i p =>
      if (fl[i]?).getD false then
        let d := dec32 p.1
        (if d.2 then (enc32 d.1).1 else p.1, Ev.arith1 d.2)
      else (p.2, Ev.zero)
    (s1.writeOpWords t (spanDst v) (r.map (·.1))).count t (Ev.total (r.map (·.2)))

/-- SEL. -/
def execSel (t : TileId) (s : State) : Host.Outcome State Fault Refusal := vuWord t 6 (fun _ _ v => vuSel t v) s

/-- CONVERT: 64 elements a vector from one format into another, rounded under R64; a result beyond the target's largest
finite value is that value and counts in TIL_SAT_ARITH (Tables 2.7, 2.11; log entry 25). Reserved format codes raise
UNIT_FAULT (Table 3.16). DESIGN CHOICE: the elements alone are converted, without the scales of T2B and MX blocks (log entry 23). -/
def vuConvert (from' to' : Nat) (t : Nat) (v : VuSpan) (s : State) : State :=
  match fmtOfCode from', fmtOfCode to' with
  | some f, some g =>
    let n := 64 * (spanVectors v)
    let nb := packedBytes f n
    let mb := packedBytes g n
    if !inBank (spanSrc v) nb || !inBank (spanDst v) mb then s.spanFault t
    else
      let s1 := s.consumeOp t (spanSrc v) nb
      let bs := Memory.read (s1.tile t).mem.opbuf (spanSrc v) nb
      let d := (unpackCodes f n bs).map (fmtDecode f)
      let r := d.map fun x => fmtEncode g (-128) x.1
      let ev : Ev := { narrow := 0, arith := (d.filter (·.2)).length + (r.filter (·.2)).length, nanOut := 0,
                       bad := if f = .t2b then t2bBad bs else 0 }
      (s1.writeOp t (spanDst v) (packCodes g (r.map (·.1)))).count t ev
  | _, _ => s.arrayFault t .unit

/-- CONVERT. -/
def execConvert (t : TileId) (s : State) : Host.Outcome State Fault Refusal := vuWord t 7 (fun a b v => vuConvert a b t v) s

/-- TOPK: the k largest of n values, then their indices; a length above 64 vectors raises UNIT_FAULT (R73, Table 3.17). -/
def vuTopk (k : Nat) (t : Nat) (v : VuSpan) (s : State) : State :=
  let n := 64 * (spanVectors v)
  if 64 < (spanVectors v) then s.arrayFault t .unit
  else if !inBank (spanSrc v) (4 * n) || !inBank (spanDst v) (8 * k) then s.spanFault t
  else
    let s1 := s.consumeOp t (spanSrc v) (4 * n)
    let ws := s1.opWords t (spanSrc v) n
    let ds := ws.map dec32
    let idx := topK k (ds.map (·.1))
    let vals := idx.map fun i =>
      let w := (ws[i]?).getD 0#32
      if (dec32 w).2 then (enc32 (dec32 w).1).1 else w
    (s1.writeOpWords t (spanDst v) (vals ++ idx.map (BitVec.ofNat 32))).count t { Ev.zero with arith := (ds.filter (·.2)).length }

/-- TOPK. -/
def execTopk (t : TileId) (s : State) : Host.Outcome State Fault Refusal := vuWord t 16 (fun a _ v => vuTopk (a + 1) t v) s

/-! ### SRAM port -/

/-- Where a read word that names byte `c` of the column reads. A word that names the unit at the start of the ring's unit store reads, in the fill and in beat
0 of a round, the tile's own unit of the round and segment; in a grouped phrase the segments begin at the entry's weights (R151, R152, R154, R202). DESIGN
CHOICE: the schedule word names the store's first unit for whichever unit is the tile's own (log entry 172). -/
def State.unitByte (s : State) (t c : Nat) : Nat :=
  match s.poundOf t with
  | none => c
  | some hp =>
    let p := (s.basin hp.1).pound hp.2
    let base := s.runBase (tileBasin t)
    let a0 := base + p.pdef.ring.staticBase
    match p.phrase with
    | none => c
    | some ph =>
      if !p.phraseOn || decide (c < a0) || decide (a0 + p.plan.unitBytes ≤ c) then c
      else
        let per := (phraseEntry (s.tile t).mem.sched (s.runSlot t) ph.phrase).2.2.1
        let first := if ph.kind = .grouped then Config.expertSegment (s.cutOf (tileBasin t)) ph.route.toNat ph.slot.toNat else 0
        match ownUnit p (s.ringPlace t hp).2 per (groupCount p.pdef.ring.g (s.phraseRows hp.1 p)) (s.tile t).core.cyc with
        | some (sg, u) => base + unitAddr p.pdef.ring p.plan (first + sg) u + (c - a0)
        | none => c

/-- A column span read into the operand buffer: outside the running context's share OVERFLOW_FAULT (R218); a damaged word
is recorded, taints the step and stays damaged where it goes (R213, R241, R624). -/
def sramRead (t : Nat) (column : BitVec 16) (bank : BitVec 2) (addr : BitVec 12) (len : BitVec 11) (s : State) : State :=
  let n := 128 * (len.toNat + 1)
  let c := s.unitByte t (128 * column.toNat)
  let a := opAddr bank addr
  if !s.inShare (tileBasin t) c n then s.arrayFault t .overflow
  else if !inBank a n then s.spanFault t
  else
    let m := (s.tile t).mem
    (s.consume t .column (c / 4) (n / 4)).moveOp t a (Memory.read m.column c n) (m.marks .column (c / 4) (n / 4))

/-- Schedule word SRAM, read. -/
def execSramRead (t : TileId) (s : State) : Host.Outcome State Fault Refusal :=
  .next (s.issueWord t fun o => match o with
    | .sram false column bank addr len => some (sramRead t column bank addr len)
    | _ => none)

/-- An operand-buffer span written to the column, only inside the dynamic region (R173, R218); a word's parity moves with
it unchanged (R213). -/
def sramWrite (t : Nat) (column : BitVec 16) (bank : BitVec 2) (addr : BitVec 12) (len : BitVec 11) (s : State) : State :=
  let n := 128 * (len.toNat + 1)
  let c := 128 * column.toNat
  let a := opAddr bank addr
  if !s.inDynamic (tileBasin t) c n then s.arrayFault t .overflow
  else if !inBank a n then s.spanFault t
  else
    let m := (s.tile t).mem
    (s.readHalves t a n).moveColumn t c (Memory.read m.opbuf a n) (m.marks .opbuf (a / 4) (n / 4))

/-- Schedule word SRAM, write. -/
def execSramWrite (t : TileId) (s : State) : Host.Outcome State Fault Refusal :=
  .next (s.issueWord t fun o => match o with
    | .sram true column bank addr len => some (sramWrite t column bank addr len)
    | _ => none)

end Sys2Proof.Machine
end

