-- ==== Sys2Proof/Machine/Router.lean ====
section
/-! DEFINITION. Routers, queue engines and the control words of a schedule: ROUTE (R106, R111, R123), queue flits (R98, R112-R116,
R127, R250), credits (R115), the work counter (R157-R160), gathers (R160, R202), LOOP and END (R101, R105, R162). Schedule words of a
pound come in the order of the cycles in which they issue (log entry 8). -/

namespace Sys2Proof.Machine

/-! ### Flits (R112, Table 3.7) -/

/-- The parity bit of a word: the 33 bits hold an odd number of ones (R212). -/
def parityBit (w : BitVec 32) : Bool := (List.range 32).foldl (fun a i => a ^^ w.getLsbD i) true

/-- The parity bits of a flit whose words are all good. -/
def goodParity (ws : List (BitVec 32)) : BitVec 16 :=
  BitVec.ofNat 16 ((List.range 16).foldl (fun a i => a + bit1 (parityBit ((ws[i]?).getD 0#32)) * 2 ^ i) 0)

/-- A mask of 16 words. -/
def wordMask (l : List Nat) : BitVec 16 := BitVec.ofNat 16 ((l.eraseDups.filter (· < 16)).foldl (fun a i => a + 2 ^ i) 0)

/-- Words of a flit whose parity fails. -/
def badWords (f : Flit) : List Nat := (List.range 16).filter fun i => f.parity.getLsbD i != parityBit ((f.payload[i]?).getD 0#32)

/-- Some word of a flit fails its parity. -/
def badFlit (f : Flit) : Bool := !(badWords f).isEmpty

/-- The 64 bytes of a flit. -/
def flitData (f : Flit) : List Byte := (List.range 16).flatMap fun i => natLe 4 ((f.payload[i]?).getD 0#32).toNat

/-- A flit of 16 words of a tile's operand buffer: each word's parity bit goes on unchanged (R213). -/
def opFlit (m : TileMem) (a : Nat) (epoch : BitVec 2) (queue : Bool) (qid : BitVec 8) (dst : Nat × Nat) (col : Nat) : Flit :=
  let ws := Memory.words m.opbuf a 16
  { payload := ws, parity := goodParity ws ^^^ wordMask (m.marks .opbuf (a / 4) 16), epoch := epoch, queue := queue, qid := qid,
    dstRow := BitVec.ofNat 5 dst.1, dstCol := BitVec.ofNat 5 dst.2, segOrigin := BitVec.ofNat 5 col }

/-! ### Links of the mesh -/

/-- Frame cycle of the link frame at phase p of the rack tick (R109). -/
def frameCycle (now p : Nat) : Nat := (10 * now + p) % 64

/-- An output of a tile gives frame cycle `f` to the tile's pound (R111, Table 3.5). -/
def Tile.given (x : Tile) (d : Side) (f : Nat) : Bool := (Tbl.get 0#64 (sideCode d) x.net.slots).getLsbD f

/-- The source of an output in a ROUTE word. -/
def RouteCfg.source (c : RouteCfg) : Side → RouteSrc
  | .north => c.n
  | .east => c.e
  | .south => c.s
  | .west => c.w

/-- The four sides in the order N, E, S, W. -/
def allSides : List Side := [.north, .east, .south, .west]

/-- Outputs that take their flit from a source. -/
def RouteCfg.outputs (c : RouteCfg) (x : RouteSrc) : List Side := allSides.filter fun d => c.source d == x

/-- Sides whose input register the word consumes. -/
def RouteCfg.consumed (c : RouteCfg) : List Side :=
  allSides.filter fun d => c.own == .side d || !(c.outputs (.side d)).isEmpty

/-- Flits that the word took of a side so far. -/
def RouteCfg.taken (c : RouteCfg) (d : Side) : Nat := Tbl.get 0 (sideCode d) c.used

/-- The word passes what comes by a side straight on. -/
def RouteCfg.straight (c : RouteCfg) (d : Side) : Bool := (c.outputs (.side d)).contains (oppositeSide d)

/-- A side lies on a row. -/
def eastWest (d : Side) : Bool := d == .east || d == .west

/-- The words of a ROUTE up to cycle `y` took a flit in each of their cycles from every side that they name (R106). -/
def RouteCfg.fed (c : RouteCfg) (y : Nat) : Bool := c.consumed.all fun d => decide (min c.cycles (y - c.start) ≤ c.taken d)

/-- The flits that stand in the input of a side, oldest first, each with its cycle of arrival. -/
def TileNet.input (n : TileNet) (d : Side) : List (Nat × Flit) := Tbl.get [] (sideCode d) n.inq

namespace State

/-- Out-of-service columns between the physical places of two logical columns of a row (R123). -/
def crossed (s : State) (r a b : Nat) : Nat :=
  let m := s.rowMap r
  let lo := min (m.physical a) (m.physical b)
  let hi := max (m.physical a) (m.physical b)
  ((List.range 34).filter fun c => m.out c && decide (lo < c) && decide (c < hi)).length

/-- Cycles from a flit's arrival by logical count to the moment at which the end router of its segment hands it on: the columns that it
crossed, and 2 - m cycles in the slack register, m counted from seg_origin and the row map (R123). -/
def slack (s : State) (t : Nat) (f : Flit) : Nat :=
  match s.position t with
  | some x => let m := s.crossed x.1 f.segOrigin.toNat x.2; m + (2 - m)
  | none => 2

/-- The cycle from which a ROUTE word of tile `t` can hand on a flit that came by side `d` at cycle `a`: a segment of a row that ends here takes
its logical length plus 2 cycles (R123). DEDUCED: a flit that goes straight on is handed on by logical count, under every row map (log
entry 44). -/
def readyAt (s : State) (t : Nat) (c : RouteCfg) (d : Side) (a : Nat) (f : Flit) : Nat :=
  if eastWest d && !c.straight d then a + s.slack t f else a

/-- A pound flit leaves by an output of tile `t`: seg_origin is the column where its segment along a row begins (R112). -/
def outFlit (s : State) (t : Nat) (from' : RouteSrc) (d : Side) (f : Flit) : Flit :=
  if eastWest d && from' != .side (oppositeSide d) then
    { f with segOrigin := BitVec.ofNat 5 (((s.position t).map (·.2)).getD 0) }
  else f

/-- A border filter refuses a flit in a cycle: it is discarded and counted on the sending side, and the pound of the context that sent it stops with
UNIT_FAULT (R32). -/
def borderDrop (s : State) (t : Nat) (hp : Option (Nat × Nat)) (cyc : Nat) : State :=
  (s.modBasin (tileBasin t) fun x => { x with drops := satAdd x.drops 1 }).faultOf t hp .unit cyc

end State

/-- Partial sums of a split-K pound added into the accumulator entries of block `blk`, in the order in which they arrive: FP32, or INT32
exactly in I8 mode (R70; log entry 29). -/
def addPartials (int : Bool) (base : Nat) (ws : List (BitVec 32)) (acc : Tbl (BitVec 32)) : Tbl (BitVec 32) × Ev :=
  (ws.zip (List.range ws.length)).foldl (fun a p =>
    let i := (base + p.2) % 32768
    let old := Tbl.get 0#32 i a.1
    let d := dec32 p.1
    let r := if int then addInt32 old p.1.toInt else addFp32 false old d.1
    (Tbl.set 0#32 i r.1 a.1, Ev.add a.2 (Ev.add r.2 (Ev.arith1 (!int && d.2))))) (acc, Ev.zero)

namespace State

/-- Partial sums of a split-K pound are added into accumulator block `blk`, from entry `off` of it: rows that hold an earlier operation's values start
anew, and the entries are read and written with their parity (R70, R83, R146). -/
def addIn (s : State) (t blk off : Nat) (ws : List (BitVec 32)) : State :=
  let n := ws.length
  let rows := (List.range 32).filter fun i => decide (off < 32 * i + 32) && decide (32 * i < off + n)
  let s1 := (s.modTile t fun y => y.freshRows blk rows).consume t .acc (1024 * blk + off) n
  s1.modTile t fun y =>
    let r := addPartials (Tbl.get .f8 blk y.core.accMode == .i8) (1024 * blk + off) ws y.mem.acc
    { y with mem := { (y.mem.cleared .acc (1024 * blk + off) n) with acc := r.1 }, cnt := y.cnt.count r.2 }

/-- The pound of tile `t` splits K (Table 3.3). -/
def splitsK (s : State) (t : Nat) : Bool :=
  match s.poundOf t with
  | some hp => ((s.basin hp.1).pound hp.2).pdef.splitK
  | none => false

/-- The tile's own input takes flit `k` of a ROUTE word: a foreign epoch is discarded with EPOCH_FAULT (R127); the words go to the operand
buffer with the parity that they carry (R213), and in a split-K pound into the word's accumulator block as partial sums (R70). -/
def takeOwn (s : State) (t : Nat) (c : RouteCfg) (k : Nat) (f : Flit) : State :=
  let a := c.dst.toNat + 64 * k
  if f.epoch ≠ (s.basin (tileBasin t)).cut.epoch then s.arrayFaultAt t (c.start + k) .epoch
  else if !inBank a 64 then s.arrayFaultAt t (c.start + k) .overflow
  else
    let s1 := s.moveOp t a (flitData f) (badWords f)
    match c.acc with
    | some blk => if s.splitsK t then (s1.consumeOp t a 64).addIn t blk (16 * k) f.payload else s1
    | none => s1

/-- A pound flit leaves tile `t` by output `d` in cycle `x` and arrives at the neighbour one cycle later: a ROUTE word there that is at work and
names the side takes it in the cycle that is its turn, and passes it on (R16, R111); else it waits in the input register. In a cycle in which
the register is empty the word raises UNIT_FAULT, a flit that meets a full register, which no word of the tile can take before, OVERFLOW_FAULT (R106). A
flit off the array's edge meets no link (R15). `n` bounds the hops. -/
def launch : Nat → State → Nat → Side → Nat → Flit → State
  | 0, s, _, _, _, _ => s
  | n + 1, s, t, d, x, f =>
    match s.neighbour t d with
    | none => s
    | some u =>
      if !s.borderOpen (tileBasin t) (tileBasin u) then s.borderDrop t (s.poundOf t) x
      else
        let side := oppositeSide d
        let y := s.tile u
        let meets := !(y.net.input side).isEmpty && (decide (x + 1 < y.core.cyc) || !y.core.inPhrase || y.core.stopped)
        let keep := s.modTile u fun z => { z with net := { z.net with inq := Tbl.mod [] (sideCode side) (· ++ [(x + 1, f)]) z.net.inq } }
        match y.net.route with
        | some c =>
          let k := c.taken side
          if c.consumed.contains side && decide (k < c.cycles) && (y.net.input side).isEmpty then
            let turn := c.start + k
            let r := s.readyAt u c side (x + 1) f
            if turn < r then s.arrayFaultAt u turn .unit
            else if 0 < k ∧ r + 1 < turn then s.arrayFaultAt u r .overflow
            else
              let s1 := s.modTile u fun z =>
                { z with net := { z.net with route := some { c with used := Tbl.set 0 (sideCode side) (k + 1) c.used } } }
              let s2 := if c.own == .side side then s1.takeOwn u c k f else s1
              (c.outputs (.side side)).foldl (fun v o => launch n v u o turn (v.outFlit u (.side side) o f)) s2
          else if meets then s.arrayFaultAt u (x + 1) .overflow
          else keep
        | none => if meets then s.arrayFaultAt u (x + 1) .overflow else keep

/-- A ROUTE word takes the flits that stand in the input of side `d`, one in each of its cycles while there are some: an empty register in its
first cycle, or a flit that comes after its cycle, raises UNIT_FAULT, one that came while the register was full OVERFLOW_FAULT (R106).
`n` bounds the flits. -/
def routeSide (t : Nat) (c : RouteCfg) (d : Side) : Nat → Nat → State → State
  | 0, _, s => s
  | n + 1, k, s =>
    match (s.tile t).net.input d with
    | [] => if k = 0 then s.arrayFault t .unit else s
    | e :: rest =>
      let turn := c.start + k
      if c.cycles ≤ k then s
      else if turn < s.readyAt t c d e.1 e.2 then s.arrayFaultAt t turn .unit
      else
        let full := match rest with | q :: _ => decide (s.readyAt t c d q.1 q.2 < turn) | [] => false
        let s1 := s.modTile t fun y => { y with net := { y.net with
          inq := Tbl.set [] (sideCode d) rest y.net.inq,
          route := y.net.route.map fun w => { w with used := Tbl.set 0 (sideCode d) (k + 1) w.used } } }
        if full then s1.arrayFaultAt t turn .overflow
        else
          let s2 := if c.own == .side d then s1.takeOwn t c k e.2 else s1
          let s3 := (c.outputs (.side d)).foldl (fun v o => launch 66 v t o turn (v.outFlit t (.side d) o e.2)) s2
          routeSide t c d n (k + 1) s3

/-- The tile's own flits of a ROUTE word: one in each of its cycles, 64 bytes each from its place in the operand buffer on. -/
def routeOwn (t : Nat) (c : RouteCfg) (s : State) : State :=
  let outs := c.outputs .tile
  if outs.isEmpty && c.own != .tile then s
  else if !inBank c.src.toNat (64 * c.cycles) then s.spanFault t
  else (List.range c.cycles).foldl (fun v k =>
    let a := c.src.toNat + 64 * k
    let v := v.readHalves t a 64
    let f := opFlit (v.tile t).mem a (v.basin (tileBasin t)).cut.epoch false 0 (0, 0) (((v.position t).map (·.2)).getD 0)
    let v1 := if c.own == .tile then v.takeOwn t c k f else v
    outs.foldl (fun w o => launch 66 w t o (c.start + k) (w.outFlit t .tile o f)) v1) s

end State

/-- A ROUTE word: the word before it must have found a flit in each of its cycles; an output driven in a frame cycle not given to the pound
raises UNIT_FAULT (R106, R111); each selected flit moves to the outputs and the own input that name it. `phase` is the phase of its first cycle within
the rack tick (R109; log entry 28). Where the tile's own flits come from and go to, and which accumulator block takes partial sums, the cut fixes
(log entries 27 and 29). -/
def routeWord (t : Nat) (n e w v own : RouteSrc) (cycles phase : Nat) (src dst : OpAddr) (acc : Option Nat) (s : State) : State :=
  let x := s.tile t
  let c : RouteCfg := { n := n, e := e, s := w, w := v, own := own, start := x.core.cyc, cycles := cycles, used := [], src := src,
                        dst := dst, acc := acc }
  let driven := allSides.filter fun d => c.source d != .none
  let given := driven.all fun d => (List.range cycles).all fun i =>
    let f := (frameCycle s.now phase + i) % 64
    f != 0 && x.given d f
  let fed := match x.net.route with | some o => o.fed x.core.cyc | none => true
  if !fed || !given then s.arrayFault t .unit
  else
    let s1 := s.modTile t fun y => { y with net := { y.net with route := some c } }
    let s2 := c.consumed.foldl (fun u d => State.routeSide t c d cycles 0 u) s1
    s2.routeOwn t c

/-- Schedule word ROUTE. -/
def execRoute (t : TileId) (phase : Fin 10) (src dst : OpAddr) (acc : Option (BitVec 5)) (s : State) : Host.Outcome State Fault Refusal :=
  .next (s.issueWord t fun o => match o with
    | .route n e w v own r => some (routeWord t n e w v own (r.toNat + 1) phase.val src dst (acc.map (·.toNat)))
    | _ => none)

/-! ### Queues (R97, R98, R112-R116) -/

namespace State

/-- The basin whose queue table holds queue `q` of the slice of basin `b` (R97). -/
def queueHome (s : State) (b q : Nat) : Option Nat := (s.sliceBasins b).find? fun h => decide (0 < ((s.basin h).queue q).depth)

/-- Queue `q` of the slice of basin `b`. -/
def queueOf (s : State) (b q : Nat) : Queue := match s.queueHome b q with | some h => (s.basin h).queue q | none => Queue.fresh

/-- Queue `q` of the slice of basin `b` changed by `f` where a table holds it. -/
def modQueueOf (s : State) (b q : Nat) (f : Queue → Queue) : State :=
  match s.queueHome b q with
  | some h => s.modBasin h fun x => x.modQueue q f
  | none => s

/-- The tiles of a queue's consumer pound in logical row-major order; none for fabric egress (R98). -/
def queueTiles (s : State) (q : Queue) : List Nat :=
  if q.consumer = 0xFF then [] else s.poundTiles (q.consumer / 16) (q.consumer % 16)

/-- The queue of a flit, in the queue table of its home basin. -/
def flitQueue (s : State) (f : QFlit) : Queue := (s.basin f.home).queue f.flit.qid.toNat

/-- The pound that pushes into a queue, when it is on this device. -/
def producerOf (q : Queue) : Option (Nat × Nat) := if q.producer = 0xFF then none else some (q.producer / 16, q.producer % 16)

end State

/-- The tile that stores flit `i` of a queue, striped flit by flit (R98). -/
def stripeTile (tiles : List Nat) (i : Nat) : Option Nat := if tiles.isEmpty then none else tiles[i % tiles.length]?

/-- Flits P(R) of a step of R rows (R626). -/
def flitsOf (q : Queue) (rows : Nat) : Nat := if rows = 0 then 0 else q.fixed + q.perBlock * ((rows + 31) / 32)

/-- Flits that each tile of the consumer holds: ceil(D / tiles) (R98). -/
def Queue.perTile (q : Queue) (tiles : Nat) : Nat := (q.depth + tiles - 1) / max 1 tiles

/-- The step that pushed flit `i` of a queue. -/
def Queue.stepAt (q : Queue) (i : Nat) : Option Nat :=
  (q.marks.find? fun m => decide (m.2.1 ≤ i) && decide (i < m.2.1 + m.2.2)).map (·.1)

/-- First flit of a step of a queue. -/
def Queue.first (q : Queue) (step : Nat) : Nat := ((q.marks.find? fun m => m.1 == step).map (·.2.1)).getD q.pushed

/-- `n` more flits of a step are pushed. -/
def Queue.push (q : Queue) (step n : Nat) : Queue :=
  let marks := if q.marks.any fun m => m.1 == step then q.marks.map fun m => if m.1 = step then (step, m.2.1, m.2.2 + n) else m
    else q.marks ++ [(step, q.pushed, n)]
  { q with pushed := q.pushed + n, marks := marks }

namespace State

/-- Flits of a step that the queue storage of a queue of the slice of basin `b` holds. -/
def queueHeld (s : State) (b i step : Nat) : Nat :=
  let q := s.queueOf b i
  ((s.queueTiles q).map fun t =>
    ((Tbl.get QPart.fresh i (s.tile t).net.queue).stored.filter fun e => q.stepAt e.1 == some step).length).foldl (· + ·) 0

/-- Byte of tile `t`'s column where place `slot` of a queue's storage lies: from offset store of the dynamic region (R98). -/
def queueByte (s : State) (t : Nat) (q : Queue) (slot : Nat) : Nat := (s.dynamicRange (tileBasin t)).1 + q.store + 64 * slot

/-- A queue flit is delivered: it goes into the tile's part of the queue storage, in the column, with the parity that it carries (R98, R213); a foreign epoch
raises EPOCH_FAULT (R127), a full part OVERFLOW_FAULT. -/
def deliver (s : State) (t : Nat) (g : QFlit) : State :=
  let b := tileBasin t
  let f := g.flit
  let i := f.qid.toNat
  let q := s.flitQueue g
  let tiles := s.queueTiles q
  if f.epoch ≠ (s.basin b).cut.epoch then s.arrayFault t .epoch
  else
    match tiles.idxOf? t with
    | none => s.arrayFault t .unit
    | some place =>
      let part := Tbl.get QPart.fresh i (s.tile t).net.queue
      let cap := q.perTile tiles.length
      if cap ≤ part.stored.length then s.arrayFault t .overflow
      else
        let slot := part.arrived % max 1 cap
        let e := (if q.producer = 0xFF then part.arrived * tiles.length + place else g.num, slot)
        let s1 := s.moveColumn t (s.queueByte t q slot) (flitData f) (badWords f)
        s1.modTile t fun x => { x with net := { x.net with
          queue := Tbl.set QPart.fresh i { part with arrived := part.arrived + 1, stored := part.stored ++ [e] } x.net.queue } }

end State

/-- The output by which a queue flit leaves a tile: along the row, then along the column (R113); none at its destination. -/
def queueOutput (r c dr dc : Nat) : Option Side :=
  if c < dc then some .east else if dc < c then some .west
  else if r < dr then some .south else if dr < r then some .north else none

/-- A QUEUE push: a step without the credits raises OVERFLOW_FAULT (R116), so does a full egress buffer of 128 flits
(R114); a replay takes no credits (R244). Each word's parity bit goes on unchanged, and a bad word taints the step (R213, R241). DESIGN CHOICE: the flits of
the word enter the egress buffer together (log entry 177). -/
def queuePush (t : Nat) (qid : BitVec 8) (bank : BitVec 2) (addr : BitVec 12) (n : Nat) (s : State) : State :=
  let a := opAddr bank addr
  let b := tileBasin t
  match s.poundOf t with
  | none => s.arrayFault t .unit
  | some hp =>
    let q := s.queueOf b qid.toNat
    let p := (s.basin hp.1).pound hp.2
    let credit := Tbl.get 0 qid.toNat p.credits
    let x := s.tile t
    if !p.pdef.outQ.contains qid.toNat then s.arrayFault t .unit
    else if !p.replaying && decide (credit < n) then s.arrayFault t .overflow
    else if 128 < x.net.egress.length + n then s.arrayFault t .overflow
    else if !inBank a (64 * n) then s.spanFault t
    else
      let s1 := s.consumeOp t a (64 * n)
      let tiles := s.queueTiles q
      let col := ((s.position t).map (·.2)).getD 0
      let home := (s.queueHome b qid.toNat).getD b
      let flits : List QFlit := (List.range n).map fun i =>
        let dst := ((stripeTile tiles (q.pushed + i)).bind fun u => s.position u).getD (0, 0)
        { flit := opFlit x.mem (a + 64 * i) (s.basin b).cut.epoch true qid dst col, home := home, step := p.step, num := q.pushed + i }
      let s2 := s1.modQueueOf b qid.toNat fun y => y.push p.step n
      let s3 := if p.replaying then s2 else
        s2.modPound hp.1 hp.2 fun y => { y with credits := Tbl.set 0 qid.toNat (credit - n) y.credits }
      let here := fun (f : QFlit) => q.consumer != 0xFF && (s.position t == some (f.flit.dstRow.toNat, f.flit.dstCol.toNat))
      let s4 := s3.modTile t fun y => { y with net := { y.net with egress := y.net.egress ++ flits.filter fun f => !here f } }
      (flits.filter here).foldl (fun u f => u.deliver t f) s4

/-- Schedule word QUEUE, push. -/
def execQueuePush (t : TileId) (s : State) : Host.Outcome State Fault Refusal :=
  .next (s.issueWord t fun o => match o with
    | .queue false qid bank addr n => some (queuePush t qid bank addr (n.toNat + 1))
    | _ => none)

/-- A QUEUE pop from the tile's part of the queue storage: a queue that holds fewer flits of the step raises UNIT_FAULT (R116); the popped
flits stay in storage until the seal (R243); their words keep their parity (R213). `acc` names the accumulator block into which a pop of a
split-K pound adds partial sums (R70; log entry 29). -/
def queuePop (t : Nat) (qid : BitVec 8) (bank : BitVec 2) (addr : BitVec 12) (n : Nat) (acc : Option Nat) (s : State) : State :=
  let a := opAddr bank addr
  let b := tileBasin t
  let i := qid.toNat
  let q := s.queueOf b i
  match s.poundOf t with
  | none => s.arrayFault t .unit
  | some hp =>
    let p := (s.basin hp.1).pound hp.2
    let part := Tbl.get QPart.fresh i (s.tile t).net.queue
    let mine := part.stored.filter fun e => q.stepAt e.1 == some p.step
    let got := (mine.drop part.taken).take n
    if !p.pdef.inQ.contains i || decide (got.length < n) then s.arrayFault t .unit
    else if !inBank a (64 * n) then s.spanFault t
    else
      let m := (s.tile t).mem
      let s1 := (got.zip (List.range n)).foldl (fun u e =>
        let c := s.queueByte t q e.1.2
        (u.consume t .column (c / 4) 16).moveOp t (a + 64 * e.2) (Memory.read m.column c 64) (m.marks .column (c / 4) 16)) s
      let s2 := s1.modTile t fun y => { y with net := { y.net with
        queue := Tbl.set QPart.fresh i { part with taken := part.taken + n } y.net.queue } }
      let s3 := s2.modQueueOf b i fun y => { y with popped := y.popped + n }
      match acc with
      | some blk =>
        if s3.splitsK t then (s3.consumeOp t a (64 * n)).addIn t blk 0 (Memory.words (s3.tile t).mem.opbuf a (16 * n)) else s3
      | none => s3

/-- Schedule word QUEUE, pop. -/
def execQueuePop (t : TileId) (acc : Option (BitVec 5)) (s : State) : Host.Outcome State Fault Refusal :=
  .next (s.issueWord t fun o => match o with
    | .queue true qid bank addr n => some (queuePop t qid bank addr (n.toNat + 1) (acc.map (·.toNat)))
    | _ => none)

/-! ### Queue flits in flight -/

namespace State

/-- A queue flit stands at tile `t`: delivered at its destination, or held on its way (R113). -/
def queueFlitAt (s : State) (t : Nat) (f : QFlit) : State :=
  match s.position t with
  | none => s
  | some pos =>
    match queueOutput pos.1 pos.2 f.flit.dstRow.toNat f.flit.dstCol.toNat with
    | some _ => s.modTile t fun x => { x with net := { x.net with transit := x.net.transit ++ [f] } }
    | none => s.deliver t f

/-- A queue flit of tile `u` leaves by output `d`. -/
def leavesBy (s : State) (u : Nat) (d : Side) (f : QFlit) : Bool :=
  (s.flitQueue f).consumer != 0xFF &&
    match s.position u with
    | some pos => queueOutput pos.1 pos.2 f.flit.dstRow.toNat f.flit.dstCol.toNat == some d
    | none => false

/-- A queue flit that a border filter refuses: the pound that pushed it stops (R32). -/
def queueDrop (s : State) (u : Nat) (f : QFlit) : State := s.borderDrop u (producerOf (s.flitQueue f)) (s.tile u).core.cyc

end State

/-- The last 32 queue flits that an output sent (R250). -/
def keepLast (l : List QFlit) (f : QFlit) : List QFlit := (l ++ [f]).drop ((l ++ [f]).length - 32)

/-- A queue flit as a link delivers it: `flip` are the parity bits that no longer fit. -/
def struck (f : QFlit) (flip : BitVec 16) : QFlit := { f with flit := { f.flit with parity := f.flit.parity ^^^ flip } }

/-- The next queue flit of the neighbour on a side arrives: one on its way goes first, else one of the egress buffer, which the queue engine
launches only in a frame cycle that the queue's launch mask allows (R113, R114). An output in a cycle given to pound traffic discards it with
OVERFLOW_FAULT (R113), a closed border as R32 says. With a parity error the router signals the sender and discards what follows on that
link until the replay (R250); else it is forwarded or stored. -/
def queueFlitArrival (t : Nat) (side : Side) (phase : Nat) (flip : BitVec 16) (s : State) : State :=
  match s.neighbour t side with
  | none => s
  | some u =>
    let d := oppositeSide side
    let x := s.tile u
    let fc := frameCycle s.now phase
    let ready := fun (f : QFlit) => (s.flitQueue f).launch.getLsbD fc
    let pick : Option (Bool × QFlit) :=
      match x.net.transit.find? fun f => s.leavesBy u d f with
      | some f => some (true, f)
      | none => (x.net.egress.find? fun f => s.leavesBy u d f && ready f).map fun f => (false, f)
    match pick with
    | none => s
    | some (moving, f) =>
      if fc = 0 then s
      else
        let gone := s.modTile u fun y => { y with net := if moving then { y.net with transit := y.net.transit.erase f }
          else { y.net with egress := y.net.egress.erase f } }
        if x.given d fc then gone.arrayFault u .overflow
        else
          let s1 := gone.modTile u fun y => { y with net := { y.net with last := Tbl.mod [] (sideCode d) (keepLast · f) y.net.last } }
          if !s.borderOpen (tileBasin u) (tileBasin t) then
            s1.queueDrop u f
          else
            let wait := fun k => s1.modTile t fun y =>
              { y with net := { y.net with replayFrom := Tbl.set none (sideCode side) (some k) y.net.replayFrom } }
            match Tbl.get none (sideCode side) (s.tile t).net.replayFrom with
            | some k => wait (k + 1)
            | none =>
              let g := struck f flip
              if badFlit g.flit then wait 0
              else s1.queueFlitAt t g

/-- QUEUE_FLIT_ARRIVAL. -/
def execQueueFlitArrival (t : TileId) (side : Side) (phase : Fin 10) (flip : BitVec 16) (s : State) : Host.Outcome State Fault Refusal :=
  .next (queueFlitArrival t side phase.val flip s)

/-- The link replay, in the next cycle that the queue's launch mask allows: the errored flit again, then every queue flit that the output sent
after it, in order; counted in BSN_PAR_LINK and charged (R250, R257). A flit that fails again is delivered with its parity and taints its
consumer (Table 6.10). A border that has closed meanwhile refuses them (R31, R32). -/
def meshLinkReplay (t : Nat) (side : Side) (phase : Nat) (flip : BitVec 16) (s : State) : State :=
  match Tbl.get none (sideCode side) (s.tile t).net.replayFrom, s.neighbour t side with
  | some k, some u =>
    let d := oppositeSide side
    let fc := frameCycle s.now phase
    let sent := Tbl.get [] (sideCode d) (s.tile u).net.last
    match sent.drop (sent.length - (k + 1)) with
    | [] => s
    | e :: after =>
    if fc = 0 ∨ (s.flitQueue e).launch.getLsbD fc = false then s
    else
      let b := tileBasin t
      let s1 := s.modTile t fun x =>
        { x with net := { x.net with replayFrom := Tbl.set none (sideCode side) none x.net.replayFrom } }
      let s2 := s1.modBasin b fun x =>
        let y := match x.running with | some c => x.chargeParity c 6 1 | none => x
        { y with par := { y.par with link := satAdd y.par.link 1 } }
      if (s.tile u).given d fc then s2.arrayFault u .overflow
      else (struck e flip :: after).foldl (fun v g =>
        if v.borderOpen (tileBasin u) b then v.queueFlitAt t g else v.queueDrop u g) s2
  | _, _ => s

/-- MESH_LINK_REPLAY. -/
def execMeshLinkReplay (t : TileId) (side : Side) (phase : Fin 10) (flip : BitVec 16) (s : State) : Host.Outcome State Fault Refusal :=
  .next (meshLinkReplay t side phase.val flip s)

/-- Credits that the consumer owes reach the producer's sequencer (R115, R243). QUEUE_HOLD only delays the row (R617). -/
def creditReturn (b p qid n : Nat) (s : State) : State :=
  let q := s.queueOf b qid
  let k := min n q.owed
  (s.modQueueOf b qid fun x => { x with owed := x.owed - k }).modPound b p fun y =>
    { y with credits := Tbl.set 0 qid (min q.depth (Tbl.get 0 qid y.credits + k)) y.credits }

/-- CREDIT_RETURN. -/
def execCreditReturn (b : BasinId) (p : PoundId) (qid : BitVec 8) (credits : Nat) (s : State) :
    Host.Outcome State Fault Refusal := .next (creditReturn b p qid.toNat credits s)

/-! ### Work counter, gathers, loops, phrase end -/

namespace State

/-- Step parameter `i` of a tile's phrase. -/
def spReg (s : State) (t i : Nat) : Nat := (Tbl.get 0#32 i (s.tile t).core.sp).toNat

/-- The phrase-table entry of the phrase that tile `t` runs (R100). -/
def tileEntry (s : State) (t phrase : Nat) : Nat × Nat × Nat × Nat := phraseEntry (s.tile t).mem.sched (s.runSlot t) phrase

end State

/-- A COUNTER word claims a row group: the old value of its lane into the named register, rows_i into the next (R157, R158). It counts for the
first rotation in the phrase's fill, for rotation n + 1 in the first beat of rotation n (R159); elsewhere, and in a STATIONARY pound, it claims
nothing (R154, R159). -/
def counterWord (t : Nat) (reg : Fin 16) (increment : BitVec 16) (s : State) : State :=
  match s.poundOf t with
  | none => s
  | some hp =>
    let p := (s.basin hp.1).pound hp.2
    match p.phrase with
    | none => s
    | some ph =>
      let x := (s.tile t).core
      let q := ringSize p.pdef.ring
      let e := s.tileEntry t ph.phrase
      match claimFor p.plan q e.2.2.1 (s.spReg t e.2.2.2) x.cyc with
      | none => s
      | some m =>
        if p.pdef.ring.shape = 0 ∨ m < x.claims then s
        else
          let rows := s.phraseRows hp.1 p
          let sg := m / max 1 (passesOf q (State.groupCount p.pdef.ring.g rows))
          let lanes := p.lanesFor sg
          let lane := (s.ringPlace t hp).1
          let i := Tbl.get 0 lane lanes
          let n := groupRows p.pdef.ring.g rows i
          let s1 := s.modPound hp.1 hp.2 fun y => { y with laneSeg := max y.laneSeg sg, lanes := Tbl.set 0 lane (i + increment.toNat) lanes }
          s1.modTile t fun y => { y with core := { y.core with
            claims := m + 1, ops := y.core.ops ++ [{ seg := sg, group := i, rows := n }],
            regs := Tbl.set 0#32 ((reg.val + 1) % 16) (BitVec.ofNat 32 n) (Tbl.set 0#32 reg.val (BitVec.ofNat 32 i) y.core.regs) } }

/-- Schedule word COUNTER. -/
def execCounter (t : TileId) (s : State) : Host.Outcome State Fault Refusal :=
  .next (s.issueWord t fun o => match o with
    | .counter reg inc => some (counterWord t reg inc)
    | _ => none)

/-- Elements of a row of `n` bytes in a format: 32 elements of an MX format take one scale byte besides (R49). -/
def rowElems (f : Fmt) (n : Nat) : Nat :=
  match f with
  | .t2b => 5 * n
  | .e3m2 | .e2m3 | .e2m1 | .mxi => 32 * n / (4 * fmtBits f + 1)
  | _ => 8 * n / fmtBits f

/-- A format whose activation blocks carry 32 scale bytes (R58). -/
def blockScaled (f : Fmt) : Bool := f == .e3m2 || f == .e2m3 || f == .e2m1 || f == .mxi

/-- Rows in a format as row blocks of 32 rows: activation blocks of 32 x 32 elements in K order, in MX formats with a scale byte a row after
the elements (R58). -/
def rowBlocksOf (f : Fmt) (rows : List (List Byte)) : List Byte :=
  let k := rowElems f ((rows.map List.length).foldl max 0)
  let blocks := (rows.length + 31) / 32
  let row := fun i => (rows[i]?).getD []
  let code := fun (r : List Nat) j => (r[j]?).getD 0
  (List.range blocks).flatMap fun b =>
    let part := (List.range 32).map fun i => (unpackCodes f k (row (32 * b + i)), (row (32 * b + i)).drop (packedBytes f k))
    (List.range ((k + 31) / 32)).flatMap fun kb =>
      packCodes f (part.flatMap fun r => (List.range 32).map fun j => code r.1 (32 * kb + j)) ++
        (if blockScaled f then part.map fun r => (r.2[kb]?).getD 0 else [])

/-- A row with every bit of the words `l` turned over, which shows where those words' elements go. -/
def struckRow (l : List Nat) (row : List Byte) : List Byte := row.mapIdx fun i v => if l.contains (i / 4) then ~~~v else v

/-- Place of a row of the dispatch buffer among its peer's records. -/
def recordOf (rows : List (Nat × Nat × DispatchRec)) (r : Nat × Nat × DispatchRec) : Nat :=
  (rows.filter fun q => q.2.1 == r.2.1 && decide (q.1 < r.1)).length

namespace State

/-- The bytes that a gather collects, with the words among them that are damaged: flits [first, first + n) of the step from the queue storage of
every tile of the pound (R160), or in a grouped phrase the rows that the entry's token list names (R202); none while they are not held. -/
def gatherData (s : State) (hp : Nat × Nat) (o : TileOp) (qid first n : Nat) : Option (List Byte × List Nat) :=
  let p := (s.basin hp.1).pound hp.2
  let grouped := p.phrase.bind fun ph => if ph.kind = .grouped then some ph else none
  match grouped with
  | some ph =>
    let k := (s.basin hp.1).routeStep p.ctx ph.route.toNat (p.step % 2 ^ 32)
    let rr := (s.basin hp.1).route p.ctx ph.route.toNat
    let l := ((k.admitted.find? fun e => e.1 == ph.slot.toNat).map (·.2)).getD []
    let rows := dispatchRows k rr.peers
    let mine := (l.drop (32 * p.pdef.ring.g * o.group)).take o.rows
    let lay := rowBlocksOf ((fmtOfCode rr.dispatchFmt).getD .fp32)
    let good := mine.map fun q => ((rows.find? fun r => r.1 == q.1).map (·.2.2.row)).getD []
    let bs := lay good
    let off := lay (mine.map fun q => match rows.find? fun r => r.1 == q.1 with
      | some r => struckRow ((k.rowBad.filter fun w => w.1 == r.2.1 && w.2.1 == recordOf rows r).map (·.2.2)) r.2.2.row
      | none => [])
    some (bs, (List.range ((bs.length + 3) / 4)).filter fun i => (bs.drop (4 * i)).take 4 != (off.drop (4 * i)).take 4)
  | none =>
    let q := s.queueOf hp.1 qid
    let tiles := s.poundTiles hp.1 hp.2
    let place := fun i =>
      let g := q.first p.step + first + i
      (stripeTile tiles g).bind fun u =>
        ((Tbl.get QPart.fresh qid (s.tile u).net.queue).stored.find? fun e => e.1 == g).map fun e => (u, s.queueByte u q e.2)
    let l := (List.range n).map place
    if !p.pdef.inQ.contains qid || l.any (·.isNone) then none
    else
      let at_ := l.filterMap id
      some (at_.flatMap fun u => Memory.read (s.tile u.1).mem.column u.2 64,
        ((at_.zip (List.range n)).flatMap fun u => ((s.tile u.1.1).mem.marks .column (u.1.2 / 4) 16).map (· + 16 * u.2)))

end State

/-- First flit and number of flits of row group `i` in a queue of a step: perBlock flits for each of its row blocks, after the fixed ones (R98, R626). DESIGN
CHOICE: the spec does not say which flits of the step make up a row group (log entry 180). -/
def groupFlits (q : Queue) (g rows i : Nat) : Nat × Nat :=
  (q.fixed + q.perBlock * (g * i), q.perBlock * ((groupRows g rows i + 31) / 32))

/-- The gather of a granted claim completes in one of the claimant's two staging areas, taken in turn, within the rotation that precedes the group's use:
beyond stage_bytes, or outside the dynamic region, OVERFLOW_FAULT (R160, R173). The flits are those of the claimed group, `area` is which of the two areas
it is, and `column` where it lies, the same place throughout the phrase (log entry 180); words keep their parity (R213). -/
def gatherComplete (t : Nat) (area : Bool) (column qid first n : Nat) (s : State) : State :=
  match s.poundOf t with
  | none => s
  | some hp =>
    let p := (s.basin hp.1).pound hp.2
    let x := (s.tile t).core
    let stationary := p.pdef.ring.shape == 0
    let op : Option TileOp :=
      if stationary then some { seg := 0, group := x.gathers, rows := s.iterRows hp x.gathers }
      else if x.gathers < x.claims then x.ops[x.gathers + x.ops.length - x.claims]? else none
    match op with
    | none => s
    | some o =>
      match s.gatherData hp o qid first n with
      | none => s
      | some (bs, bad) =>
        let grouped := (p.phrase.map fun ph => ph.kind == .grouped).getD false
        let want := groupFlits (s.queueOf hp.1 qid) (max 1 p.pdef.ring.g) (s.phraseRows hp.1 p) o.group
        let per := ((p.phrase.map fun ph => (s.tileEntry t ph.phrase).2.2.1).getD 0)
        let k := bit1 area
        let placed := Tbl.get none k (x.stage.map fun e => (e.1, some e.2))
        if area != decide (x.gathers % 2 = 1) || !p.phraseOn || (!grouped && (first, n) != want) || placed.any (· != column) ||
            decide (p.plan.fill + per * x.gathers < x.cyc) then s
        else if p.pdef.ring.stageBytes < bs.length || !s.inDynamic (tileBasin t) column bs.length then s.arrayFault t .overflow
        else (s.moveColumn t column bs bad).modTile t fun y => { y with core := { y.core with
          gathers := y.core.gathers + 1, stage := Tbl.set 0 k column y.core.stage } }

/-- GATHER_COMPLETE. -/
def execGatherComplete (t : TileId) (area : Bool) (column : BitVec 23) (qid : BitVec 8) (first flits : Nat) (s : State) :
    Host.Outcome State Fault Refusal := .next (gatherComplete t area column.toNat qid.toNat first flits s)

/-- A LOOP word at word `i`: the words before it issue as many more times as the count says, immediate or from a schedule register
(Table 3.6; log entry 45). -/
def loopWord (t i : Nat) (wordsMinus1 : BitVec 6) (fromReg : Bool) (count : BitVec 16) (s : State) : State :=
  s.modTile t fun x =>
    let n := if fromReg then (Tbl.get 0#32 (count.toNat % 16) x.core.regs).toNat else count.toNat
    let left := Tbl.get 0 i x.core.loops
    let back := { x.core with pc := i - (wordsMinus1.toNat + 1) }
    let core := match left with
      | 0 => if n = 0 then x.core else { back with loops := Tbl.set 0 i n x.core.loops }
      | 1 => { x.core with loops := Tbl.set 0 i 0 x.core.loops }
      | k + 1 => { back with loops := Tbl.set 0 i k x.core.loops }
    { x with core := core }

/-- Schedule word LOOP. -/
def execLoop (t : TileId) (s : State) : Host.Outcome State Fault Refusal :=
  .next (s.issueWord t fun o => match o with
    | .loop n fromReg count => some (loopWord t (s.tile t).core.pc n fromReg count)
    | _ => none)

/-- The commit bitmap of a ring pound's phrase holds every index (R154, R162). -/
def commitsWhole (s : State) (h : Nat) (p : Pound) : Bool := p.pdef.ring.shape == 0 || decide (s.phraseOps h p ≤ p.commits.length)

/-- The grouped phrase of a route's last entry has ended in its last drains: the combine messages leave (R205, R206). -/
def groupedEnd (b : Nat) (p : Pound) (s : State) : State :=
  match p.phrase with
  | some ph =>
    if ph.kind = .grouped then
      let k := (s.basin b).routeStep p.ctx ph.route.toNat (p.step % 2 ^ 32)
      if k.moored && allFanned k then sendCombine b p.ctx ph.route.toNat (p.step % 2 ^ 32) s else s
    else s
  | none => s

/-- END: the tile's part of the phrase ends, in the last cycle of the phrase length, else UNIT_FAULT (R105); a ROUTE word that found no flit in one of
its cycles raises it too (R106). With the last tile's END the pound's phrase ends: a commit bit still clear raises UNIT_FAULT (R162). -/
def endOfPhrase (t : Nat) (s : State) : State :=
  let x := s.tile t
  let fed := match x.net.route with | some c => c.fed x.core.len | none => true
  if x.core.cyc + 1 ≠ x.core.len ∨ fed = false then s.arrayFault t .unit
  else if State.overwritten x (x.core.cyc + 1) then s.arrayFault t .overflow
  else
    let s1 := s.modTile t fun y =>
      let freed := match (y.core.phrase.bind (·.half)) with
        | some h => Tbl.set 0 (if h then 1 else 0) 0 y.core.halves
        | none => y.core.halves
      let came := match (y.core.phrase.bind (·.half)) with
        | some h => Tbl.set 0 (bit1 h) 0 y.core.came
        | none => y.core.came
      { y with core := { y.core with inPhrase := false, loops := [], pack := none, halves := freed, came := came }, net := { y.net with route := none } }
    match s.poundOf t with
    | none => s1
    | some hp =>
      let p := (s.basin hp.1).pound hp.2
      if !p.phraseOn || (s1.poundTiles hp.1 hp.2).any fun u => (s1.tile u).core.inPhrase then s1
      else
        let s2 := s1.modPound hp.1 hp.2 fun q => { q with phraseOn := false }
        if !commitsWhole s2 hp.1 p then s2.arrayFault t .unit else groupedEnd hp.1 p s2

end Sys2Proof.Machine
end

