-- ==== Sys2Proof/Machine/Lpddr.lean ====
section
/-! DEFINITION. LPDDR5X of a basin and its line cache: where data and parity lines lie (R225, R228), parity at the controller (R213, R226), the
cache (R230-R233), pages (R228, R236) and the KV directory in memory (R239). -/

namespace Sys2Proof.Machine

/-! ### Lines of a channel (R225, R228) -/

namespace State

/-- Data lines D of a channel: 32 x P parity lines of 33 lines each (R225, Table 6.3). -/
def dataLines (s : State) : Nat := 32 * (2 ^ (30 + s.memDev.density.toNat) / 128 / 33)

/-- Data lines of a basin: four channels of D. -/
def basinLines (s : State) : Nat := 4 * s.dataLines

/-- Pages of LPDDR5X that a basin has (R225, R227). -/
def poolPages (s : State) : Nat := s.dataLines / 128

end State

/-- Channel, within its basin, and channel line of a basin's data line `n`: chunk j of page p lies in channel j mod 4, at data lines
(4p + j div 4) x 32 upward (R228). -/
def linePlace (n : Nat) : Nat × Nat := (n / 32 % 4, (4 * (n / 512) + n / 128 % 4) * 32 + n % 32)

/-- Channel, channel line and byte of the parity bits of a basin's data line `n`, with D data lines a channel: parity line q of the channel at
line D + q, bytes 4r to 4r + 3 for data line 32q + r (R225). -/
def parityPlace (d n : Nat) : Nat × Nat × Nat := ((linePlace n).1, d + (linePlace n).2 / 32, 4 * ((linePlace n).2 % 32))

/-- Basin line number of the parity line that holds the parity of data line `n`. DESIGN CHOICE: parity lines are numbered after the basin's data
lines, in the order of the 4 KiB chunks that they cover (log entry 48). -/
def parityLine (dl n : Nat) : Nat := dl + n / 32

/-- Parity bits of the 32 words of a line: bit i is that of word i (R212, R225). -/
def lineParity (bs : List Byte) : BitVec 32 :=
  BitVec.ofNat 32 ((List.range 32).foldl (fun a i =>
    a + bit1 (parityBit (BitVec.ofNat 32 (leNat ((bs.drop (4 * i)).take 4)))) * 2 ^ i) 0)

/-- Parity of a line of zeros: every word carries 1. -/
def zeroParity : BitVec 32 := 0xFFFFFFFF#32

namespace Basin

/-- The parity bits of data line `n` in its parity line; an unlisted one is that of a line of zeros (log entry 1). -/
def parOf (x : Basin) (n : Nat) : BitVec 32 := Tbl.get zeroParity n x.dram.par

/-- A line of LPDDR5X by its basin line number, of which `dl` are data lines. -/
def memLine (x : Basin) (dl n : Nat) : List Byte :=
  if n < dl then Memory.read x.dram.mem (128 * n) 128
  else (List.range 32).flatMap fun r => natLe 4 (x.parOf (32 * (n - dl) + r)).toNat

/-- Way `w` of set `k` of the line cache. -/
def way (x : Basin) (k w : Nat) : LcLine := Tbl.get LcLine.fresh (16 * k + w) x.dram.cache

/-- Way `w` of set `k` replaced. -/
def setWay (x : Basin) (k w : Nat) (l : LcLine) : Basin :=
  { x with dram := { x.dram with clock := x.dram.clock + 1, cache := Tbl.set LcLine.fresh (16 * k + w) l x.dram.cache } }

/-- The way that holds line `n` for context `c` (R230). -/
def cached (x : Basin) (c n : Nat) : Option Nat :=
  (List.range 16).find? fun w => (x.way (n % 4096) w).line == n && (x.way (n % 4096) w).ctx == c

/-- The ways in which context `c` may allocate now (R232, R233). -/
def myWays (x : Basin) (c : Nat) : List Nat := (List.range 16).filter fun w => (x.ways c).getLsbD w && !x.dram.moving.getLsbD w

/-- The parity bits of a data line written: into its parity line in the cache, where the cache holds it, else into LPDDR5X (R226). -/
def setPar (x : Basin) (dl c n : Nat) (v : BitVec 32) : Basin :=
  let g := parityLine dl n
  match x.cached c g with
  | some w =>
    let l := x.way (g % 4096) w
    let bs := l.bytes.take (4 * (n % 32)) ++ natLe 4 v.toNat ++ l.bytes.drop (4 * (n % 32) + 4)
    x.setWay (g % 4096) w { l with dirty := true, age := x.dram.clock + 1, bytes := bs, par := lineParity bs }
  | none => { x with dram := { x.dram with par := Tbl.set zeroParity n v x.dram.par } }

/-- The parity bits of a data line as context `c` reads them. -/
def getPar (x : Basin) (dl c n : Nat) : BitVec 32 :=
  let g := parityLine dl n
  match x.cached c g with
  | some w => BitVec.ofNat 32 (leNat (((x.way (g % 4096) w).bytes.drop (4 * (n % 32))).take 4))
  | none => x.parOf n

/-- A line goes to LPDDR5X: a data line with its parity bits (R226), a parity line as 32 of them. -/
def toDram (x : Basin) (dl : Nat) (l : LcLine) : Basin :=
  if l.line < dl then
    ({ x with dram := { x.dram with mem := Memory.write x.dram.mem (128 * l.line) l.bytes } }).setPar dl l.ctx l.line l.par
  else (List.range 32).foldl (fun y r => { y with dram := { y.dram with
    par := Tbl.set zeroParity (32 * (l.line - dl) + r) (BitVec.ofNat 32 (leNat ((l.bytes.drop (4 * r)).take 4))) y.dram.par } }) x

/-- The way that a miss of context `c` on line `n` takes: the least recently used of its ways; an empty one first. -/
def victim (x : Basin) (c n : Nat) : Option Nat :=
  let age := fun w => if (x.way (n % 4096) w).ctx = 4 then 0 else (x.way (n % 4096) w).age + 1
  (x.myWays c).foldl (fun best w => match best with
    | some v => if age w < age v then some w else some v
    | none => some w) none

/-- A line is put into the cache; a dirty line that it replaces is written back (R230). -/
def allocate (x : Basin) (dl c n : Nat) (dirty : Bool) (bs : List Byte) (par : BitVec 32) : Basin :=
  match x.victim c n with
  | none => x
  | some w =>
    let old := x.way (n % 4096) w
    let y := if old.dirty then x.toDram dl old else x
    y.setWay (n % 4096) w { line := n, ctx := c, dirty := dirty, age := y.dram.clock + 1, bytes := bs, par := par }

/-- A line that a context with no ways reads, or that a barge of weights reads past the cache. -/
def rawLine (x : Basin) (dl c n : Nat) : List Byte × BitVec 32 := (x.memLine dl n, if n < dl then x.getPar dl c n else lineParity (x.memLine dl n))

/-- A line as context `c` reads it: the copy in the cache, else LPDDR5X. -/
def lookLine (x : Basin) (dl c n : Nat) : List Byte × BitVec 32 :=
  match x.cached c n with
  | some w => ((x.way (n % 4096) w).bytes, (x.way (n % 4096) w).par)
  | none => x.rawLine dl c n

/-- A read of line `n` by context `c` through the cache: a hit ages it, a miss fetches the parity line and the line; a context with no ways goes
uncached (R230-R232). -/
def touchLine (x : Basin) (dl c n : Nat) : Basin :=
  match x.cached c n with
  | some w => x.setWay (n % 4096) w { x.way (n % 4096) w with age := x.dram.clock + 1 }
  | none =>
    if (x.myWays c).isEmpty then x
    else
      let g := parityLine dl n
      let y := if n < dl ∧ (x.cached c g).isNone then x.allocate dl c g false (x.memLine dl g) (lineParity (x.memLine dl g)) else x
      y.allocate dl c n false (y.rawLine dl c n).1 (y.rawLine dl c n).2

/-- Lines of bytes [a, a + n). -/
def linesOf (a n : Nat) : List Nat := (List.range ((a + n + 127) / 128 - a / 128)).map (a / 128 + ·)

/-- Bytes [a, a + n) as context `c` reads them, without their effect on the cache. -/
def peek (x : Basin) (dl c a n : Nat) : List Byte :=
  (((linesOf a n).flatMap fun l => (x.lookLine dl c l).1).drop (a % 128)).take n

/-- The reads of bytes [a, a + n) by context `c` act on the cache. -/
def touch (x : Basin) (dl c a n : Nat) : Basin := (linesOf a n).foldl (fun y l => y.touchLine dl c l) x

/-- The parity lines of bytes [a, a + n) are read through the cache, as those of a barge of weights are, whose data lines bypass it (R231). -/
def touchParity (x : Basin) (dl c a n : Nat) : Basin := ((linesOf a n).map (parityLine dl)).eraseDups.foldl (fun y g => y.touchLine dl c g) x

/-- Words of a line whose parity fails. -/
def badWordsOf (l : List Byte × BitVec 32) : List Nat := (List.range 32).filter fun i => l.2.getLsbD i != (lineParity l.1).getLsbD i

/-- A line of bytes [a, a + n) fails its parity as context `c` reads it, or fails this one read (R226, R617). -/
def lineBad (x : Basin) (dl c a n : Nat) : Bool :=
  (linesOf a n).any fun l => !(badWordsOf (x.lookLine dl c l)).isEmpty || x.dram.flaky.contains l

/-- Bytes of one line written from byte `off` of it, with the parity that they bring: words in `bad` arrive damaged (R213). A whole line is
allocated; less than a line is written where the line is (R230). A write past the cache drops the copy there. -/
def writeLine (x : Basin) (dl c n off : Nat) (bs : List Byte) (bad : List Nat) (bypass : Bool) : Basin :=
  let old := x.lookLine dl c n
  let new := old.1.take off ++ bs ++ old.1.drop (off + bs.length)
  let good := lineParity new
  let par := BitVec.ofNat 32 ((List.range 32).foldl (fun a i =>
    let mine := decide (off ≤ 4 * i + 3) && decide (4 * i < off + bs.length)
    let b := if mine then good.getLsbD i != bad.contains i else old.2.getLsbD i
    a + bit1 b * 2 ^ i) 0)
  let l : LcLine := { line := n, ctx := c, dirty := true, age := x.dram.clock + 1, bytes := new, par := par }
  match x.cached c n with
  | some w => if bypass then (x.setWay (n % 4096) w LcLine.fresh).toDram dl l else x.setWay (n % 4096) w l
  | none => if !bypass && decide (bs.length = 128) && !(x.myWays c).isEmpty then x.allocate dl c n true new par else x.toDram dl l

/-- Bytes written from `a` upward by context `c`; `bad` are the words among them that arrive damaged, counted from the first. -/
def writeBytes (x : Basin) (dl c a : Nat) (bs : List Byte) (bad : List Nat) (bypass : Bool) : Basin :=
  (linesOf a bs.length).foldl (fun y l =>
    let lo := max a (128 * l)
    let hi := min (a + bs.length) (128 * l + 128)
    let mine := bad.filterMap fun w =>
      let p := a + 4 * w
      if 128 * l ≤ p ∧ p < 128 * l + 128 then some ((p - 128 * l) / 4) else none
    y.writeLine dl c l (lo - 128 * l) ((bs.drop (lo - a)).take (hi - lo)) mine bypass) x

/-- The dirty lines that `f` picks are written back, parity lines before the data lines whose parity they hold; every line that it picks leaves the cache
(R226, R233). -/
def flush (x : Basin) (dl : Nat) (f : Nat → LcLine → Bool) : Basin :=
  let out := x.dram.cache.filter fun e => f (e.1 % 16) e.2
  let y := { x with dram := { x.dram with cache := x.dram.cache.filter fun e => !f (e.1 % 16) e.2 } }
  ((out.filter fun e => e.2.dirty && decide (dl ≤ e.2.line)) ++ out.filter fun e => e.2.dirty && decide (e.2.line < dl)).foldl
    (fun z e => z.toDram dl e.2) y

/-- Line `n` and its parity line leave the cache, written back where they are dirty. -/
def settle (x : Basin) (dl n : Nat) : Basin := x.flush dl fun _ l => l.line == n || l.line == parityLine dl n

/-- A stored parity bit of a data line flips (R617): the line fails until it is written again; a bad line's turns good. -/
def flipLine (x : Basin) (dl n : Nat) : Basin :=
  let y := x.settle dl n
  { y with dram := { y.dram with par := Tbl.set zeroParity n (y.parOf n ^^^ 1#32) y.dram.par } }

/-- A line is rewritten with correct parity (Table 6.10). -/
def mendLine (x : Basin) (dl n : Nat) : Basin :=
  let y := x.settle dl n
  { y with dram := { y.dram with
    par := Tbl.set zeroParity n (lineParity (Memory.read y.dram.mem (128 * n) 128)) y.dram.par, flaky := y.dram.flaky.filter (· != n) } }

/-- Line `n` lies in one of the pages, or is the parity line of one of their chunks. -/
def ofPages (dl : Nat) (pages : List Nat) (n : Nat) : Bool := if n < dl then pages.contains (n / 512) else pages.contains ((n - dl) / 16)

/-- Pages written with zeros and correct parity; what the cache holds of them is dropped (R286). -/
def zeroPages (x : Basin) (dl : Nat) (pages : List Nat) : Basin :=
  { x with dram := { x.dram with
    mem := pages.foldl (fun m p => Memory.zero m (p * 65536) 65536) x.dram.mem,
    par := x.dram.par.filter fun e => !pages.contains (e.1 / 512), flaky := x.dram.flaky.filter fun n => !pages.contains (n / 512),
    cache := x.dram.cache.filter fun e => !ofPages dl pages e.2.line } }

end Basin

/-! ### Pages (R228, R234, R236) -/

/-- The first `n` page numbers from `p` upward that are neither in use nor retired; `fuel` bounds the search. -/
def freePages (taken : List Nat) : Nat → Nat → Nat → List Nat
  | 0, _, _ => []
  | _, 0, _ => []
  | f + 1, n + 1, p => if taken.contains p then freePages taken f (n + 1) (p + 1) else p :: freePages taken f n (p + 1)

namespace Basin

/-- The next `n` free pages of a basin. DESIGN CHOICE: firmware takes the lowest page numbers (log entry 31). -/
def nextPages (x : Basin) (n : Nat) : List Nat :=
  let taken := x.dram.used ++ x.dram.retired
  freePages taken (n + taken.length) n 0

/-- The next `n` pages of context `c`'s quota: those that it has held and freed, then free pages of the pool (R236). DESIGN CHOICE: a page of the
quota is named when it is first used (log entry 31). -/
def quotaPages (x : Basin) (c n : Nat) : List Nat :=
  let own := (x.ctx c).spare.take n
  own ++ x.nextPages (n - own.length)

/-- Pages that context `c` takes into use. -/
def usePages (x : Basin) (c : Nat) (l : List Nat) : Basin :=
  let y := x.modCtx c fun z => { z with spare := z.spare.filter fun p => !l.contains p }
  { y with dram := { y.dram with used := y.dram.used ++ l.filter fun p => !y.dram.used.contains p } }

/-- Pages that context `c` frees return to its quota (R236). -/
def givePages (x : Basin) (c : Nat) (l : List Nat) : Basin := x.modCtx c fun z => { z with spare := z.spare ++ l }

/-- Pages returned to the basin's pool. -/
def dropPages (x : Basin) (l : List Nat) : Basin := { x with dram := { x.dram with used := x.dram.used.filter fun p => !l.contains p } }

end Basin

/-- Pages of a context: its directory, KV with their lists, token logs, WARM copies and embeddings, mooring table area and scratch (R228, R236). -/
def Ctx.pageList (x : Ctx) : List Nat :=
  x.dir ++ (x.kvDir.flatMap fun k => k.2.pages ++ k.2.lists) ++ x.logPages.flatMap (·.2) ++ x.res.flatMap (·.pages) ++ x.areas.flatMap (·.2)

/-- Every page of the quota that the context holds or has held (R240). -/
def Ctx.allPages (x : Ctx) : List Nat := x.pageList ++ x.spare

/-! ### The KV directory in memory (R239, Table 6.9) -/

/-- Slot of a request tag: valid, rebuild, first list page. -/
def KvSlot.word (k : KvSlot) : Nat :=
  match k.lists with
  | [] => 0
  | l :: _ => 2 ^ 63 + bit1 k.rebuild * 2 ^ 62 + l

/-- Descriptors of one list page after another: 16,383 pages and a link, or the last 16,384 and none. -/
def listImages : List Nat → List Nat → List (Nat × List Byte)
  | [], _ => []
  | [p], l => [(p, l.flatMap fun i => natLe 4 (2 ^ 31 + i))]
  | p :: q :: ps, l => (p, ((l.take 16383).flatMap fun i => natLe 4 (2 ^ 31 + i)) ++ natLe 4 (2 ^ 30 + q)) :: listImages (q :: ps) (l.drop 16383)

/-- Firmware writes a directory slot and its descriptor lists through the line cache (R231, R239). -/
def Basin.storeKv (x : Basin) (dl c tag : Nat) : Basin :=
  let z := x.ctx c
  let k := Tbl.get KvSlot.fresh tag z.kvDir
  match z.dir[tag / 8192]? with
  | none => x
  | some p =>
    let y := x.writeBytes dl c (p * 65536 + tag % 8192 * 8) (natLe 8 k.word) [] false
    (listImages k.lists k.pages).foldl (fun u e => u.writeBytes dl c (e.1 * 65536) e.2 [] false) y

/-! ### Runs of pages -/

/-- LPDDR5X byte of byte `a` of a run of pages. -/
def pageByte (pages : List Nat) (a : Nat) : Nat := (pages[a / 65536]?).getD 0 * 65536 + a % 65536

/-- Bytes [a, a + n) of a run of pages, cut at the pages: offset from `a`, LPDDR5X byte and length of each part. -/
def pageParts (pages : List Nat) (a n : Nat) : List (Nat × Nat × Nat) :=
  (List.range ((a + n + 65535) / 65536 - a / 65536)).map fun i =>
    let lo := max a (65536 * (a / 65536 + i))
    (lo - a, pageByte pages lo, min (a + n) (65536 * (a / 65536 + i + 1)) - lo)

namespace Basin

/-- Bytes written into a run of pages from byte `a` of it, through the line cache (R231). -/
def writePages (x : Basin) (dl c : Nat) (pages : List Nat) (a : Nat) (bs : List Byte) : Basin :=
  (pageParts pages a bs.length).foldl (fun y e => y.writeBytes dl c e.2.1 ((bs.drop e.1).take e.2.2) [] false) x

/-- Reads of bytes [a, a + n) of a run of pages act on the cache (R231). -/
def touchPages (x : Basin) (dl c : Nat) (pages : List Nat) (a n : Nat) : Basin :=
  (pageParts pages a n).foldl (fun y e => y.touch dl c e.2.1 e.2.2) x

/-- A line of bytes [a, a + n) of a run of pages fails its parity (R226, R625). -/
def pagesBad (x : Basin) (dl c : Nat) (pages : List Nat) (a n : Nat) : Bool := (pageParts pages a n).any fun e => x.lineBad dl c e.2.1 e.2.2

end Basin

/-! ### The mooring table area in LPDDR5X (R198, R228, R231) -/

/-- The mooring table of a route and step as it lies in its area: each of the two steps that the sluice holds has a half of the area (R192). DESIGN CHOICE: the
step's parity picks the half (log entry 184). -/
def areaHalf (pages : List Nat) (st : Nat) : Nat := 65536 * pages.length / 2 * (st % 2)

/-- The mooring pass writes its table to the area that the plan declares; where that lies in LPDDR5X, through the line cache (R198, R231). -/
def mooringStore (b c r st : Nat) (s : State) : State :=
  let t := mooringPass b c r st s
  let k := (t.basin b).routeStep c r st
  let pages := Tbl.get [] 4 ((t.basin b).ctx c).areas
  if pages.isEmpty || !k.moored || k == (s.basin b).routeStep c r st then t
  else t.modBasin b fun y => y.writePages s.basinLines c pages (areaHalf pages st) k.area

/-- MOORING_PASS. -/
def execMooringPass (b : BasinId) (c : CtxId) (route : BitVec 5) (step : BitVec 32) (s : State) :
    Host.Outcome State Fault Refusal := .next (mooringStore b c route.toNat step.toNat s)

/-- The lines of a step's mooring table fail their parity as the step reads them (R625). -/
def State.mooringBad (s : State) (b c r st : Nat) : Bool :=
  let pages := Tbl.get [] 4 ((s.basin b).ctx c).areas
  !pages.isEmpty && (s.basin b).pagesBad s.basinLines c pages (areaHalf pages st) ((s.basin b).routeStep c r st).area.length

end Sys2Proof.Machine
end

