-- ==== Sys2Proof/Machine/Crypto.lean ====
section
/-! DEFINITION. The crypto engine and the checksums that the spec names: SHA-256 and HMAC-SHA-256 (R405, R281), RSA-3072 with RSASSA-PSS
and RSA-OAEP (R540), HMAC_DRBG (R560), CRC-32 with the IEEE 802.3 polynomial (R94, R99). The standards that R540 and R560 name give what the
spec does not repeat of them (log entry 57). -/

namespace Sys2Proof.Machine

/-- Round constants of SHA-256. -/
def shaK : List (BitVec 32) :=
  [0x428A2F98#32, 0x71374491#32, 0xB5C0FBCF#32, 0xE9B5DBA5#32, 0x3956C25B#32, 0x59F111F1#32, 0x923F82A4#32, 0xAB1C5ED5#32] ++
  [0xD807AA98#32, 0x12835B01#32, 0x243185BE#32, 0x550C7DC3#32, 0x72BE5D74#32, 0x80DEB1FE#32, 0x9BDC06A7#32, 0xC19BF174#32] ++
  [0xE49B69C1#32, 0xEFBE4786#32, 0x0FC19DC6#32, 0x240CA1CC#32, 0x2DE92C6F#32, 0x4A7484AA#32, 0x5CB0A9DC#32, 0x76F988DA#32] ++
  [0x983E5152#32, 0xA831C66D#32, 0xB00327C8#32, 0xBF597FC7#32, 0xC6E00BF3#32, 0xD5A79147#32, 0x06CA6351#32, 0x14292967#32] ++
  [0x27B70A85#32, 0x2E1B2138#32, 0x4D2C6DFC#32, 0x53380D13#32, 0x650A7354#32, 0x766A0ABB#32, 0x81C2C92E#32, 0x92722C85#32] ++
  [0xA2BFE8A1#32, 0xA81A664B#32, 0xC24B8B70#32, 0xC76C51A3#32, 0xD192E819#32, 0xD6990624#32, 0xF40E3585#32, 0x106AA070#32] ++
  [0x19A4C116#32, 0x1E376C08#32, 0x2748774C#32, 0x34B0BCB5#32, 0x391C0CB3#32, 0x4ED8AA4A#32, 0x5B9CCA4F#32, 0x682E6FF3#32] ++
  [0x748F82EE#32, 0x78A5636F#32, 0x84C87814#32, 0x8CC70208#32, 0x90BEFFFA#32, 0xA4506CEB#32, 0xBEF9A3F7#32, 0xC67178F2#32]

/-- Initial hash value of SHA-256. -/
def shaInit : List (BitVec 32) :=
  [0x6A09E667#32, 0xBB67AE85#32, 0x3C6EF372#32, 0xA54FF53A#32, 0x510E527F#32, 0x9B05688C#32, 0x1F83D9AB#32, 0x5BE0CD19#32]

/-- The message with its padding: 0x80, zeros, and the length in bits. -/
def shaPad (m : List Byte) : List Byte :=
  let z := (119 - m.length % 64) % 64
  m ++ [0x80#8] ++ List.replicate z 0#8 ++ natBe 8 (8 * m.length)

/-- `n` further schedule words; the list holds the latest word first. -/
def shaExpand : Nat → List (BitVec 32) → List (BitVec 32)
  | 0, w => w
  | n + 1, w =>
    let g := fun i => (w[i]?).getD 0#32
    let a := g 14
    let b := g 1
    let s0 := a.rotateRight 7 ^^^ a.rotateRight 18 ^^^ a >>> 3
    let s1 := b.rotateRight 17 ^^^ b.rotateRight 19 ^^^ b >>> 10
    shaExpand n ((g 15 + s0 + g 6 + s1) :: w)

/-- Big-endian 32-bit words of `n` groups of four bytes. -/
def beWords : Nat → List Byte → List (BitVec 32)
  | 0, _ => []
  | n + 1, bs => BitVec.ofNat 32 (beNat (bs.take 4)) :: beWords n (bs.drop 4)

/-- One round on the eight working variables. -/
def shaRound (v : List (BitVec 32)) (kw : BitVec 32 × BitVec 32) : List (BitVec 32) :=
  match v with
  | [a, b, c, d, e, f, g, h] =>
    let s1 := e.rotateRight 6 ^^^ e.rotateRight 11 ^^^ e.rotateRight 25
    let ch := (e &&& f) ^^^ (~~~e &&& g)
    let t1 := h + s1 + ch + kw.1 + kw.2
    let s0 := a.rotateRight 2 ^^^ a.rotateRight 13 ^^^ a.rotateRight 22
    let mj := (a &&& b) ^^^ (a &&& c) ^^^ (b &&& c)
    [t1 + (s0 + mj), a, b, c, d + t1, e, f, g]
  | l => l

/-- One block of 64 bytes. -/
def shaBlock (h : List (BitVec 32)) (b : List Byte) : List (BitVec 32) :=
  let w := (shaExpand 48 (beWords 16 b).reverse).reverse
  (h.zip ((shaK.zip w).foldl shaRound h)).map fun p => p.1 + p.2

/-- `n` blocks. -/
def shaBlocks : Nat → List (BitVec 32) → List Byte → List (BitVec 32)
  | 0, h, _ => h
  | n + 1, h, m => shaBlocks n (shaBlock h (m.take 64)) (m.drop 64)

/-- SHA-256. -/
def sha256 (m : List Byte) : List Byte :=
  let p := shaPad m
  (shaBlocks (p.length / 64) shaInit p).flatMap fun w => natBe 4 w.toNat

/-- SHA-256 as a number, first byte most significant. -/
def shaNum (m : List Byte) : BitVec 256 := BitVec.ofNat 256 (beNat (sha256 m))

/-- HMAC-SHA-256. -/
def hmac (key m : List Byte) : List Byte :=
  let k0 := if key.length ≤ 64 then key else sha256 key
  let k := k0 ++ List.replicate (64 - k0.length) 0#8
  sha256 (k.map (· ^^^ 0x5C#8) ++ sha256 (k.map (· ^^^ 0x36#8) ++ m))

/-! ### RSA-3072 (R540) -/

/-- `b` to the power `e` modulo `m`; `n` is at least the number of bits of `e`. -/
def powMod (m b : Nat) : Nat → Nat → Nat
  | 0, _ => 1 % m
  | n + 1, e =>
    if e = 0 then 1 % m
    else
      let r := powMod m b n (e / 2)
      if e % 2 = 1 then r * r % m * b % m else r * r % m

/-- The public operation: exponent 65,537, the modulus in 384 bytes, big-endian. -/
def rsaPublic (modulus : List Byte) (x : Nat) : Nat := powMod (beNat modulus) x 17 65537

/-- MGF1 with SHA-256: `n` bytes. -/
def mgf1 (seed : List Byte) (n : Nat) : List Byte :=
  ((List.range ((n + 31) / 32)).flatMap fun i => sha256 (seed ++ natBe 4 i)).take n

/-- Bytes of two strings combined by exclusive or. -/
def xorBytes (a b : List Byte) : List Byte := (a.zip b).map fun p => p.1 ^^^ p.2

/-- RSASSA-PSS with a salt of 32 bytes: the encoded message `em`, 3,071 bits in 384 bytes, stands for `m`. -/
def pssOk (em m : List Byte) : Bool :=
  let h := (em.drop 351).take 32
  let db := match xorBytes (em.take 351) (mgf1 h 351) with
    | [] => []
    | x :: xs => (x &&& 0x7F#8) :: xs
  (em.take 1).all (fun x => !x.getLsbD 7) && em.drop 383 == [0xBC#8] && db.take 318 == List.replicate 318 0#8 && (db.drop 318).take 1 == [1#8] &&
    sha256 (List.replicate 8 0#8 ++ sha256 m ++ db.drop 319) == h

/-- The encoded message of RSASSA-PSS for `m` under a salt of 32 bytes, in 384 bytes. -/
def pssEncode (salt m : List Byte) : List Byte :=
  let h := sha256 (List.replicate 8 0#8 ++ sha256 m ++ salt)
  let db := match xorBytes (List.replicate 318 0#8 ++ [1#8] ++ salt) (mgf1 h 351) with
    | [] => []
    | x :: xs => (x &&& 0x7F#8) :: xs
  db ++ h ++ [0xBC#8]

/-- The signature of `m` under a private key: modulus and private exponent. -/
def rsaSign (n d : Nat) (salt m : List Byte) : List Byte := natBe 384 (powMod n (beNat (pssEncode salt m)) 3072 d)

/-- `sig` is a signature of `m` under `modulus`. -/
def rsaVerify (modulus sig m : List Byte) : Bool :=
  modulus.length == 384 && sig.length == 384 && decide (beNat sig < beNat modulus) && pssOk (natBe 384 (rsaPublic modulus (beNat sig))) m

/-- RSA-OAEP with an empty label: the message that an encoded block holds. -/
def oaepOpen (em : List Byte) : Option (List Byte) :=
  let y := em.drop 33
  let seed := xorBytes ((em.drop 1).take 32) (mgf1 y 32)
  let db := xorBytes y (mgf1 seed 351)
  let rest := (db.drop 32).dropWhile fun x => x == 0#8
  if em.take 1 = [0#8] ∧ db.take 32 = sha256 [] ∧ rest.take 1 = [1#8] then some (rest.drop 1) else none

/-- A ciphertext under a private key: modulus and private exponent. -/
def rsaDecrypt (n d : Nat) (cipher : List Byte) : Option (List Byte) :=
  if cipher.length = 384 ∧ beNat cipher < n then oaepOpen (natBe 384 (powMod n (beNat cipher) 3072 d)) else none

/-! ### HMAC_DRBG with SHA-256 (R560) -/

/-- The update function: data in, a new key and value. -/
def Drbg.update (g : Drbg) (data : List Byte) : Drbg :=
  let k1 := hmac g.key (g.value ++ [0#8] ++ data)
  let v1 := hmac k1 g.value
  if data.isEmpty then { g with key := k1, value := v1 }
  else
    let k2 := hmac k1 (v1 ++ [1#8] ++ data)
    { g with key := k2, value := hmac k2 v1 }

/-- Instantiated from 48 bytes of seed: entropy and nonce. -/
def Drbg.instantiate (seed : List Byte) : Drbg :=
  { Drbg.update { key := List.replicate 32 0#8, value := List.replicate 32 1#8, requests := 0 } seed with requests := 1 }

/-- Reseeded from the entropy source, or for a basin from the central DRBG. -/
def Drbg.reseed (g : Drbg) (seed : List Byte) : Drbg := { g.update seed with requests := 1 }

/-- `n` values in turn, each the HMAC of the one before. -/
def Drbg.values : Nat → List Byte → List Byte → List Byte × List Byte
  | 0, _, v => ([], v)
  | n + 1, k, v =>
    let w := hmac k v
    let r := Drbg.values n k w
    (w ++ r.1, r.2)

/-- `n` bytes drawn. -/
def Drbg.draw (g : Drbg) (n : Nat) : List Byte × Drbg :=
  let r := Drbg.values ((n + 31) / 32) g.key g.value
  (r.1.take n, { Drbg.update { g with value := r.2 } [] with requests := g.requests + 1 })

/-! ### CRC-32 -/

/-- `n` bit steps of CRC-32, reflected. -/
def crcBits : Nat → BitVec 32 → BitVec 32
  | 0, c => c
  | n + 1, c => crcBits n (if c.getLsbD 0 then c >>> 1 ^^^ 0xEDB88320#32 else c >>> 1)

/-- CRC-32 with the IEEE 802.3 polynomial. -/
def crc32 (m : List Byte) : BitVec 32 :=
  ~~~(m.foldl (fun c b => crcBits 8 (c ^^^ b.setWidth 32)) 0xFFFFFFFF#32)

end Sys2Proof.Machine
end

