-- ==== Sys2Proof/Machine/Reply.lean ====
section
/-! DEFINITION. Replies of the Rinzan endpoint: opcodes and classes (R428, R429), the final reply of a command with its
fragments (R417-R419), the reply cache (R420), the kept replies (R457), and the end of a long command (R418, R527). -/

namespace Sys2Proof.Machine

/-- Opcode of a command: class in the high byte, operation in the low byte (R428, Tables 12.3 to 12.13). -/
def opcodeOf : HostCmd → Nat
  | .openSession .. => 0x0101 | .closeSession .. => 0x0102 | .rotateKey .. => 0x0103 | .setNoticeTarget .. => 0x0104
  | .readState .. => 0x0201 | .writeState .. => 0x0202
  | .storeBegin .. => 0x0301 | .storeShard .. => 0x0302 | .storeCommit .. => 0x0303 | .storeDelete .. => 0x0304
  | .storeList .. => 0x0305 | .storeVerify .. => 0x0306
  | .makeWarm .. => 0x0401 | .makeHot .. => 0x0402 | .evict .. => 0x0403 | .residencyQuery .. => 0x0404
  | .createContext .. => 0x0501 | .destroyContext => 0x0502 | .loadCut .. => 0x0503 | .selectCut .. => 0x0504
  | .setBalance .. => 0x0505
  | .submit .. => 0x0601 | .append .. => 0x0602 | .cancel .. => 0x0603 | .tokens .. => 0x0604 | .setDraft .. => 0x0605
  | .manifestRead .. => 0x0701 | .manifestStats => 0x0702
  | .setRoutes .. => 0x0801 | .linkState .. => 0x0802 | .setSlice .. => 0x0803 | .setChain .. => 0x0804
  | .setRampPlan .. => 0x0901 | .setCap .. => 0x0902 | .powerReport => 0x0903 | .timeStatus => 0x0904
  | .bistPolicy .. => 0x0A01 | .bistReport => 0x0A02 | .spareReport => 0x0A03
  | .fence => 0x0B01 | .resetBasin => 0x0B02 | .warmReset => 0x0B03 | .readmit .. => 0x0B04
  | .completionQuery .. => 0x0B05
  | .fwStage .. => 0x0C01 | .fwActivate .. => 0x0C02 | .fwStatus => 0x0C03
  | .attest .. => 0x0D01 | .identity .. => 0x0D02
  | .traceConfig .. => 0x0E01 | .traceRead .. => 0x0E02 | .dumpRead .. => 0x0E03 | .countersRead .. => 0x0E04
  | .perturbSet .. => 0x0F01 | .perturbClear .. => 0x0F02
  | .malformed op _ => op.toNat

/-- Default timeout of a class, in ms (Table 12.1). -/
def classTimeout (c : Nat) : Nat :=
  match c with
  | 1 => 1000 | 2 => 100 | 3 => 60000 | 4 => 2000 | 5 => 2000 | 6 => 100 | 7 => 100 | 8 => 1000 | 9 => 100 | 10 => 100
  | 11 => 5000 | 12 => 60000 | 13 => 1000 | 14 => 1000 | _ => 100

/-- Classes that Table 12.1 marks as long. -/
def longClass (c : Nat) : Bool := c == 4 || c == 5 || c == 11 || c == 12

/-- Commands that change no state: a reply of theirs that needs fragments is not cached (R420). -/
def readsOnly : HostCmd → Bool
  | .readState .. | .storeList .. | .storeVerify .. | .residencyQuery .. | .manifestRead .. | .bistReport | .spareReport
  | .fwStatus | .traceRead .. | .dumpRead .. | .countersRead .. => true
  | .linkState _ admin => admin == 0xFF
  | _ => false

/-- Most bytes of parameters in a packet of a carriage (R402). -/
def paramCap (c : Carriage) : Nat := match c with | .ethernet => 9098 | .i3c => 2000

/-- A list of bytes in pieces of `n`. -/
def splitBytes (n : Nat) : Nat → List Byte → List (List Byte)
  | 0, _ => []
  | f + 1, l => if l.isEmpty then [] else l.take n :: splitBytes n f (l.drop n)

/-- The fragments of a reply, each as full as its carriage allows (R419): the prefix in the first, a 4-byte index in every
later one. -/
def fragmentsOf (p : Pkt) : List Pkt :=
  let cap := paramCap p.carriage
  if p.body.length ≤ cap - 32 then [p]
  else
    let rest := splitBytes (cap - 4) p.body.length (p.body.drop (cap - 32))
    { p with more := true, body := p.body.take (cap - 32) } ::
      (List.range rest.length).map fun i =>
        { p with frag := i + 1, more := decide (i + 1 < rest.length), body := (rest[i]?).getD [] }

namespace State

/-- A reply with all its fragments, under the current key or an older one. -/
def emitReply (s : State) (n : Nat) (key : Option (List Byte)) (p : Pkt) : State :=
  (fragmentsOf p).foldl (fun t f => t.emitUnder n key f) s

/-- An unauthenticated reply holds its status alone, at most 1,000 a second (R408). -/
def unauthReply (s : State) (carriage : Carriage) (priority : Nat) (peer : Peer) (opcode session seq : Nat) (st : Status) : State :=
  let fresh := decide (s.eth.unauthTick + 100000000 ≤ s.now)
  let n := if fresh then 0 else s.eth.unauth
  if 1000 ≤ n then s
  else
    let s' := { s with eth := { s.eth with unauth := n + 1, unauthTick := if fresh then s.now else s.eth.unauthTick } }
    s'.emit { kind := .reply, carriage := carriage, auth := false, opcode := opcode, session := session, seq := seq,
              counter := 0, status := st, committed := 0, touched := 0, tick := s.now, priority := priority, key := [],
              sign := 0, salt := [], frag := 0, more := false, context := 0, mask := 0, peer := peer, tag := none, body := [] }

/-- A packet that failed with NO_SESSION, BAD_MAC or COUNTER_REPLAY counts in ETH_DROP.auth (Table 11.5). -/
def countAuth (s : State) : State := { s with eth := { s.eth with auth := satAdd s.eth.auth 1 } }

end State

/-- A reply packet of a command, on the carriage and priority on which the command came, to where it came from (R397, R398, R426); context and basin
mask are the command's (log entry 190). -/
def replyPkt (s : State) (h : Hdr) (opcode : Nat) (st : Status) (committed touched : Nat) (body : List Byte) : Pkt :=
  { kind := .reply, carriage := h.carriage, auth := true, opcode := opcode, session := h.session.toNat, seq := h.seq.toNat,
    counter := 0, status := st, committed := committed, touched := touched, tick := s.now,
    priority := h.priority.toNat, key := [], sign := if opcode = 0x0D01 then 2 else if opcode = 0x0D02 then 1 else 0,
    salt := [], frag := 0, more := false, context := h.context, mask := h.mask, peer := h.peer, tag := none, body := body }

/-- The scope of a session: the context and basins of a tenant, and for an OPERATOR session, which addresses everything, no
tenant's context (R411, R457). -/
def Session.scope (x : Session) : Nat × BitVec 8 := if x.role = .tenant then (x.ctx, x.basins) else (4, 0xFF)

namespace State

/-- A command enters its session's reply cache, which holds the 64 most recent sequences (R420). -/
def cacheOpen (s : State) (n seq : Nat) (cmd : HostCmd) : State :=
  s.modSession n fun x =>
    let l := (x.cache.filter fun e => e.seq != seq) ++ [{ seq := seq, cmd := cmd, tick := s.now, reply := none }]
    { x with cache := l.drop (l.length - 64) }

/-- The final reply of a cached command; a fragmented reply of a command that changes no state is not kept (R420). -/
def cacheClose (s : State) (n seq : Nat) (cmd : HostCmd) (p : Pkt) : State :=
  s.modSession n fun x =>
    if readsOnly cmd && decide (1 < (fragmentsOf p).length) then { x with cache := x.cache.filter fun e => e.seq != seq }
    else { x with cache := x.cache.map fun e => if e.seq = seq then { e with reply := some p } else e }

/-- The final reply is kept for COMPLETION_QUERY, the last 4,096 of them, except for the classes 0x02, 0x07, 0x0D and 0x0E
(R457). -/
def keepReply (s : State) (h : Hdr) (ctx : Nat) (basins : BitVec 8) (p : Pkt) : State :=
  let c := p.opcode / 256
  if c = 2 ∨ c = 7 ∨ c = 13 ∨ c = 14 then s
  else
    let l := s.ep.kept ++ [{ session := h.session.toNat, seq := h.seq.toNat, opcode := p.opcode, tick := s.now,
                             ctx := ctx, basins := basins, reply := p }]
    { s with ep := { s.ep with kept := l.drop (l.length - 4096) } }

/-- The scope of the session of a number. -/
def scopeOf (s : State) (n : Nat) : Nat × BitVec 8 := ((s.session n).map Session.scope).getD (4, 0)

/-- The final reply of a command of session `n`, whose scope is given: cached, kept and sent. -/
def finalReply (s : State) (n : Nat) (scope : Nat × BitVec 8) (h : Hdr) (cmd : HostCmd) (st : Status) (committed touched : Nat)
    (body : List Byte) : State :=
  let p := replyPkt s h (opcodeOf cmd) st committed touched body
  ((s.cacheClose n h.seq.toNat cmd p).keepReply h scope.1 scope.2 p).emitReply n none p

/-- The ACCEPTED reply of a long command, both extents 0 (R418). -/
def acceptedReply (s : State) (n : Nat) (h : Hdr) (cmd : HostCmd) : State :=
  s.emitReply n none (replyPkt s h (opcodeOf cmd) .accepted 0 0 [])

/-- The running command of a session and sequence. -/
def runCmd (s : State) (n seq : Nat) : Option RunCmd :=
  s.ep.running.find? fun r => r.hdr.session.toNat == n && r.hdr.seq.toNat == seq

/-- A running command changed by `f`. -/
def modRun (s : State) (n seq : Nat) (f : RunCmd → RunCmd) : State :=
  { s with ep := { s.ep with running := s.ep.running.map fun r =>
    if r.hdr.session.toNat = n ∧ r.hdr.seq.toNat = seq then f r else r } }

/-- The basin image goes back to VERIFIED once no FW_ACTIVATE of it runs and some basin does not run it yet (log entry 34). -/
def fwSettle (s : State) : State :=
  let x := s.image 2
  let on := s.ep.running.any fun r => match r.cmd with
    | .fwActivate i => i == 2
    | _ => false
  if x.st = .activating ∧ !x.burning ∧ !on then s.setFw 2 .verified else s

/-- The Extent column shows no unit for a long command (R434): it takes effect whole. -/
def wholeCmd (c : HostCmd) : Bool := [0x0501, 0x0505, 0x0803, 0x0B03].contains (opcodeOf c)

/-- The end of a running command: it leaves the list; the host's answer goes out unless a short timeout answered already
(R517), and the real outcome is kept (R427, R457). -/
def finishCmd (s : State) (n seq : Nat) (st : Status) (committed touched : Nat) (body : List Byte) : State :=
  match s.runCmd n seq with
  | none => s
  | some r =>
    let s1 := { s with ep := { s.ep with running := s.ep.running.filter fun q =>
      !(q.hdr.session.toNat == n && q.hdr.seq.toNat == seq) } }
    let s2 := match r.cmd with
      | .fwActivate _ => s1.fwSettle
      | _ => s1
    let one := if wholeCmd r.cmd then (if st = .ok then (1, 1) else (0, 0)) else (committed, touched)
    if r.waitOver then s2.keepReply r.hdr r.scope.1 r.scope.2 (replyPkt s r.hdr (opcodeOf r.cmd) st one.1 one.2 body)
    else s2.finalReply n r.scope r.hdr r.cmd st one.1 one.2 body

end State

/-! ### The bytes of a packet (R400, R401, R405, R417) -/

/-- The reply prefix of a packet (Table 11.9). -/
def Pkt.prefixBytes (p : Pkt) : List Byte :=
  natBe 2 p.status.code ++ natBe 6 0 ++ natBe 8 p.committed ++ natBe 8 p.touched ++ natBe 8 p.tick

/-- The parameters of a packet: the status alone where it is unauthenticated (R408), the fragment index in a later fragment, else the prefix (R417, R419);
a notice begins with the prefix too (R453). -/
def Pkt.params (p : Pkt) : List Byte :=
  if !p.auth then natBe 2 p.status.code
  else if p.frag ≠ 0 then natBe 4 p.frag ++ p.body
  else p.prefixBytes ++ p.body

/-- The flags of Table 11.6: unauthenticated, more fragments, notice, and reply, which a notice sets too (R423) and a delivery (log entry 190). -/
def Pkt.flags (p : Pkt) : Nat :=
  (if p.auth then 0 else 8) + (if p.more then 4 else 0) + (if p.kind = .notice then 2 else 0) + 1

/-- The header of a packet (Table 11.6), big-endian; timeout and not-before are the host's alone (log entry 190). -/
def Pkt.header (p : Pkt) : List Byte :=
  natBe 1 (16 + p.flags) ++ [0] ++ natBe 2 p.opcode ++ natBe 2 p.session ++ [p.context, p.mask] ++ natBe 4 p.seq ++ natBe 8 p.counter ++
    natBe 2 p.params.length ++ natBe 2 0 ++ natBe 8 0

/-- The bytes of a packet: header, parameters, and the trailer, which is the MAC under the session's key (R401), zeros where the packet is
unauthenticated (R408), or the signature of R405 under the key of the key store. -/
def Pkt.image (p : Pkt) (s : State) : List Byte :=
  let m := p.header ++ p.params
  let sign := fun (k : Nat × Nat) => rsaSign k.1 k.2 p.salt m
  m ++ (if !p.auth then List.replicate 16 0 else if p.sign = 1 then sign s.sec.identity else if p.sign = 2 then sign s.sec.attestation
    else (hmac p.key m).take 16)

/-! ### Commands addressed to basins -/

/-- Residency state of an object in a context of a basin; an object without an entry is COLD (R283). -/
def Basin.residency (x : Basin) (c model edition : Nat) : Residency :=
  match (x.ctx c).res.find? fun e => e.model == model && e.edition == edition with
  | some e => e.state
  | none => .cold

/-- One byte per basin: `f` for a named basin, 0xFF for any other (R436). -/
def perBasin (m : BitVec 8) (f : Nat → Nat) : List Byte :=
  (List.range 8).map fun b => if m.getLsbD b then BitVec.ofNat 8 (f b) else 0xFF#8

/-- The parameters of a final reply from 0x20 for the commands that name basins (Tables 12.6, 12.12). -/
def finalBody (s : State) (r : RunCmd) : List Byte :=
  let c := r.hdr.context.toNat
  match r.cmd with
  | .makeWarm m e | .makeHot m e _ | .evict m e =>
    perBasin r.mask fun b => ((s.basin b).residency c m.toNat e.toNat).code
  | .createContext _ => perBasin r.mask fun b => ((s.basin b).sramCtx c).base.toNat
  | .destroyContext => natBe 4 r.units
  | .fence | .resetBasin | .readmit _ => perBasin r.mask fun b => (s.basin b).st.state.code
  | .selectCut _ =>
    natBe 1 (((maskBasins r.mask).head?.map fun b => (s.basin b).cut.epoch.toNat).getD 0) ++ natBe 7 0 ++ natBe 8 s.now
  | _ => []

/-- Status of a command addressed to basins: the first that is not OK in ascending basin order (R527). -/
def firstBad (r : RunCmd) : Status :=
  (((maskBasins r.mask).map fun b => Tbl.get .ok b r.results).find? fun x => x != .ok).getD .ok

/-- Basins in which the work of a command counts as complete (Table 15.3). -/
def basinsOk (r : RunCmd) : Nat := ((maskBasins r.mask).filter fun b => r.okMask.getLsbD b).length

namespace State

/-- The work of a running command in basin `b` ended with a status, and counts as complete or not; when it has ended in every
named basin, the command ends (R527, Table 15.3). -/
def basinEnd (s : State) (n seq b : Nat) (st : Status) (complete : Bool) : State :=
  let bit := BitVec.ofNat 8 (1 <<< b)
  let s1 := s.modRun n seq fun r =>
    if r.mask.getLsbD b && !r.doneMask.getLsbD b then
      { r with doneMask := r.doneMask ||| bit, okMask := if complete then r.okMask ||| bit else r.okMask,
               results := Tbl.set .ok b st r.results }
    else r
  match s1.runCmd n seq with
  | some r =>
    if r.doneMask &&& r.mask = r.mask then s1.finishCmd n seq (firstBad r) (basinsOk r) (max (basinsOk r) r.begun) (finalBody s1 r)
    else s1
  | none => s1

/-- The work of a running command in basin `b` ended with a status, complete when it is OK. -/
def basinDone (s : State) (n seq b : Nat) (st : Status) : State := s.basinEnd n seq b st (st == .ok)

/-- The work in basin `b` ended for every running command that `f` picks. -/
def basinDoneAll (s : State) (f : RunCmd → Bool) (b : Nat) (st : Status) : State :=
  ((s.ep.running.filter fun r => f r && r.mask.getLsbD b && !r.doneMask.getLsbD b).map
    fun r => (r.hdr.session.toNat, r.hdr.seq.toNat)).foldl (fun t k => t.basinDone k.1 k.2 b st) s

end State

end Sys2Proof.Machine
end

