-- ==== Sys2Proof/Machine/Requests.lean ====
section
/-! DEFINITION. The manifest (chapter 09): pages and reservations (R236-R240), deliveries (R347, R421), the end of a
request (R338-R341, R254), deadlines (R351-R353), admission (R337), drafts (R357-R360), KV rebuilds (R251), balance
(R354-R356), and the request commands (R446-R450). -/

namespace Sys2Proof.Machine

/-! ### Pages of a context (R236-R240) -/

/-- Bytes of an LPDDR5X page (R228). -/
def pageBytes : Nat := 65536

/-- Pages that `n` bytes take. -/
def pagesFor (n : Nat) : Nat := (n + pageBytes - 1) / pageBytes

/-- Descriptor list pages of `n` pages: a list page holds 16,384 descriptors, the last of which may be a link (R239). -/
def listPages (n : Nat) : Nat := if n ≤ 16384 then 1 else 1 + (n - 16384 + 16382) / 16383

/-- Pages of the quota that a context has in use. -/
def Ctx.pagesUsed (x : Ctx) : Nat := x.pageList.length

/-- Pages of the quota that are free. -/
def Ctx.pagesFree (x : Ctx) : Nat := x.pages - x.pagesUsed

/-- The pages of request tag `tag` in context `c` of a basin grow to `n` pages, and the descriptor list with them (R237-R239). -/
def Basin.growKv (x : Basin) (dl c tag n : Nat) : Basin :=
  let k := Tbl.get KvSlot.fresh tag (x.ctx c).kvDir
  let lists := x.quotaPages c (listPages n - k.lists.length)
  let y := x.usePages c lists
  let new := y.quotaPages c (n - k.pages.length)
  let z := (y.usePages c new).modCtx c fun z => { z with
    kvDir := Tbl.set KvSlot.fresh tag { k with pages := k.pages ++ new, lists := k.lists ++ lists } z.kvDir }
  z.storeKv dl c tag

/-- The directory slot of a tag is cleared and its pages return to the quota (R240). -/
def Basin.freeKv (x : Basin) (dl c tag : Nat) : Basin :=
  let k := Tbl.get KvSlot.fresh tag (x.ctx c).kvDir
  let y := x.modCtx c fun z => { z with kvDir := Tbl.set KvSlot.fresh tag KvSlot.fresh z.kvDir }
  (y.givePages c (k.pages ++ k.lists)).storeKv dl c tag

/-- The token log of entry `i` takes `n` pages of context `c` (R236, R336). -/
def Basin.setLog (x : Basin) (c i n : Nat) : Basin :=
  let old := Tbl.get [] i (x.ctx c).logPages
  let new := x.quotaPages c (n - old.length)
  let y := if n ≤ old.length then x.givePages c (old.drop n) else x.usePages c new
  y.modCtx c fun z => { z with logPages := Tbl.set [] i ((old ++ new).take n) z.logPages }

/-! ### Entries -/

/-- The request is neither FREE nor ended (Table 9.3). -/
def Entry.active (e : Entry) : Bool := e.st == .queued || e.st == .prefill || e.st == .decode || e.st == .paused

/-- The request waits in PAUSED with pause HOLD: no turn is open (R338). -/
def Entry.onHold (e : Entry) : Bool := e.st == .paused && e.pause == .hold

/-- Tokens of the turn that were delivered, out of the token log (R336, R421). -/
def Entry.turnTokensOut (e : Entry) : List (BitVec 32) := (e.log.drop e.promptLen).take e.genLen

/-- Draft length in effect (R357). -/
def Entry.draftNow (e : Entry) : Nat := if e.draftOff then 0 else e.draftReq

/-- A deadline under a budget of 0 is none (R349). -/
def deadlineOf (tick budget : Nat) : Option Tick := if budget = 0 then none else some (tick + budget)

namespace State

/-- Device ordinal of this device within a slice (R239, R383): its place among the devices that the list names. -/
def deviceOrdinal (s : State) (id : Nat) : Nat :=
  let devs := ((s.membersOf id).map (·.1)).eraseDups
  (devs.findIdx? fun d => d == s.fab.position.toNat).getD 0

/-- Request tag of entry `i` with its context in basin `b` (R239). -/
def requestTag (s : State) (b i : Nat) : Nat := s.deviceOrdinal (s.basin b).sliceId.toNat * 4096 + i

/-- Local basins that serve a request: those of its slice in which its context exists (R24, R238). -/
def servingBasins (s : State) (e : Entry) : List Nat :=
  (s.sliceBasins e.basin).filter fun b => ((s.basin b).ctx e.ctx).exist

/-- Tokens written to entry `i`'s token log from position `k` on, 4 B each, through the line cache (R231, R336). -/
def writeLog (s : State) (i k : Nat) (toks : List (BitVec 32)) : State :=
  let e := s.entry i
  s.modBasin e.basin fun x =>
    x.writePages s.basinLines e.ctx (Tbl.get [] i (x.ctx e.ctx).logPages) (4 * k) (toks.flatMap fun t => natLe 4 t.toNat)

/-- A line that holds tokens [k, k + n) of entry `i`'s log, or its slot of the KV directory, fails its parity and waits for its ladder (R248, R625). -/
def logBad (s : State) (i k n : Nat) : Bool :=
  let e := s.entry i
  let x := s.basin e.basin
  x.pagesBad s.basinLines e.ctx (Tbl.get [] i (x.ctx e.ctx).logPages) (4 * k) (4 * n)

/-- The directory line of entry `i` fails its parity in its basin. -/
def dirBad (s : State) (i : Nat) : Bool :=
  let e := s.entry i
  let x := s.basin e.basin
  x.pagesBad s.basinLines e.ctx (x.ctx e.ctx).dir (8 * e.kvTag) 8

/-- A line of tokens [k, k + n) of entry `i`'s log holds a stored error: its re-read fails (R254). -/
def logStuck (s : State) (i k n : Nat) : Bool :=
  let e := s.entry i
  let x := s.basin e.basin
  (pageParts (Tbl.get [] i (x.ctx e.ctx).logPages) (4 * k) (4 * n)).any fun p =>
    (Basin.linesOf p.2.1 p.2.2).any fun l => !(Basin.badWordsOf (x.lookLine s.basinLines e.ctx l)).isEmpty

/-- Firmware reads tokens [k, k + n) of entry `i`'s log and its directory slot (R231, R625). -/
def readLog (s : State) (i k n : Nat) : State :=
  let e := s.entry i
  s.modBasin e.basin fun x =>
    let y := x.touchPages s.basinLines e.ctx (x.ctx e.ctx).dir (8 * e.kvTag) 8
    y.touchPages s.basinLines e.ctx (Tbl.get [] i (x.ctx e.ctx).logPages) (4 * k) (4 * n)

/-- The KV pages and directory slots of entry `i` are freed in every basin that serves it (R240). -/
def freeKvPages (s : State) (i : Nat) : State :=
  let e := s.entry i
  s.foldBasins (s.servingBasins e) fun t b => t.modBasin b fun x => x.freeKv s.basinLines e.ctx e.kvTag

/-- Entry `i` replaced; a change of its state is a trace record of source REQUEST (R612). -/
def putEntry (s : State) (i : Nat) (e : Entry) : State :=
  let old := s.entry i
  let b := if e.st = .free then old.basin else e.basin
  let c := if e.st = .free then old.ctx else e.ctx
  let s1 := s.setEntry i e
  if old.st = e.st then s1 else s1.record b 6 (BitVec.ofNat 8 c) (data48 i e.st.code 0)

/-- Entry `i` changed by `f`. -/
def updEntry (s : State) (i : Nat) (f : Entry → Entry) : State := s.putEntry i (f (s.entry i))

/-- Entry `i` becomes FREE; its token log's pages return to its context's quota (R240). -/
def releaseEntry (s : State) (i : Nat) : State :=
  let e := s.entry i
  (s.modBasin e.basin fun x => x.setLog e.ctx i 0).putEntry i Entry.fresh

/-! ### Deliveries (R341, R347, R421) -/

/-- A TOKENS delivery of entry `i` (Table 11.10): it leaves by the Ethernet port on pfc_a under the sequence of its turn, whatever the port's state
(R329, R398, R422), to where the command that began the turn came from (log entry 189). -/
def sendTokens (s : State) (i : Nat) (late final resend : Bool) (pos : Nat) (toks : List (BitVec 32)) (st : Status) : State :=
  let e := s.entry i
  let flags := (if late then 1 else 0) + (if final then 2 else 0) + (if resend then 4 else 0)
  s.emitUnder e.session none
    { kind := .delivery, carriage := .ethernet, auth := true, opcode := 0x0604, session := e.session, seq := e.turnSeq,
      counter := 0, status := st, committed := e.genLen, touched := if final then e.genLen + e.undelivered else e.genLen,
      tick := s.now, priority := s.eth.pfcA.toNat, key := [], sign := 0, salt := [], frag := 0, more := false, context := BitVec.ofNat 8 e.ctx,
      mask := basinsMask [e.basin], peer := e.peer, tag := none,
      body := natBe 2 i ++ natBe 2 flags ++ natBe 8 e.requestId ++ natBe 4 pos ++ natBe 2 toks.length ++ natBe 2 0 ++
        toks.flatMap fun t => natBe 4 t.toNat }

/-- A turn that ends joins its context's turn statistics (R350). -/
def endTurn (s : State) (i : Nat) : State :=
  let e := s.entry i
  let ttft := if e.tFirst = 0 then 0 else e.tFirst - e.tSubmit
  s.modBasin e.basin fun x => x.modCtx e.ctx fun z => { z with stats :=
    { turns := z.stats.turns + 1, late := z.stats.late + e.turnLate, ttftSum := z.stats.ttftSum + ttft,
      ttftMax := max z.stats.ttftMax ttft, maxTbt := max z.stats.maxTbt e.maxTbt,
      proposed := z.stats.proposed + e.turnProposed, accepted := z.stats.accepted + e.turnAccepted } }

/-! ### The end of a request -/

/-- Entry `i` leaves every step that firmware has formed. -/
def leaveFlights (s : State) (i : Nat) : State :=
  { s with man := { s.man with flights := (s.man.flights.map fun f =>
    { f with rows := f.rows.filter fun r => r.entry != i }) } }

/-- A request ends in DONE, or in FAILED when `failed`: its open turn gets its FINAL delivery (R341), its KV pages go
back (R240), waiting CANCELs answer (R340), and an error that the device ends it for is told to its context (R254) and
counted (Table 6.13). -/
def endRequest (s : State) (i : Nat) (failed : Bool) (st : Status) : State :=
  let e := s.entry i
  if !e.active then s
  else
    let open_ := !e.onHold
    let late := e.lateNext || e.latePending
    let n := if open_ && !e.finalSent && late then 1 else 0
    let s1 := s.putEntry i { e with
      st := if failed then .failed else .done, status := st, endTick := s.now, lateCount := e.lateCount + n, turnLate := e.turnLate + n,
      pause := .none, inStep := false, latePending := false, cancelBy := [], failWith := none, finalSent := true }
    let s2 := if open_ && !e.finalSent then s1.sendTokens i late true false e.genLen [] st else s1
    let s3 := if open_ then s2.endTurn i else s2
    let s4 := (s3.freeKvPages i).leaveFlights i
    let s5 := if st = .parityUnrecovered then s4.modBasin e.basin fun x =>
        let y := x.chargeParity e.ctx 5 1
        { y with par := { y.par with unrec := satAdd y.par.unrec 1 } }
      else s4
    let s6 := if failed ∧ st ≠ .aborted then s5.noticeFault e.basin e.ctx 3 st i e.requestId 0 else s5
    e.cancelBy.foldl (fun t k => t.finishCmd k.1 k.2 .ok e.genLen (e.genLen + e.undelivered) []) s6

/-- A cancelled request ends at once, or with the step that carries it (R340). -/
def cancelRequest (s : State) (i : Nat) (n seq : Nat) : State :=
  let e := s.entry i
  let s1 := s.putEntry i { e with cancelBy := e.cancelBy ++ [(n, seq)] }
  if e.inStep then s1 else s1.endRequest i false .aborted

/-! ### Deadlines (R351-R353) -/

/-- The balance record of a slice changed by `f`, if the keeper holds one. -/
def modBalance (s : State) (id : Nat) (f : Balance → Balance) : State :=
  { s with man := { s.man with balance := s.man.balance.map fun b => if b.sliceId = id then f b else b } }

/-- A deadline that passed counts in its slice's evaluation interval (R356). -/
def countLate (s : State) (e : Entry) : State :=
  s.modBalance (s.basin e.basin).sliceId.toNat fun b =>
    if e.tFirst = 0 then { b with firstLate := b.firstLate + 1 } else { b with nextLate := b.nextLate + 1 }

/-- NOTICE_LATE for deadline `d` of entry `i`, once for each deadline passed (R353, Table 12.16). -/
def noticeLate (s : State) (i : Nat) (d : Tick) : State :=
  let e := s.entry i
  s.noticeTo e.session 0x1002 (if e.latePolicy = 2 then .timedOut else .ok)
    (natBe 2 i ++ natBe 1 e.latePolicy ++ natBe 5 0 ++ natBe 8 e.requestId ++ natBe 8 d)

/-- NOTICE_LATE for deadline `d`, then the late policy (R352, Table 9.6). -/
def applyLate (s : State) (i : Nat) (d : Tick) : State :=
  let e := s.entry i
  let s1 := s.noticeLate i d
  match e.latePolicy with
  | 1 => s1.updEntry i fun x => { x with priority := 0, demoted := true, firstBudget := 0, nextBudget := 0, deadline := none }
  | 2 => s1.endRequest i false .timedOut
  | _ => s1

end State

/-- A command of this tick still waits: it goes before the manifest's timers that fall due in the tick (R334). -/
def State.commandsWait (s : State) : Bool :=
  s.pending.any fun c => match c with
    | .rinzanPacket .. | .i3cPrivateWrite .. => true
    | _ => false

/-- A timer that falls due acts at once, or at the end of the tick where a command of the tick waits (R334). -/
def State.timerDue (s : State) (t : Timer) (f : State → State) : State :=
  if s.commandsWait then { s with man := { s.man with due := s.man.due ++ [t] } } else f s

/-- A request's deadline passes (R351): between steps, and while its KV is rebuilt (Table 9.11), the notice and the policy act at that tick; with a step in
flight they wait for its end. -/
def deadlinePass (i : Nat) (s : State) : State :=
  let e := s.entry i
  match e.deadline with
  | some d =>
    if d < s.now ∧ e.active ∧ !e.onHold ∧ !e.lateNext ∧ !e.latePending then
      let s1 := s.countLate e
      if e.inStep ∧ e.st ≠ .paused then s1.putEntry i { e with latePending := true }
      else (s1.putEntry i { e with lateNext := true }).applyLate i d
    else s
  | none => s

/-- DEADLINE_PASS. -/
def execDeadlinePass (entry : Fin 4096) (s : State) : Host.Outcome State Fault Refusal :=
  .next (s.timerDue (.deadline entry) (deadlinePass entry))

/-- hold_ticks pass without an APPEND: DONE with status OK (Table 9.4). -/
def holdExpiry (i : Nat) (s : State) : State :=
  let e := s.entry i
  if e.onHold ∧ e.pauseTick + e.holdTicks ≤ s.now then s.endRequest i false .ok else s

/-- HOLD_EXPIRY. -/
def execHoldExpiry (entry : Fin 4096) (s : State) : Host.Outcome State Fault Refusal :=
  .next (s.timerDue (.hold entry) (holdExpiry entry))

/-- An ended entry becomes FREE after 100,000,000 rack ticks (Table 9.4). -/
def entryRelease (i : Nat) (s : State) : State :=
  let e := s.entry i
  if (e.st = .done ∨ e.st = .failed) ∧ e.endTick + 100000000 ≤ s.now then s.releaseEntry i else s

/-- ENTRY_RELEASE. -/
def execEntryRelease (entry : Fin 4096) (s : State) : Host.Outcome State Fault Refusal :=
  .next (s.timerDue (.release entry) (entryRelease entry))

/-- The timers that waited for the tick's commands act (R334). -/
def State.runTimers (s : State) : State :=
  s.man.due.foldl (fun t x => match x with
    | .deadline i => deadlinePass i t
    | .hold i => holdExpiry i t
    | .release i => entryRelease i t) { s with man := { s.man with due := [] } }

/-! ### Admission (R237, R337) -/

/-- Pages of KV that a request needs in basin `b` at its prompt length plus its generation limit (R237, R238). -/
def State.kvNeed (s : State) (b : Nat) (e : Entry) : Nat :=
  pagesFor ((e.promptLen + e.genLimit) * (((s.basin b).activeShare).map (·.kvBytes)).getD 0)

/-- The reservation of R237 succeeds in basin `b`: what the request does not hold yet fits the quota. -/
def State.kvFits (s : State) (b : Nat) (e : Entry) : Bool :=
  let x := (s.basin b).ctx e.ctx
  let k := Tbl.get KvSlot.fresh e.kvTag x.kvDir
  let held := k.pages.length + k.lists.length
  let need := s.kvNeed b e
  decide (need + listPages need ≤ x.pagesFree + held)

/-- The model of the active cut is HOT in the request's context in basin `b`. -/
def State.modelHot (s : State) (b c : Nat) : Bool :=
  match (s.basin b).activeShare with
  | some h => (s.basin b).residency c h.model h.edition == .hot
  | none => false

/-- Kind of the share that is active in basin `b` for context `c`: 0 prefill, 1 decode, 2 draft, 3 mixed (Table 3.2). -/
def State.activeKind (s : State) (b c : Nat) : Option Nat :=
  if (s.basin b).running = some c then ((s.basin b).activeShare).map (·.kind) else none

/-- The five conditions of R337. -/
def State.admissible (s : State) (e : Entry) : Bool :=
  let bs := s.servingBasins e
  decide (e.promptLen ≤ e.log.length) && decide (e.tSubmit ≤ s.now) && !bs.isEmpty &&
    (bs.all fun b => s.modelHot b e.ctx) &&
    (bs.any fun b => s.activeKind b e.ctx == some 0 || s.activeKind b e.ctx == some 3) &&
    (bs.all fun b => s.kvFits b e)

/-- A request leaves QUEUED when the conditions hold, and its pages are reserved in every basin that serves it. -/
def admission (i : Nat) (s : State) : State :=
  let e := s.entry i
  if e.st = .queued ∧ s.admissible e then
    (s.foldBasins (s.servingBasins e) fun t b => t.modBasin b fun x => x.growKv s.basinLines e.ctx e.kvTag (s.kvNeed b e)).putEntry i
      { e with st := .prefill, kvMoved := false }
  else s

/-- ADMISSION. -/
def execAdmission (entry : Fin 4096) (s : State) : Host.Outcome State Fault Refusal := .next (admission entry s)

/-! ### KV failures (R251, R254) -/

/-- The rebuild bit of a directory slot (Table 6.9). -/
def Basin.setRebuild (x : Basin) (dl c tag : Nat) (v : Bool) : Basin :=
  (x.modCtx c fun z => { z with kvDir := Tbl.mod KvSlot.fresh tag (fun k => { k with rebuild := v }) z.kvDir }).storeKv dl c tag

/-- A row of a step yields a token: a decode row, or the last chunk of a prompt (R345). -/
def State.rowYields (s : State) (r : FormRow) : Bool :=
  !r.prefill || (!r.rebuild && decide (r.pos + r.rows = (s.entry r.entry).promptLen))

/-- Tokens of a row that its voided step does not deliver; `f` says how many of its draft tokens a verifying step had accepted, which is open (R341,
log entry 71). -/
def State.lostTokens (s : State) (f : Nat) (r : FormRow) : Nat :=
  if !s.rowYields r then 0 else if r.draft = 0 then 1 else 1 + f % (r.draft + 1)

/-- Steps in flight that carry entry `i`: they are void, and their rows of it count in `f`. -/
def State.voidFlightsOf (s : State) (i : Nat) (f : FormRow → FormRow) : State :=
  { s with man := { s.man with flights := s.man.flights.map fun g =>
    if g.started && !g.sealed && g.kind != 2 && g.rows.any (·.entry == i) then
      { g with rows := g.rows.map fun r => if r.entry = i then f r else r } else g } }

/-- A KV line of entry `i` in basin `b` failed after its re-read (R251): the tokens of the step that it voids join the touched extent where the request ends
with it (R255), a rebuild begins with nothing rebuilt, and the void of this step counts for no further rebuild (R253). -/
def kvFailure (b i : Nat) (s : State) : State :=
  let e := s.entry i
  if e.st ≠ .prefill ∧ e.st ≠ .decode ∧ !(e.st = .paused ∧ e.pause = .rebuild) then s
  else
    let n := min 3 (e.rebuilds + 1)
    let rows := s.man.flights.flatMap fun g => if g.started && !g.sealed && g.kind != 2 then g.rows.filter (·.entry == i) else []
    let f := s.free
    let lost := (rows.map (s.lostTokens f.1)).foldl (· + ·) 0
    let s1 := ((if rows.any (fun r => decide (0 < r.draft)) then f.2 else s).putEntry i { e with rebuilds := n }).voidFlightsOf i fun r => { r with counted := true }
    if n = 3 then (s1.updEntry i fun x => { x with undelivered := x.undelivered + lost }).endRequest i true .parityUnrecovered
    else if e.st = .prefill then s1.updEntry i fun x => { x with prefilled := 0 }
    else
      let s2 := s1.updEntry i fun x => { x with st := .paused, pause := .rebuild, kvMoved := false, rebuilt := 0 }
      s2.modBasin b fun x =>
        let y := (x.chargeParity e.ctx 4 1).setRebuild s.basinLines e.ctx e.kvTag true
        { y with par := { y.par with rebuild := satAdd y.par.rebuild 1 } }

/-- The rebuild of a request seals, with every position before that of the last delivered token rebuilt (R251): DECODE again (Table 9.4). -/
def kvRebuildSeal (i : Nat) (s : State) : State :=
  let e := s.entry i
  if e.st = .paused ∧ e.pause = .rebuild ∧ e.promptLen + e.genLen - 1 ≤ e.rebuilt then
    (s.foldBasins (s.servingBasins e) fun t b => t.modBasin b fun x => x.setRebuild s.basinLines e.ctx e.kvTag false).putEntry i
      { e with st := .decode, pause := .none }
  else s

/-- KV_REBUILD_SEAL. -/
def execKvRebuildSeal (entry : Fin 4096) (s : State) : Host.Outcome State Fault Refusal := .next (kvRebuildSeal entry s)

/-- One of the draft passes before a target step ends (R358). -/
def draftPass (i : Nat) (s : State) : State :=
  let e := s.entry i
  if e.st = .decode ∧ e.draftDone < e.draftNow then s.putEntry i { e with draftDone := e.draftDone + 1 } else s

/-- DRAFT_PASS. -/
def execDraftPass (entry : Fin 4096) (s : State) : Host.Outcome State Fault Refusal := .next (draftPass entry s)

/-! ### Sampling and verification (R358) -/

/-- What a distribution gives a token. -/
def probOf (p : Dist) (x : BitVec 32) : BitVec 32 := ((p.find? fun e => e.1 == x).map (·.2)).getD 0#32

/-- The first maximum of a distribution: between equal values the lower token identity (R73, R358). -/
def firstMax (p : Dist) : Option (BitVec 32) :=
  (p.foldl (fun best e => match best with
    | none => some e
    | some m => match FVal.cmp (dec32 e.2).1 (dec32 m.2).1 with
      | some .gt => some e
      | some .eq => if e.1.toNat < m.1.toNat then some e else some m
      | _ => some m) none).map (·.1)

/-- A draft token is accepted: greedily where it is the first maximum of the target's distribution, else where u x q(x) ≤ p(x), the product rounded as the
vector unit rounds it (R71, R358). -/
def accepts (greedy : Bool) (p q : Dist) (u x : BitVec 32) : Bool :=
  if greedy then firstMax p == some x
  else match FVal.cmp (dec32 (lane32 FVal.mul u (probOf q x)).1).1 (dec32 (probOf p x)).1 with
    | some .gt | none => false
    | _ => true

/-- Draft tokens accepted before the first that is not. -/
def acceptedLen (greedy : Bool) : List (BitVec 32) → List Dist → List Dist → List (BitVec 32) → Nat
  | x :: xs, p :: ps, q, u =>
    if accepts greedy p (q.headD []) (u.headD 0#32) x then 1 + acceptedLen greedy xs ps q.tail u.tail else 0
  | _, _, _, _ => 0

/-- The tokens that a draw may give: those to which the residual max(0, p - q) gives more than 0, or p where it is all zero (R358). -/
def drawSupport (p : Dist) (q : Option Dist) : List (BitVec 32) :=
  let above := fun (l : Dist) => (p.filter fun e => FVal.cmp (dec32 e.2).1 (dec32 (probOf l e.1)).1 == some .gt).map (·.1)
  match q with
  | some l => if (above l).isEmpty then above [] else above l
  | none => above []

/-- The accepted length of a step with draft length `d`, and the tokens that it emits: the accepted draft tokens and one target token (R358). Which token of
its support a draw gives is the DRBG's, which the row brings. -/
def verifyStep (greedy : Bool) (d : Nat) (k : StepTokens) : Nat × List (BitVec 32) :=
  let a := acceptedLen greedy (k.drafts.take d) k.target k.proposal k.variates
  let p := (k.target[a]?).getD []
  let sup := drawSupport p (if a = d then none else k.proposal[a]?)
  let y := if greedy then (firstMax p).getD k.draw else if sup.contains k.draw then k.draw else sup.headD k.draw
  (a, (k.drafts.take a) ++ [y])

/-! ### Tokens of a step (R338, R349, R358, R360) -/

/-- The tokens that a delivery carries: up to the generation limit and through the stop token (R338, R358). -/
def keptTokens (stop : Nat) : Nat → List (BitVec 32) → List (BitVec 32)
  | 0, _ => []
  | _, [] => []
  | n + 1, t :: ts => if stop ≠ 0xFFFFFFFF ∧ t.toNat = stop then [t] else t :: keptTokens stop n ts

/-- What a step with draft length `d` and accepted length `a` does to the draft's fields (R360). -/
def Entry.draftStep (e : Entry) (d a : Nat) : Entry :=
  if 0 < d then
    let run := if a = 0 then e.rejectRun + 1 else 0
    let off := decide (run = 16)
    let e1 := { e with draftProposed := e.draftProposed + d, draftAccepted := e.draftAccepted + a,
                       turnProposed := e.turnProposed + d, turnAccepted := e.turnAccepted + a,
                       rejectRun := if off then 0 else run, draftOff := off || e.draftOff,
                       cooldown := if off then 256 else e.cooldown, draftDone := 0 }
    { e1 with draftLen := e1.draftNow }
  else
    let c := e.cooldown - 1
    let e1 := { e with cooldown := c, draftOff := e.draftOff && decide (0 < c), draftDone := 0 }
    { e1 with draftLen := e1.draftNow }

namespace State

/-- Entry `i`, changed to `e`, ends with the step that carries it; a deadline that passed in flight still has its notice (R351, R353). -/
def endLate (s : State) (i : Nat) (e : Entry) (failed : Bool) (st : Status) : State :=
  let s1 := (s.putEntry i e).endRequest i failed st
  if e.latePending then s1.noticeLate i (e.deadline.getD 0) else s1

/-- The tokens of a step reach the entry device (R338, R341, R347, R349, R351, R358): delivered in one TOKENS reply with
the timing, the draft fields and the deadline moved on, or not delivered where the request ends with its step, or waits for its KV (Table 9.4). -/
def deliverStep (s : State) (i d a : Nat) (toks : List (BitVec 32)) : State :=
  let e := s.entry i
  let gone := { e.draftStep d a with undelivered := e.undelivered + toks.length }
  if !e.active then s
  else if e.st = .paused then s.putEntry i gone
  else
    match e.failWith with
    | some f => s.endLate i gone true f
    | none =>
      if !e.cancelBy.isEmpty then s.endLate i gone false .aborted
      else
        let kept := keptTokens e.stopToken (e.genLimit - e.genLen) toks
        let late := e.latePending || e.lateNext
        let first := e.st == .prefill
        let e1 := (e.draftStep d a)
        let len := e.genLen + kept.length
        let ends := decide (e.genLimit ≤ len) || (kept.any fun t => e.stopToken ≠ 0xFFFFFFFF ∧ t.toNat = e.stopToken)
        let e2 := { e1 with
          st := .decode, genLen := len, log := e.log ++ kept, undelivered := e.undelivered + (toks.length - kept.length),
          tFirst := if first then s.now else e.tFirst, tLast := s.now,
          tPrev := if first then 0 else e.tLast, maxTbt := if first then e.maxTbt else min 0xFFFFFFFF (max e.maxTbt (s.now - e.tLast)),
          deadline := deadlineOf s.now e.nextBudget, lateCount := e.lateCount + (if late then 1 else 0),
          turnLate := e.turnLate + (if late then 1 else 0), lateNext := false, latePending := false, readmits := 0,
          inStep := false, finalSent := ends }
        let s1 := ((s.putEntry i e2).writeLog i e.log.length kept).sendTokens i late ends false e.genLen kept .ok
        let s2 := if !ends then s1
          else if e.hold then
            (s1.endTurn i).updEntry i fun x => { x with st := .paused, pause := .hold, deadline := none, pauseTick := s.now }
          else s1.endRequest i false .ok
        if e.latePending then s2.applyLate i (e.deadline.getD 0) else s2

/-- A step that carried entry `i` ends without a token for it: what waited for the step's end acts (R254, R340, R351), a new draft length among it
(R357). -/
def settleStep (s : State) (i : Nat) : State :=
  let e := s.entry i
  if !e.active then s
  else match e.failWith with
    | some f => s.endLate i e true f
    | none =>
      let e1 := if e.inStep then e else { e with draftLen := e.draftNow }
      if !e.cancelBy.isEmpty then s.endLate i e false .aborted
      else if e.latePending then
        (s.putEntry i { e1 with latePending := false, lateNext := true }).applyLate i (e.deadline.getD 0)
      else if e1 = e then s else s.putEntry i e1

end State

/-! ### Balance (R354-R356) -/

/-- Shares that the valid slots of context `c` hold in a basin. -/
def Basin.loaded (x : Basin) (c : Nat) : List Share :=
  ((List.range 4).filter fun k => (x.slot k).valid && (x.slot k).ctx.toNat == c).filterMap x.shareOf

/-- The slot of a basin that holds the other share of the active cut's model, of kind `kind`. -/
def Basin.otherSlot (x : Basin) (kind : Nat) : Option Nat :=
  match x.running, x.activeShare with
  | some c, some h => (List.range 4).find? fun k =>
      (x.slot k).valid && (x.slot k).ctx.toNat == c &&
        match x.shareOf k with | some g => g.kind == kind && g.model == h.model | none => false
  | _, _ => none

/-- Units of a slice whose active shares are of a kind, with their local basins. -/
def State.unitsOf (s : State) (id kind : Nat) : List (Nat × List Nat) :=
  let l := (s.localMembers id).filterMap fun b => ((s.basin b).activeShare).bind fun h =>
    if h.kind = kind then some (h.unit, b) else none
  (l.map (·.1)).eraseDups.map fun u => (u, (l.filter fun p => p.1 == u).map (·.2))

/-- Requests in a state whose context stands in one of the basins. -/
def State.requestsIn (s : State) (bs : List Nat) (st : ReqSt) : Nat :=
  (s.man.entries.filter fun e => e.2.st == st && bs.contains e.2.basin).length

/-- The unit with the fewest requests; ties go to the lowest first ordinal (R356). -/
def State.fewest (s : State) (us : List (Nat × List Nat)) (st : ReqSt) : Option (Nat × List Nat) :=
  us.foldl (fun best u => match best with
    | none => some u
    | some v =>
      let nu := s.requestsIn u.2 st
      let nv := s.requestsIn v.2 st
      let ou := (u.2.head?.bind s.ordinal).getD 0
      let ov := (v.2.head?.bind s.ordinal).getD 0
      if nu < nv ∨ (nu = nv ∧ ou < ov) then some u else some v) none

/-- Prompt tokens that await prefill in a slice (R356). -/
def State.awaiting (s : State) (id : Nat) : Nat :=
  (s.man.entries.map fun e =>
    if (e.2.st = .queued ∨ e.2.st = .prefill) ∧ (s.basin e.2.basin).sliceId.toNat = id then
      e.2.promptLen - e.2.prefilled else 0).foldl (· + ·) 0

/-- An accepted SET_BALANCE record waits for the keeper's next evaluation (R355). -/
def setPolicy (id : Nat) (p : BalanceP) (s : State) : State :=
  if s.man.balance.any fun b => b.sliceId == id then s.modBalance id fun b => { b with pending := some p }
  else
    let b : Balance := { sliceId := id, policy := none, pending := some p, lastEval := s.now, lastMove := 0, firstLate := 0,
                         nextLate := 0 }
    { s with man := { s.man with balance := s.man.balance ++ [b] } }

/-- The unit and the kind that one evaluation of the policy moves it to (R356). -/
def State.balanceMove (s : State) (id : Nat) (b : Balance) (p : BalanceP) : Option (Nat × List Nat) :=
  let q := s.awaiting id
  let pu := s.unitsOf id 0
  let du := s.unitsOf id 1
  if s.now - b.lastMove < p.holdTicks.toNat then none
  else if (p.queueHigh.toNat ≤ q ∨ p.firstLateHigh.toNat ≤ b.firstLate) ∧ b.nextLate < p.nextLateHigh.toNat ∧
      pu.length < p.maxPrefill.toNat then
    (s.fewest du .decode).map fun u => (0, u.2)
  else if (q ≤ p.queueLow.toNat ∨ p.nextLateHigh.toNat ≤ b.nextLate) ∧ b.firstLate < p.firstLateHigh.toNat ∧
      p.minPrefill.toNat < pu.length then
    (s.fewest pu .prefill).map fun u => (1, u.2)
  else none

/-- A selection of slots for the basins of a slice, as a SELECT_CUT's bytes (Table 12.6): 0xFF keeps. -/
def slotBytes (f : Nat → Option Nat) : List Byte :=
  (List.range 8).map fun b => match f b with | some k => BitVec.ofNat 8 k | none => 0xFF#8

/-- BALANCE_EVALUATION: at the end of the interval of the policy in effect the pending policy takes effect, the keeper `b` evaluates it, and a chosen move
becomes a pending switch of its basins (R355, R356). On another device of the slice the record only sets the rows of mixed shares (R344; log entry 186). -/
def balanceEvaluation (b : Nat) (s : State) : State :=
  let id := (s.basin b).sliceId.toNat
  match s.man.balance.find? fun x => x.sliceId == id with
  | none => s
  | some bal =>
    match bal.pending.orElse fun _ => bal.policy with
    | none => s
    | some p =>
      if s.now < bal.lastEval + ((bal.policy.getD p).evalTicks).toNat then s
      else
        let mv := if s.isKeeper b then s.balanceMove id bal p else none
        let s1 := s.modBalance id fun x => { x with
          policy := some p, pending := none, lastEval := s.now, firstLate := 0,
          nextLate := 0, lastMove := if mv.isSome then s.now else x.lastMove }
        match mv with
        | some (kind, bs) =>
          let bytes := slotBytes fun i => if bs.contains i then (s.basin i).otherSlot kind else none
          { s1 with selects := s1.selects ++ [{ session := 0, seq := 0, at_ := s.now, slice := id, bytes := bytes, armed := false }] }
        | none => s1

/-- BALANCE_EVALUATION. -/
def execBalanceEvaluation (b : BasinId) (s : State) : Host.Outcome State Fault Refusal := .next (balanceEvaluation b s)

/-- Rows per step that mixed shares of a slice give to prefill chunks (R344, R355). -/
def State.mixedRows (s : State) (id : Nat) : Nat :=
  match (s.man.balance.find? fun x => x.sliceId == id).bind (·.policy) with
  | some p => p.mixedPrefillRows.toNat
  | none => 0xFFFF

/-! ### Request commands (R446-R450) -/

/-- The length check of SUBMIT and APPEND: within max_len of every prefill, decode and mixed cut loaded, and of every draft cut while the request
drafts (Table 4.7). -/
def Basin.lenOk (x : Basin) (c len draft : Nat) : Bool :=
  (x.loaded c).all fun h => (h.kind == 2 && draft == 0) || decide (len ≤ h.maxLen)

/-- The draft check of SUBMIT and SET_DRAFT: within max_draft of every decode and mixed cut loaded; with a draft length above 0 the request fits
every draft cut (Table 4.7). -/
def Basin.draftOk (x : Basin) (c len draft : Nat) : Bool :=
  (x.loaded c).all fun h =>
    (h.kind != 2 || draft == 0 || decide (len ≤ h.maxLen)) && (!(h.kind == 1 || h.kind == 3) || decide (draft ≤ h.maxDraft))

/-- A positive finite FP32 value. -/
def posFinite (w : BitVec 32) : Bool := w.getLsbD 31 == false && w != 0#32 && decide (w.toNat < 0x7F800000)

/-- Ranges of SUBMIT's parameters (Table 12.9). -/
def submitParamsOk (p : SubmitP) : Bool :=
  decide (1 ≤ p.promptLen.toNat) && decide (1 ≤ p.genLimit.toNat) && decide (p.priority.toNat < 8) &&
    decide (p.latePolicy.toNat ≤ 2) && decide (p.draftReq.toNat ≤ 8) && decide (p.flags.toNat < 2) &&
    (p.temperature == 0#32 || posFinite p.temperature) && posFinite p.topP && decide (p.topP.toNat ≤ 0x3F800000) &&
    decide (p.topK.toNat ≤ 16) && decide (1 ≤ p.tokens.length) && decide (p.tokens.length ≤ 2048) &&
    decide (p.tokens.length ≤ p.promptLen.toNat)

/-- The entry that SUBMIT takes within its context's range (R335, R469): the lowest FREE one, else the DONE or FAILED one
that ended earliest. -/
def State.takeEntry (s : State) (b c : Nat) : Option Nat :=
  let r := (s.basin b).manCtx c
  let idx := (List.range r.count.toNat).map (r.base.toNat + ·)
  match idx.find? fun i => (s.entry i).st == .free with
  | some i => some i
  | none => idx.foldl (fun best i =>
      let e := s.entry i
      if e.st = .done ∨ e.st = .failed then
        match best with
        | some j => if e.endTick < (s.entry j).endTick then some i else some j
        | none => some i
      else best) none

/-- Pages of a token log of `n` tokens (R336). -/
def logPagesFor (n : Nat) : Nat := pagesFor (4 * n)

/-- SUBMIT in basin `b` (R335, R336, R446). -/
def runSubmit (h : Hdr) (p : SubmitP) (s : State) : Run :=
  let c := h.context.toNat
  match maskBasins h.mask with
  | [b] =>
    let len := p.promptLen.toNat + p.genLimit.toNat
    if !submitParamsOk p then refuse s .badParam
    else if s.power.inputLow then refuse s .powerLimited
    else if !((s.basin b).lenOk c len p.draftReq.toNat && (s.basin b).draftOk c len p.draftReq.toNat) then refuse s .shapeExceedsPlan
    else
      match s.takeEntry b c with
      | none => refuse s .noResource
      | some i =>
        let s1 := s.releaseEntry i
        let pages := logPagesFor len
        if ((s1.basin b).ctx c).pagesFree < pages then refuse s .noResource
        else
          let t0 := max s.now h.notBefore.toNat
          let e : Entry := { Entry.fresh with
            st := .queued, session := h.session.toNat, requestId := p.requestId.toNat, promptLen := p.promptLen.toNat,
            genLimit := p.genLimit.toNat, tSubmit := t0, deadline := deadlineOf t0 p.firstBudget.toNat,
            firstBudget := p.firstBudget.toNat, nextBudget := p.nextBudget.toNat, holdTicks := p.holdTicks.toNat,
            kvTag := s.requestTag b i, draftReq := p.draftReq.toNat, draftLen := p.draftReq.toNat,
            stopToken := p.stopToken.toNat, basin := b, ctx := c, priority := p.priority.toNat,
            latePolicy := p.latePolicy.toNat, hold := p.flags.getLsbD 0, temperature := p.temperature, topP := p.topP,
            topK := p.topK.toNat, log := p.tokens, turnTokens := p.promptLen.toNat, logPages := pages,
            turnSeq := h.seq.toNat, peer := h.peer }
          let s2 := ((s1.modBasin b fun x => x.setLog c i pages).putEntry i e).writeLog i 0 p.tokens
          .done { st := s2, status := .ok, committed := p.tokens.length, touched := p.tokens.length,
                  body := natBe 2 i ++ natBe 2 0 ++ natBe 4 p.tokens.length }
  | _ => refuse s .badParam

/-- The session may address a request's context (R411, R447). -/
def mayAddress (x : Session) (b c : Nat) : Bool := x.role == .operator || (decide (x.ctx = c) && x.basins.getLsbD b)

/-- The request that a command names by entry and request_id, if its session may name it (R447). -/
def State.namedEntry (s : State) (h : Hdr) (entry : BitVec 16) (requestId : BitVec 64) : Option Entry :=
  match s.session h.session.toNat with
  | some x =>
    let e := s.entry entry.toNat
    if entry.toNat < 4096 ∧ e.st ≠ .free ∧ e.requestId = requestId.toNat ∧ mayAddress x e.basin e.ctx then some e else none
  | none => none

/-- APPEND (R336, R339, R448). -/
def runAppend (h : Hdr) (p : AppendP) (s : State) : Run :=
  let i := p.entry.toNat
  let n := p.tokens.length
  if n = 0 ∨ 2048 < n then refuse s .badParam
  else match s.namedEntry h p.entry p.requestId with
  | none => refuse s .wrongState
  | some e =>
    if e.st = .queued ∧ e.log.length < e.promptLen then
      if p.genLimit ≠ 0 ∨ p.turnTokens ≠ 0 ∨ e.promptLen < e.log.length + n then refuse s .badParam
      else if !(s.basin e.basin).lenOk e.ctx (e.promptLen + e.genLimit) e.draftReq then refuse s .shapeExceedsPlan
      else .done { st := (s.putEntry i { e with log := e.log ++ p.tokens }).writeLog i e.log.length p.tokens, status := .ok, committed := n, touched := n,
                   body := natBe 4 (e.log.length + n) }
    else if e.onHold then
      let len := e.promptLen + e.genLen + p.turnTokens.toNat
      let pages := logPagesFor (len + p.genLimit.toNat)
      if p.genLimit = 0 ∨ p.turnTokens.toNat < n then refuse s .badParam
      else if !(s.basin e.basin).lenOk e.ctx (len + p.genLimit.toNat) e.draftReq then refuse s .shapeExceedsPlan
      else if ((s.basin e.basin).ctx e.ctx).pagesFree + e.logPages < pages then refuse s .noResource
      else
        let e' := { e with
          st := .queued, pause := .none, promptLen := len, genLimit := p.genLimit.toNat,
          prefilled := e.promptLen + e.genLen - 1, genLen := 0, tFirst := 0, tLast := 0, maxTbt := 0, tSubmit := s.now,
          deadline := deadlineOf s.now e.firstBudget, log := e.log ++ p.tokens, turnTokens := p.turnTokens.toNat,
          logPages := pages, turnSeq := h.seq.toNat, peer := h.peer, tPrev := 0, turnLate := 0, turnProposed := 0, turnAccepted := 0, lateNext := false,
          undelivered := 0, finalSent := false }
        let s1 := s.modBasin e.basin fun x => x.setLog e.ctx i pages
        .done { st := (s1.putEntry i e').writeLog i e.log.length p.tokens, status := .ok, committed := n, touched := n, body := natBe 4 (e.log.length + n) }
    else refuse s .wrongState

/-- CANCEL (R340, R449): at once, or with the step in flight. -/
def runCancel (h : Hdr) (entry : BitVec 16) (requestId : BitVec 64) (s : State) : Run :=
  match s.namedEntry h entry requestId with
  | none => refuse s .wrongState
  | some e =>
    if !e.active then refuse s .wrongState
    else if e.inStep then .later (s.cancelRequest entry.toNat h.session.toNat h.seq.toNat) 0
    else .done { st := s.endRequest entry.toNat false .aborted, status := .ok, committed := e.genLen,
                 touched := e.genLen + e.undelivered, body := [] }

/-- TOKENS: the tokens of the turn from a position, resent from the log in deliveries of up to nine (R421, R449). A line of the log that fails its re-read
ends the request (R254, R625). -/
def runTokens (h : Hdr) (entry : BitVec 16) (requestId : BitVec 64) (position : BitVec 32) (s : State) : Run :=
  match s.namedEntry h entry requestId with
  | none => refuse s .wrongState
  | some e =>
    if e.genLen < position.toNat then refuse s .badParam
    else if s.logStuck entry.toNat (e.promptLen + position.toNat) (e.genLen - position.toNat) then
      refuse (s.endRequest entry.toNat true .parityUnrecovered) .parityUnrecovered
    else
      let s := s.readLog entry.toNat (e.promptLen + position.toNat) (e.genLen - position.toNat)
      let toks := e.turnTokensOut.drop position.toNat
      let k := (toks.length + 8) / 9
      let s1 := (List.range k).foldl (fun t j => t.sendTokens entry.toNat false false true (position.toNat + 9 * j)
        ((toks.drop (9 * j)).take 9) .ok) s
      .done { st := s1, status := .ok, committed := toks.length, touched := toks.length, body := [] }

/-- SET_DRAFT (R357). -/
def runSetDraft (h : Hdr) (entry : BitVec 16) (draftReq : Byte) (requestId : BitVec 64) (s : State) : Run :=
  if 8 < draftReq.toNat then refuse s .badParam
  else match s.namedEntry h entry requestId with
  | none => refuse s .wrongState
  | some e =>
    if !e.active then refuse s .wrongState
    else if !(s.basin e.basin).draftOk e.ctx (e.promptLen + e.genLimit) draftReq.toNat then refuse s .shapeExceedsPlan
    else
      let e1 := { e with draftReq := draftReq.toNat }
      took (s.putEntry entry.toNat (if e.inStep then e1 else { e1 with draftLen := e1.draftNow })) []

/-- Code of the pause field (Table 9.2). -/
def Pause.code : Pause → Nat
  | .none => 0 | .hold => 1 | .rebuild => 2

/-- The control word of an entry (Table 9.2). -/
def Entry.ctl (e : Entry) : Nat :=
  let b := fun (x : Bool) (k : Nat) => if x then 2 ^ k else 0
  e.st.code * 2 ^ 29 + e.basin * 2 ^ 26 + e.ctx * 2 ^ 24 + e.priority * 2 ^ 21 + e.latePolicy * 2 ^ 19 + b e.latePending 18 +
    e.pause.code * 2 ^ 16 + b e.hold 15 + b e.demoted 14 + b e.inStep 13 + b e.draftOff 12 + e.draftLen * 256

/-- The 128 B of an entry (Table 9.1), little-endian. -/
def Entry.bytes (e : Entry) : List Byte :=
  if e.st = .free then List.replicate 128 0
  else
    natLe 4 e.ctl ++ natLe 2 (if e.st = .done ∨ e.st = .failed then e.status.code else 0) ++ natLe 2 e.session ++
    natLe 8 e.requestId ++ natLe 4 e.promptLen ++ natLe 4 e.prefilled ++ natLe 4 e.genLen ++ natLe 4 e.genLimit ++
    natLe 8 e.tSubmit ++ natLe 8 (e.deadline.getD 0xFFFFFFFFFFFFFFFF) ++ natLe 8 e.tFirst ++ natLe 8 e.tLast ++
    natLe 4 e.maxTbt ++ natLe 4 e.firstBudget ++ natLe 4 e.nextBudget ++ natLe 4 e.holdTicks ++
    natLe 4 (e.basin * 2 ^ 29 + e.kvTag) ++ natLe 4 e.lateCount ++ natLe 4 e.draftProposed ++ natLe 4 e.draftAccepted ++
    natLe 1 e.draftReq ++ natLe 1 e.rejectRun ++ natLe 2 e.cooldown ++ natLe 1 e.readmits ++ natLe 1 e.rebuilds ++
    natLe 2 0 ++ natLe 4 e.stopToken ++ natLe 20 0

/-- MANIFEST_READ (R330, R331). -/
def runManifestRead (h : Hdr) (first count : BitVec 16) (s : State) : Run :=
  if count.toNat = 0 ∨ 64 < count.toNat ∨ 4096 < first.toNat + count.toNat then refuse s .badParam
  else match s.session h.session.toNat with
  | none => refuse s .noSession
  | some x =>
    let one := fun j =>
      let e := s.entry (first.toNat + j)
      if mayAddress x e.basin e.ctx then e.bytes else List.replicate 128 0
    .done { st := s, status := .ok, committed := count.toNat, touched := count.toNat,
            body := (List.range count.toNat).flatMap one }

/-- MANIFEST_STATS (R450, Table 12.10): every field summed over the named basins, turn statistics cleared. -/
def runManifestStats (h : Hdr) (s : State) : Run :=
  let c := h.context.toNat
  let cs := (maskBasins h.mask).map fun b => (s.basin b).ctx c
  if cs.isEmpty then refuse s .badParam
  else
    let sum := fun (f : Ctx → Nat) => (cs.map f).foldl (· + ·) 0
    let mx := fun (f : Ctx → Nat) => (cs.map f).foldl max 0
    let totals := fun (f : Ctx → Tbl Nat) (n : Nat) => (List.range n).flatMap fun k => natBe 8 (sum fun x => Tbl.get 0 k (f x))
    let skip := (List.range 512).flatMap fun k => natBe 4 (min 0xFFFFFFFF (sum fun x => (Tbl.get 0#32 k x.skip).toNat))
    let body := natBe 4 (sum (·.stats.turns)) ++ natBe 4 (sum (·.stats.late)) ++ natBe 8 (sum (·.stats.ttftSum)) ++
      natBe 4 (mx (·.stats.ttftMax)) ++ natBe 4 (mx (·.stats.maxTbt)) ++ natBe 8 (sum (·.stats.proposed)) ++
      natBe 8 (sum (·.stats.accepted)) ++ totals (·.arith) 7 ++ totals (·.sluice) 4 ++ totals (·.parity) 8 ++
      totals (·.barges) 4 ++ skip
    let s1 := s.foldBasins (maskBasins h.mask) fun t b => t.modBasin b fun x => x.modCtx c fun z =>
      { z with stats := TurnStats.fresh }
    took s1 body

end Sys2Proof.Machine
end

