-- ==== Sys2Proof/Machine/Steps.lean ====
section
/-! DEFINITION. The steps of pounds: forming (R343-R345, R172), starting (R107, R143, R322, R323), phrases (R103, R164),
ends, seals and voids (R242-R246), the other collectives of a step (R169, R387), local replay (R244), re-admission (R247), the hand-off of
tokens (R242, R358). STEP barges are issued in Prefetch.lean (R322). -/

namespace Sys2Proof.Machine

/-! ### Pounds of a cut and their queues -/

namespace State

/-- Queues in use of a list of a pound-table entry (Table 3.3). -/
def usedQueues (l : List Nat) : List Nat := l.filter (· != 0xFF)

/-- The consumer pounds of a pound's output queues. -/
def consumers (s : State) (hp : Nat × Nat) : List (Nat × Nat) :=
  (usedQueues ((s.basin hp.1).pound hp.2).pdef.outQ).filterMap fun q =>
    let c := (s.queueOf hp.1 q).consumer
    if c = 0xFF then none else some (c / 16, c % 16)

/-- The pounds that a list of pounds feeds, itself among them; `fuel` bounds the length of a path. -/
def downstream (s : State) : Nat → List (Nat × Nat) → List (Nat × Nat)
  | 0, l => l
  | n + 1, l =>
    let more := ((l.flatMap s.consumers).eraseDups).filter fun p => !l.contains p
    if more.isEmpty then l else downstream s n (l ++ more)

/-- Pound `p` of basin `h` lies on the path of a flight's step. -/
def onPath (s : State) (f : Flight) (h p : Nat) : Bool := (s.downstream 128 [(f.home, f.pound)]).contains (h, p)

/-- A message to every consumer of a pound: one for each output queue (R143, R242). -/
def tellConsumers (s : State) (h p : Nat) (m : Nat → Msg) : State :=
  (usedQueues ((s.basin h).pound p).pdef.outQ).foldl (fun t q =>
    let c := (s.queueOf h q).consumer
    t.send h (if c = 0xFF then .egress q else .basin (c / 16)) (m q)) s

/-- The pound's context has a route record for a layer of the pound (R181, R246). -/
def poundRoute (s : State) (h p : Nat) : Option Nat :=
  let q := (s.basin h).pound p
  (List.range 32).find? fun r =>
    let x := (s.basin h).route q.ctx r
    decide (0 < x.experts) && decide (q.pdef.firstLayer ≤ x.layer) && decide (x.layer < q.pdef.firstLayer + q.pdef.layers)

/-- The route record of a layer of the pound (R178, R181). -/
def routeAt (s : State) (h p layer : Nat) : Option Nat :=
  let q := (s.basin h).pound p
  (List.range 32).find? fun r =>
    let x := (s.basin h).route q.ctx r
    decide (0 < x.experts) && decide (x.layer = layer)

/-- The routes of the layers that a pound runs. -/
def poundRoutes (s : State) (h p : Nat) : List Nat :=
  let q := (s.basin h).pound p
  (List.range 32).filter fun r =>
    let x := (s.basin h).route q.ctx r
    decide (0 < x.experts) && decide (q.pdef.firstLayer ≤ x.layer) && decide (x.layer < q.pdef.firstLayer + q.pdef.layers)

/-- Source pounds of the slice of basin `b` may start and form steps: no lock tick has passed (R133). -/
def beforeLock (s : State) (b : Nat) : Bool := match (s.basin b).part.tLock with | some t => decide (s.now < t) | none => true

/-- The pounds that push into a pound's input queues. -/
def producers (s : State) (hp : Nat × Nat) : List (Nat × Nat) :=
  (usedQueues ((s.basin hp.1).pound hp.2).pdef.inQ).filterMap fun q => producerOf (s.queueOf hp.1 q)

/-- The hold of a gap move reaches a pound: it has a tile in the row, or an input or output queue whose route crosses it (R124). -/
def moveHolds (s : State) (h p : Nat) : Bool :=
  (List.range 8).any fun b =>
    match (s.basin b).maint.move with
    | some m =>
      let row := 4 * b + m.1
      let rows := fun (x : Nat × Nat) =>
        let d := ((s.basin x.1).pound x.2).pdef
        (4 * x.1 + d.top, 4 * x.1 + d.top + d.height)
      let own := rows (h, p)
      (s.basin b).maint.moveHeld && ((decide (own.1 ≤ row) && decide (row < own.2)) ||
        ((s.consumers (h, p) ++ s.producers (h, p)).any fun c => decide (min own.1 (rows c).1 ≤ row) && decide (row < max own.2 (rows c).2)))
    | none => false

end State

/-! ### Step formation (R163, R172, R342-R345) -/

/-- Manifest order: priority, then deadline, then tag (R342). -/
def manifestBefore (a b : Nat × Entry) : Bool :=
  let da := a.2.deadline
  let db := b.2.deadline
  if a.2.priority ≠ b.2.priority then decide (b.2.priority < a.2.priority)
  else match da, db with
    | some x, some y => if x ≠ y then decide (x < y) else decide (a.2.kvTag < b.2.kvTag)
    | some _, none => true
    | none, some _ => false
    | none, none => decide (a.2.kvTag < b.2.kvTag)

/-- An entry put into a list in manifest order. -/
def manifestInsert (a : Nat × Entry) : List (Nat × Entry) → List (Nat × Entry)
  | [] => [a]
  | x :: xs => if manifestBefore a x then a :: x :: xs else x :: manifestInsert a xs

namespace State

/-- The active cut pair assigns this entry device to source pound `p` of basin `b`: the only device of its slice, or as Foloon fixed it (R343). -/
def assigned (s : State) (b p : Nat) : Bool :=
  let id := (s.basin b).sliceId.toNat
  decide (((s.membersOf id).map (·.1)).eraseDups.length ≤ 1) || decide (Config.entryAssigned (s.cutOf b) p (s.deviceOrdinal id) = 0)

/-- The requests of context `c` in the slice of basin `b`, in manifest order, where the cut assigns this device to source pound `p`. -/
def candidates (s : State) (b p c : Nat) : List (Nat × Entry) :=
  let bs := s.sliceBasins b
  if !s.assigned b p then []
  else ((s.man.entries.filter fun e => e.2.active && e.2.ctx == c && bs.contains e.2.basin)).foldl (fun l e => manifestInsert e l) []

/-- Rows of entry `i` in steps that have not ended. -/
def rowsInFlight (s : State) (i : Nat) : List (Flight × FormRow) :=
  s.man.flights.flatMap fun f => if f.kind = 2 then [] else (f.rows.filter fun r => r.entry == i).map fun r => (f, r)

/-- A started step carries entry `i` (Table 9.2). -/
def carried (s : State) (i : Nat) : Bool := (s.rowsInFlight i).any fun x => x.1.started

/-- First prompt position of an entry that no sealed or standing step covers, from `p` on; `fuel` bounds the search. -/
def nextPos (rows : List FormRow) : Nat → Nat → Nat
  | 0, p => p
  | n + 1, p => match rows.find? fun r => decide (r.pos ≤ p) && decide (p < r.pos + r.rows) with
    | some r => nextPos rows n (r.pos + r.rows)
    | none => p

/-- A prefill chunk of an entry or of its rebuild: first position, and how many positions remain before the end or the
next covered one. None while a chunk of it waits at or runs in the source pound (R343, R345). -/
def nextChunk (s : State) (i : Nat) (e : Entry) : Option (Nat × Nat × Bool) :=
  let rebuild := e.st == .paused && e.pause == .rebuild
  let fl := s.rowsInFlight i
  let busy := fl.any fun x => !x.1.started || (((s.basin x.1.home).pound x.1.pound).running &&
    ((s.basin x.1.home).pound x.1.pound).step == x.1.step)
  if busy || !(e.st == .prefill || rebuild) then none
  else
    let rows := (fl.map (·.2)).filter (·.prefill)
    let p := nextPos rows (rows.length + 1) (if rebuild then e.rebuilt else e.prefilled)
    let total := if rebuild then e.promptLen + e.genLen - 1 else e.promptLen
    let stop := rows.foldl (fun a r => if p < r.pos ∧ r.pos < a then r.pos else a) total
    if p < stop then some (p, stop - p, rebuild) else none

/-- Rows that remain in a step under formation. -/
structure Room where
  rows : Nat
  seqs : Nat
  form : List FormRow

/-- A DECODE request joins with 1 + draft_len rows, whole or not at all (R343, R358, R362). -/
def joinDecode (s : State) (r : Room) (x : Nat × Entry) : Room :=
  let d := x.2.draftNow
  if x.2.st = .decode ∧ (s.rowsInFlight x.1).isEmpty ∧ d ≤ x.2.draftDone ∧ 1 + d ≤ r.rows ∧ 1 ≤ r.seqs then
    { rows := r.rows - (1 + d), seqs := r.seqs - 1,
      form := r.form ++ [{ entry := x.1, rows := 1 + d, pos := x.2.promptLen + x.2.genLen - 1, prefill := false,
                           rebuild := false, draft := d, counted := false }] }
  else r

/-- A PREFILL request joins with a chunk of as many tokens as fit (R343). -/
def joinPrefill (s : State) (r : Room) (x : Nat × Entry) : Room :=
  match s.nextChunk x.1 x.2 with
  | some (p, n, rb) =>
    let k := min n r.rows
    if 1 ≤ k ∧ 1 ≤ r.seqs then
      { rows := r.rows - k, seqs := r.seqs - 1,
        form := r.form ++ [{ entry := x.1, rows := k, pos := p, prefill := true, rebuild := rb, draft := 0, counted := false }] }
    else r
  | none => r

/-- A draft share runs one draft pass of each DECODE request that still needs one and that no draft step carries (R343, R344, R358). -/
def joinDraft (s : State) (r : Room) (x : Nat × Entry) : Room :=
  let busy := s.man.flights.any fun f => f.kind == 2 && f.rows.any fun k => k.entry == x.1
  if x.2.st = .decode ∧ x.2.draftDone < x.2.draftNow ∧ !busy ∧ 1 ≤ r.rows ∧ 1 ≤ r.seqs then
    { rows := r.rows - 1, seqs := r.seqs - 1,
      form := r.form ++ [{ entry := x.1, rows := 1, pos := x.2.promptLen + x.2.genLen - 1 + x.2.draftDone, prefill := false,
                           rebuild := false, draft := 0, counted := false }] }
  else r

/-- A request whose directory line, or whose token-log lines of the tokens that its next step takes, wait for their ladder joins no step (R248, R625). -/
def linesWait (s : State) (i : Nat) : Bool :=
  let e := s.entry i
  s.dirBad i || (if e.st = .decode then s.logBad i (e.promptLen + e.genLen - 1) 1 else s.logBad i 0 (e.promptLen + e.genLen - 1))

/-- The rows of the next step of a source pound under the active share (R172, R344). -/
def formRows (s : State) (b p c : Nat) (h : Share) : List FormRow :=
  let l := (s.candidates b p c).filter fun x => !s.linesWait x.1
  let r0 : Room := { rows := h.maxRows, seqs := h.maxSeqs, form := [] }
  match h.kind with
  | 0 => (l.foldl s.joinPrefill r0).form
  | 1 => (l.foldl s.joinDecode r0).form
  | 2 => (l.foldl s.joinDraft r0).form
  | _ =>
    let r1 := l.foldl s.joinDecode r0
    let cap := s.mixedRows (s.basin b).sliceId.toNat
    let k := if cap = 0xFFFF then r1.rows else min cap r1.rows
    (l.foldl s.joinPrefill { r1 with rows := k }).form

end State

/-- STEP_FORMATION: firmware of a source pound forms its next step from the manifest, before the lock tick (R133, R343); it reads the directory slot and the
log of each request that it adds (R625). -/
def stepFormation (b p : Nat) (s : State) : State :=
  let q := (s.basin b).pound p
  match (s.basin b).activeShare, (s.basin b).running with
  | some h, some c =>
    if !q.pdef.source || q.pdef.height == 0 || q.ctx != c || q.nextFormed.isSome || (s.basin b).st.state != .serving || !s.beforeLock b then s
    else
      let rows := s.formRows b p c h
      if rows.isEmpty then s
      else
        let n := if q.running then q.step + 1 else q.step
        let f : Flight := { home := b, pound := p, step := n, kind := h.kind, rows := rows, started := false, sealed := false,
                            voided := false, byFence := false }
        let s1 := { s.modPound b p (fun y => { y with nextFormed := some n }) with
          man := { s.man with flights := s.man.flights ++ [f] } }
        rows.foldl (fun t r => t.readLog r.entry r.pos (if r.prefill then r.rows else 1)) s1
  | _, _ => s

/-! ### Step start (R107, R143, R167, R323) -/

namespace State

/-- The step that stands formed at a source pound. -/
def formedFlight (s : State) (b p n : Nat) : Option Flight :=
  s.man.flights.find? fun f => f.home == b && f.pound == p && f.step == n && !f.started

/-- Rows, sequences and record addresses of the step that a pound would start: a source pound's from its formed step, any
other's from the shape record of its input queues; a void step runs as one of zero rows (R143, R245). -/
def stepShape (s : State) (b p : Nat) : Option ShapeRec :=
  let q := (s.basin b).pound p
  let qs := usedQueues q.pdef.inQ
  if q.pdef.source then
    (q.nextFormed.bind fun n => s.formedFlight b p n).map fun f =>
      { qid := 0xFF, step := f.step, rows := (f.rows.map (·.rows)).foldl (· + ·) 0, seqs := f.rows.length,
        seqTable := Config.freeNat s.freeCtr, mooring := Config.freeNat (s.freeCtr + 1) }
  else
    let recs := qs.map fun i => q.shapes.find? fun r => r.qid == i && r.step == q.step
    if qs.isEmpty || recs.any (·.isNone) then none
    else (recs.head?.bind id).map fun r => if q.voids.any fun v => v.2 == q.step then { r with rows := 0, seqs := 0 } else r

/-- A barge lands in a tile of the pound, or not in a tile. -/
def bargeOf (s : State) (b h p : Nat) (d : BargeHdr) : Bool :=
  match d.dst with
  | .opbuf _ pos _ _ | .sram _ pos _ => s.covers h p (4 * b + pos.toNat / 32) (pos.toNat % 32)
  | _ => true

/-- A barge of basin `b` that `f` picks has not landed: it stands in the engine, or waits in a tow of context `c`. -/
def bargeWaits (s : State) (b c : Nat) (f : BargeHdr → Bool) : Bool :=
  ((s.basin b).eng.slots.any fun e => f e.2.hdr && e.2.status.isNone) || (Tbl.get [] c (s.basin b).eng.tows).any fun t => t.waiting.any f

/-- A STEP barge of step `n` of a pound has not landed from basin `b` (R323). -/
def stepBargeWaits (s : State) (b h p n : Nat) : Bool :=
  let q := (s.basin h).pound p
  s.bargeWaits b q.ctx fun d => d.cls == .step && d.ctx.val == q.ctx && d.step.toNat == n % 2 ^ 32 && s.bargeOf b h p d

/-- KV of a DECODE request of the formed step still moves to a basin of the slice (R346). -/
def kvMoves (s : State) (b p n : Nat) : Bool :=
  let q := (s.basin b).pound p
  let tags := match s.man.flights.find? fun f => f.home == b && f.pound == p && f.step == n && !f.started with
    | some f => (f.rows.filter fun (r : FormRow) => !r.prefill).map fun (r : FormRow) => (s.entry r.entry).kvTag
    | none => []
  q.pdef.source && (s.sliceBasins b).any fun y =>
    let pages := tags.flatMap fun t => (Tbl.get KvSlot.fresh t ((s.basin y).ctx q.ctx).kvDir).pages
    s.bargeWaits y q.ctx fun d => d.cls == .collective && match d.dst with
      | .lpddr _ a => pages.contains (a.toNat / 65536)
      | _ => false

/-- The three conditions of R107, with the STEP barges of R323 and the KV that R346 moves, in basins of one slice (R28). -/
def mayStart (s : State) (b p : Nat) (r : ShapeRec) : Bool :=
  let x := s.basin b
  let q := x.pound p
  let void := q.voids.any fun v => v.2 == q.step
  let inputs := (usedQueues q.pdef.inQ).all fun i =>
    let n := flitsOf (s.queueOf b i) r.rows
    (void || q.sealed.contains (i, q.step)) && decide (n ≤ s.queueHeld b i q.step)
  let credits := (usedQueues q.pdef.outQ).all fun i => decide (flitsOf (s.queueOf b i) r.rows ≤ Tbl.get 0 i q.credits)
  let barges := ((s.poundBasins b p).all fun y => !s.stepBargeWaits y b p r.step) && !s.kvMoves b p r.step
  let serving := (s.poundBasins b p).all fun y => (s.basin y).st.state == .serving && !(s.basin y).st.held && s.borderOpen b y
  decide (x.running = some q.ctx) && serving && !q.running && !q.held && !q.stopped && !s.moveHolds b p && inputs && credits &&
    (!q.pdef.source || s.beforeLock b) && barges

/-- Rate of the LPDDR5X channels in MT/s (Table 6.3). -/
def memRate (s : State) : Nat :=
  match s.memDev.speed.toNat with
  | 0 => 6400 | 1 => 7500 | 2 => 8533 | _ => 9600

/-- What the planning rate rests on: the contexts of the basin, and the rate of its channels (R316). -/
def paceOf (s : State) (b : Nat) : Nat × Nat := (max 1 (s.basin b).existing.length, s.memRate)

end State

/-- No accumulator of a pound's tiles holds a value of the step that begins (R92, R146). -/
def State.freshBlocks (s : State) (b p : Nat) : State :=
  (s.poundTiles b p).foldl (fun t i => t.modTile i fun x => x.spent (List.range 32)) s

/-- STEP_START: the sequencer starts the step, sets every lane of the work counter to 0 and sends the shape record to every
consumer (R107, R143, R157); the requests of a source pound's step are in flight from here (R351). -/
def stepStart (b p : Nat) (s : State) : State :=
  match s.stepShape b p with
  | none => s
  | some r =>
    if !s.mayStart b p r then s
    else
      let q := (s.basin b).pound p
      let s1 := (s.freshBlocks b p).modPound b p fun y => { y with
        step := r.step, running := true, startTick := s.now, startDuty := s.power.duty.toNat, rows := r.rows, seqs := r.seqs,
        at_ := (0, 0), piece := 0, pace := s.paceOf b, phrase := none, phraseOn := false, lanes := [], laneSeg := 0, commits := [],
        taint := false, unrepaired := false, replays := 0,
        replaying := false, nextFormed := if y.pdef.source then none else y.nextFormed }
      let s2 := s1.tellConsumers b p fun i => .shape b p { r with qid := i }
      let s3 := { s2 with freeCtr := s2.freeCtr + 2 }
      if !q.pdef.source then s3
      else
        let f := s3.formedFlight b p r.step
        let s4 := { s3 with man := { s3.man with flights := s3.man.flights.map fun g =>
          if g.home = b ∧ g.pound = p ∧ g.step = r.step ∧ !g.started then { g with started := true } else g } }
        match f with
        | some g => if g.kind = 2 then s4 else
            g.rows.foldl (fun t x => t.modEntry x.entry fun e => { e with inStep := true }) s4
        | none => s4

/-- A shape record reaches a consumer's sequencer (R143). The flits that a producer on another device pushes in the step count from it (R386,
R626). -/
def shapeRec (b p : Nat) (r : ShapeRec) (s : State) : State :=
  let q := s.queueOf b r.qid
  let s1 := if q.producer = 0xFF ∧ !(q.marks.any fun m => m.1 == r.step) then
      s.modQueueOf b r.qid fun y => y.push r.step (flitsOf y r.rows) else s
  s1.modPound b p fun y => { y with shapes := (y.shapes.filter fun z => !(z.qid == r.qid && z.step == r.step)) ++ [r] }

/-! ### The sequencer program (R142, R164, R166) -/

/-- The sequencer program of pound `i` of a cut: its phrases layer by layer, in program order (R142). -/
def programOf (cut i : Nat) (d : PoundDef) : List ProgItem :=
  (List.range d.layers).flatMap fun l => (List.range (min 24 (Config.programLength cut i l))).map fun k =>
    let v := Config.programItem cut i l k
    { layer := d.firstLayer + l, phrase := v % 256 % 24,
      kind := match v / 256 % 3 with | 0 => .dense | 1 => .grouped | _ => .attention }

/-- The matrix operation of phrase `k` of pound `i`, where it has one: activations 0xFF say that it runs none (R43, R44). -/
def formOf (cut i k : Nat) : Option PhraseForm :=
  let v := Config.phraseFormats cut i k
  match modeOfCode (Config.phraseMode cut i k), sparsityOfCode (Config.phraseStructure cut i k), fmtOfCode (v % 256), fmtOfCode (v / 256 % 256) with
  | some m, some sp, some a, some w => some { mode := m, sp := sp, act := a, wgt := w }
  | _, _, _, _ => none

/-- What Foloon fixed for phrase `k` of pound `i`, with s within s_max (Table 4.1), segments within the 4,096 operations of a step (Table 4.7) and the
unit's bytes from Table 2.5. -/
def planOf (cut i k : Nat) (r : Ring) : PhrasePlan :=
  { s := max 1 (min (max 1 r.sMax) (Config.phraseStrips cut i k)), ku := max 1 (Config.phraseKUnits cut i k),
    unitBytes := ((formOf cut i k).map fun f => weightBytes f.mode f.sp f.wgt).getD 0, beat := max 1 (Config.phraseBeat cut i k),
    fill := Config.phraseFill cut i k, segs := max 1 (min 4096 (Config.phraseSegments cut i k)), form := formOf cut i k,
    reduces := Config.phraseReduces cut i k }

/-- What a sequencer may issue next: the phrase of an item for one of its entries (a sequence, or a slot of the mooring table); nothing until the
mooring table stands; nothing more in this step. -/
inductive NextPhrase where
  | issue (k : Nat) (it : ProgItem) (e : Nat)
  | waits
  | done
  deriving DecidableEq, Repr

namespace State

/-- Entries of a program item from entry `j` on, as plan_step takes them: the rows of the step, its sequences in packing order, or the non-empty
entries of the mooring table in slot order (R163, R166, R202); none while the table does not stand (R198). -/
def entriesOf (s : State) (b p : Nat) (it : ProgItem) (j : Nat) : Option (List Nat) :=
  let q := (s.basin b).pound p
  match it.kind with
  | .dense => some (if q.rows = 0 ∨ 0 < j then [] else [0])
  | .attention => some ((List.range q.seqs).filter fun e => decide (j ≤ e))
  | .grouped =>
    match s.routeAt b p it.layer with
    | none => some []
    | some r =>
      let k := (s.basin b).routeStep q.ctx r (q.step % 2 ^ 32)
      if k.moored then some ((k.table.filter fun e => decide (0 < e.2.1) && decide (j ≤ e.1)).map (·.1)) else none

/-- The first phrase from entry `j` of item `k` on. -/
def nextFrom (s : State) (b p : Nat) : List ProgItem → Nat → Nat → NextPhrase
  | [], _, _ => .done
  | it :: l, k, j =>
    match s.entriesOf b p it j with
    | none => .waits
    | some [] => nextFrom s b p l (k + 1) 0
    | some (e :: _) => .issue k it e

/-- The shape of step `n` of a pound, as its record or the formed step gives it (R143). -/
def shapeOf (s : State) (h p n : Nat) : Option ShapeRec :=
  (((s.basin h).pound p).shapes.find? fun r => r.step == n).orElse fun _ =>
    (s.man.flights.find? fun f => f.home == h && f.pound == p && f.step == n).map fun f =>
      { qid := 0xFF, step := n, rows := (f.rows.map fun (r : FormRow) => r.rows).foldl (· + ·) 0, seqs := f.rows.length, seqTable := 0, mooring := 0 }

/-- The sequences of a pound's step: request tag and actual length L, in packing order (R163), from this device's manifest where the step came from it,
else from the step's sequence table in basin memory (R143). -/
def stepSeqs (s : State) (h p n : Nat) : List (Nat × Nat) :=
  match s.man.flights.find? fun f => f.step == n && (s.onPath f h p || (f.home == h && f.pound == p)) with
  | some f => if f.kind = 2 then [] else f.rows.map fun (r : FormRow) => ((s.entry r.entry).kvTag, r.pos + r.rows)
  | none => match s.shapeOf h p n with
    | none => []
    | some r =>
      let bs := (s.basin h).peek s.basinLines ((s.basin h).pound p).ctx r.seqTable 4096
      (List.range (min r.seqs 128)).map fun i => (Config.seqEntry bs i 0, Config.seqEntry bs i 1 % 2 ^ 17)

/-- Bytes of a stream in basin `y`. -/
def streamBytes (s : State) (h p n y layer : Nat) : Nat :=
  ((s.stepSeqs h p n).map fun q => (q.2 + 31) / 32 * 32 * Config.kvLayer (s.cutOf y) layer 0).foldl (· + ·) 0

/-- Halves of a paced item's stream in its home basin: one piece for each (R325). -/
def halvesOf (s : State) (h p n : Nat) (it : ProgItem) : Nat :=
  let part := max 1 (s.halfPart h p h it.phrase)
  (s.streamBytes h p n h it.layer + part - 1) / part

/-- The phrases that the sequencer of a pound may start next. Of a paced attention phrase there is one piece for each landing half: the next piece begins
in the sequence of the last one, or in the next, and after the last half the program goes on (R325). -/
def nextPhrases (s : State) (b p : Nat) : List NextPhrase :=
  let q := (s.basin b).pound p
  let k := q.at_.1
  let e := q.at_.2
  if q.piece = 0 then [s.nextFrom b p (q.prog.drop k) k e]
  else
    match q.prog[k]? with
    | none => [.done]
    | some it =>
      if s.halvesOf b p q.step it ≤ q.piece then [s.nextFrom b p (q.prog.drop (k + 1)) (k + 1) 0]
      else .issue k it e :: (if e + 1 < q.seqs then [.issue k it (e + 1)] else [])

/-- Every phrase of the step has run (R142). -/
def programDone (s : State) (b p : Nat) : Bool := (s.nextPhrases b p).contains .done

/-- Actual length of sequence `j` of a pound's step, where the step came from this device's manifest: the positions before the step's rows and the rows
themselves (R165). -/
def seqLen (s : State) (b p j : Nat) : Option Nat :=
  let q := (s.basin b).pound p
  (s.man.flights.find? fun f => f.started && f.step == q.step && s.onPath f b p).bind fun f => (f.rows[j]?).map fun r => r.pos + r.rows

/-! ### Zero fill (R168) -/

/-- Words of a phrase, from word `i` of slot `k` to its END, with the DRAIN operations among them. -/
def drainWords (m : Memory) (k : Nat) : Nat → Nat → List (Nat × Option SchedOp)
  | 0, _ => []
  | n + 1, i =>
    match decodeSched (Memory.word64 m (wordByte k i)) with
    | none | some .endWord => [(i, none)]
    | some (.drain f b o st fn bank a) => (i, some (.drain f b o st fn bank a)) :: drainWords m k n (i + 1)
    | some _ => (i, none) :: drainWords m k n (i + 1)

/-- Blocks that a DRAIN operation writes. -/
def drainCount : SchedOp → Nat
  | .drain _ blocks _ _ _ _ _ => blocks.toNat + 1
  | _ => 0

/-- The output of one DRAIN word as zeros: every element zero in its format, every zero-map bit 0, of blocks whose bits begin at `z` (R168). -/
def zeroBlocks (s : State) (t : Nat) (z : ZMap) (o : SchedOp) : State :=
  match o with
  | .drain _ _ fmt _ _ bank addr =>
    match fmtOfCode fmt.toNat with
    | none => s
    | some f =>
      let n := drainCount o
      let one := (narrowBlock f (blockScaled f) 0x3F800000#32 (List.replicate 32 (List.replicate 32 (.fin false 0 0)))).1
      let s1 := s.writeOp t (opAddr bank addr) ((List.range n).flatMap fun _ => one)
      s1.modTile t fun x => { x with mem := { x.mem with
        opbuf := (List.range n).foldl (fun m i => setZmapBit m z i false) x.mem.opbuf } }
  | _ => s

/-- zero_fill of a phrase: its outputs in every tile of the pound, the zero-map bits of each DRAIN word after those of the one before it; the schedule
memory that it reads is checked (R83, R168). -/
def zeroFill (s : State) (b p : Nat) (ph : PhraseP) : State :=
  (s.poundTiles b p).foldl (fun u t =>
    let m := (u.tile t).mem.sched
    let k := u.runSlot t
    let u1 := u.consume t .sched ((32768 * k + 0x40 + 8 * ph.phrase) / 4) 2
    ((drainWords m k 4048 (phraseEntry m k ph.phrase).1).foldl (fun (v : State × Nat) e =>
      let s1 := v.1.consume t .sched (wordByte k e.1 / 4) 2
      match e.2 with
      | none => (s1, v.2)
      | some o => (s1.zeroBlocks t { ph.zmap with first := ph.zmap.first + v.2 } o, v.2 + drainCount o)) (u1, 0)).1) s

/-! ### Start cycles of paced pieces (R316, R325) -/

/-- Cycles that fill one half at the planning rate of `pace`: 0.9 x 2 B x the rate x 4 channels, shared by the contexts of the basin (R316, R325). -/
def fillCycles (pace : Nat × Nat) (half : Nat) : Nat :=
  let den := 72 * pace.2
  (half * pace.1 * 10000 + den - 1) / max 1 den

/-- Start cycle of piece `k` after a piece that started at `last`, each of `len` cycles (R325). -/
def pieceStartAt (k last len fill : Nat) : Nat :=
  if k = 0 then 0 else if k = 1 then len else max (last + len) (len + (k - 1) * fill)

end State

/-! ### Phrases (R103, R164) -/

/-- Step parameters of a phrase (Table 4.3): R, G, c, S, the sequence count, the key blocks of an attention phrase, and SP6 to SP15 as Foloon fixed
them. DESIGN CHOICE: no table says where the slot image holds those ten, and the row brings them (log entry 179). -/
def stepParams (q : Pound) (ph : PhraseP) (plan : PhrasePlan) (rows : Nat) : List (BitVec 32) :=
  let g := State.groupCount q.pdef.ring.g rows
  let c := if q.pdef.ring.shape = 0 then g else plan.segs * passesOf (ringSize q.pdef.ring) g
  [rows, g, c, plan.segs, q.seqs, if ph.kind = .attention then rows / 32 else 0].map (BitVec.ofNat 32) ++ ph.params.take 10

namespace State

/-- A tile begins a phrase: the first word of its phrase-table entry, the phrase length base + c x the cycles of an iteration, step parameters, no
weight tile that an earlier phrase loaded, and fresh loops, claims and gathers (R40, R100, R103). Flits that wait in its input registers have come before. -/
def beginPhrase (s : State) (t : Nat) (ph : PhraseP) (sp : Tbl (BitVec 32)) : State :=
  let k := s.runSlot t
  let e := s.tileEntry t ph.phrase
  let s1 := s.consume t .sched ((32768 * k + 0x40 + 8 * ph.phrase) / 4) 2
  s1.modTile t fun y =>
    let core := { y.core with
      inPhrase := true, phrase := some ph, sp := sp, pc := e.1, cyc := 0, used := [], loops := [], ops := [], claims := 0, gathers := 0,
      drained := 0, iters := 0, sets := [], stage := [], due := 0, loaded := false, pack := none,
      len := e.2.1 + (Tbl.get 0#32 e.2.2.2 sp).toNat * e.2.2.1 }
    { y with core := core, net := { y.net with
        route := none, inq := y.net.inq.map fun i => (i.1, i.2.map fun f => (f.1 - y.core.len, f.2)) } }

/-- The pound's own length of a phrase, as its first tile holds it. -/
def phraseLen (s : State) (b p : Nat) : Nat := match s.poundTiles b p with | t :: _ => (s.tile t).core.len | [] => 0

end State

/-- PHRASE_START: the sequencer issues the next phrase of its program, for the next entry of it, to every tile of the pound in one cycle with its step
parameters (R103, R142, R164); a grouped phrase once its mooring table stands (R105, R198), a piece of a paced attention phrase not before its
start cycle (R325). An entry of zero rows starts nothing; where its reduction extent is zero, and not its output extent, its outputs are zero filled
(R168). More than
4,096 tile operations raise OVERFLOW_FAULT (R173). The commit bitmap and the lanes begin anew (R157, R162). -/
def phraseStart (b p : Nat) (ph : PhraseP) (s : State) : State :=
  let x := s.basin b
  let q := x.pound p
  let named := (s.nextPhrases b p).findSome? fun n => match n with
    | .issue k it e =>
      let entry := match it.kind with | .dense => 0 | .attention => ph.seq | .grouped => ph.slot.toNat
      let route := it.kind != .grouped || s.routeAt b p it.layer == some ph.route.toNat
      if ph.layer = it.layer ∧ ph.phrase = it.phrase ∧ ph.kind = it.kind ∧ entry = e ∧ route then some (k, e) else none
    | _ => none
  match named with
  | none => s
  | some (k, e) =>
    let lenOk := ph.kind != .attention || match s.seqLen b p ph.seq with | some n => decide (ph.len = n) | none => true
    let paced := ph.kind == .attention && decide (0 < Config.halfBytes (s.cutOf b) p ph.phrase)
    if !q.running || q.phraseOn || q.stopped || x.st.state != .serving || !lenOk || (ph.half.isSome != (paced && decide (0 < ph.len))) then s
    else if ph.kind = .attention ∧ ph.len = 0 then
      let cut := ((x.activeShare).map (·.cutId)).getD 0
      (if Config.phraseReduces cut p ph.phrase then s.zeroFill b p ph else s).modPound b p fun y => { y with
        at_ := (k, e + 1), piece := if paced ∧ k = q.at_.1 then q.piece else 0 }
    else
      let cut := ((x.activeShare).map (·.cutId)).getD 0
      let plan := planOf cut p ph.phrase q.pdef.ring
      let fresh := q.piece = 0 ∨ k ≠ q.at_.1
      let n := if fresh then 0 else q.piece
      let y : Pound := { q with phrase := some ph, phraseOn := true, plan := plan, lanes := [], laneSeg := 0, commits := [] }
      let rows := s.phraseRows b y
      let sps := stepParams q ph plan rows
      let sp : Tbl (BitVec 32) := (List.range 16).foldl (fun t i => Tbl.set 0#32 i ((sps[i]?).getD 0#32) t) []
      if 4096 < q.pdef.ring.rings * plan.segs * State.groupCount q.pdef.ring.g rows then s.poundFault b p .overflow
      else
        let s1 := s.modPound b p fun _ => y
        let s2 := (s.poundTiles b p).foldl (fun t i => t.beginPhrase i ph sp) s1
        let len := s2.phraseLen b p
        let at0 := State.pieceStartAt n q.pieceStart len (State.fillCycles q.pace (Config.halfBytes cut p ph.phrase))
        let s3 := match ph.half with
          | none => s2.modPound b p fun z => { z with at_ := (k, e + 1), piece := 0 }
          | some _ => s2.modPound b p fun z => { z with
              at_ := (k, e), piece := n + 1, pieceStart := at0, pieceTick := if n = 0 then s.now else z.pieceTick }
        let s3 := if ph.kind = .grouped ∧ s.mooringBad b q.ctx ph.route.toNat (q.step % 2 ^ 32) then s3.modPound b p fun z => { z with taint := true }
          else s3
        match ph.half with
        | some h =>
          if h ≠ decide (n % 2 = 1) ∨ (0 < n ∧ 10 * (s.now - q.pieceTick) < at0) then s
          else s3.record b 0 (BitVec.ofNat 8 q.ctx) (data48 p ph.phrase rows)
        | none => s3.record b 0 (BitVec.ofNat 8 q.ctx) (data48 p ph.phrase rows)

/-- PHRASE_START. -/
def execPhraseStart (b : BasinId) (p : PoundId) (ph : PhraseP) (s : State) : Host.Outcome State Fault Refusal :=
  .next (phraseStart b p ph s)

/-! ### Sealing and voiding (R242-R246) -/

namespace State

/-- Flits of step `n` of queue `i` leave its storage, and their credits are owed to the producer (R115, R243). -/
def dropStep (s : State) (b i n : Nat) : State :=
  let q := s.queueOf b i
  let k := s.queueHeld b i n
  let s1 := (s.queueTiles q).foldl (fun t u => t.modTile u fun y =>
    let part := Tbl.get QPart.fresh i y.net.queue
    let left := { part with stored := part.stored.filter fun e => q.stepAt e.1 != some n, taken := 0 }
    { y with net := { y.net with queue := Tbl.set QPart.fresh i left y.net.queue } }) s
  s1.modQueueOf b i fun y => { y with marks := y.marks.filter fun m => m.1 != n, popped := 0, owed := y.owed + k }

/-- The pound's inputs of its step are complete: storage, shapes, seals, voids and route steps of the step are done with, its tiles end
their phrase, and the next step stands at the boundary (R243). -/
def closeStep (s : State) (b p : Nat) : State :=
  let q := (s.basin b).pound p
  let s1 := (usedQueues q.pdef.inQ).foldl (fun t i => t.dropStep b i q.step) (s.endTiles b p)
  let rs := s.poundRoutes b p
  let s2 := s1.modBasin b fun x => { x with sluice := { x.sluice with
    steps := x.sluice.steps.filter fun k => !(k.ctx == q.ctx && rs.contains k.route && k.step == q.step % 2 ^ 32) } }
  s2.modPound b p fun y => { y with
    running := false, phraseOn := false, step := y.step + 1, taint := false, unrepaired := false, replays := 0,
    replaying := false, shapes := y.shapes.filter fun r => r.step != q.step,
    sealed := y.sealed.filter fun r => r.2 != q.step, voids := y.voids.filter fun r => r.2 != q.step }

/-- The collectives of the step that the cut names, REDUCE, GATHER and HANDOFF: one message to each basin that the pound's basin addresses, and
the pound's own contribution to a REDUCE; a step of zero rows sends empty ones (R169, R387, R388). What the rows hold is open: no rule places
them in the tiles (log entry 46). -/
def sendCollectives (s : State) (b p : Nat) : State :=
  let q := (s.basin b).pound p
  let cut := (((s.basin b).activeShare).map (·.cutId)).getD 0
  (List.range (Config.collectiveCount cut p % 64)).foldl (fun u i =>
    let c := Config.collective cut p i
    let kind := 3 + c 0 % 3
    let f := u.free
    let vals := (List.range (q.rows * c 3)).map fun j => BitVec.ofNat 32 (f.1 / 2 ^ (32 * j))
    let h := a2aHdr kind (c 1 % 32) (c 2) (q.step % 2 ^ 32) q.rows 0 0
    let s1 := f.2.modBasin b fun x => if kind = 3 then x.addPart kind q.ctx h vals none else x
    (List.range (c 4)).foldl (fun v j => v.send b (.member (s.basin b).sliceId.toNat (c (5 + j))) (.collective q.ctx h vals)) s1) s

/-- Prompt tokens whose KV a sealed step of source pound `src` wrote count as prefilled, or as rebuilt, and the request's position moves on (Table 9.1, R247,
R251). -/
def sealRow (src : Nat × Nat) (s : State) (r : FormRow) : State :=
  s.modEntry r.entry fun e =>
    if r.prefill && r.rebuild then (if e.rebuilt = r.pos then { e with rebuilt := r.pos + r.rows, prefillAt := some src } else e)
    else if r.prefill && e.st == .prefill then
      (if e.prefilled = r.pos then { e with prefilled := r.pos + r.rows, prefillAt := some src, readmits := 0 } else e)
    else e

/-- An entry's in_step follows the steps that still carry it. -/
def refreshInStep (s : State) (i : Nat) : State := s.modEntry i fun e => { e with inStep := s.carried i }

/-- A sink pound sealed a step: its KV is sealed, rows that yield no token are through, a step of their cooldown among them (R360), and the others wait for
the hand-off of their tokens (R242). A prompt's last chunk yields its token only when every earlier chunk's KV is sealed (R345). -/
def sinkSeal (s : State) (b p n : Nat) : State :=
  let mine := fun (f : Flight) => f.started && f.step == n && !f.voided && !f.sealed && s.onPath f b p
  (s.man.flights.filter mine).foldl (fun t f =>
    let t1 := if f.kind = 2 then t else f.rows.foldl (sealRow (f.home, f.pound)) t
    let yields := fun (r : FormRow) => t1.rowYields r && (!r.prefill || decide ((t1.entry r.entry).promptLen ≤ (t1.entry r.entry).prefilled))
    let stay := if f.kind = 2 then [] else f.rows.filter yields
    let gone := if f.kind = 2 then [] else f.rows.filter fun r => !yields r
    let f' := { f with rows := stay, sealed := true }
    let rest := t1.man.flights.filter fun g => !(g == f)
    let t2 := { t1 with man := { t1.man with flights := if stay.isEmpty then rest else rest ++ [f'] } }
    gone.foldl (fun u r => ((u.modEntry r.entry fun e => e.draftStep 0 0).refreshInStep r.entry).settleStep r.entry) t2) s

/-- The step is sealed: the seal travels to every consumer (R242). -/
def sealStep (s : State) (b p : Nat) : State :=
  let q := (s.basin b).pound p
  let s1 := (s.sendCollectives b p).tellConsumers b p fun i => .seal b p i q.step
  let s2 := if q.pdef.sink then s1.sinkSeal b p q.step else s1
  (s2.closeStep b p).record b 1 (BitVec.ofNat 8 q.ctx) (data48 p q.step 0)

/-- The flights whose step passes through a pound are void (R245). -/
def voidFlights (s : State) (b p n : Nat) (byFence : Bool) : State :=
  { s with man := { s.man with flights := s.man.flights.map fun f =>
    if f.started && f.step == n && !f.sealed && s.onPath f b p then { f with voided := true, byFence := f.byFence || byFence }
    else f } }

/-- The peers of a pound's routes receive the void seal, each once (R246). -/
def tellPeers (s : State) (b p : Nat) : State :=
  let q := (s.basin b).pound p
  let peers := ((s.poundRoutes b p).flatMap fun r =>
    let rr := (s.basin b).route q.ctx r
    ((List.range rr.peers).filter (· != rr.self)).map fun i => (rr.peerOrd[i]?).getD 0).eraseDups
  peers.foldl (fun t o => t.send b (.member (s.basin b).sliceId.toNat o) (.void b p 0xFF q.step)) s

/-- The pound voids its step: a void seal to its consumers, and to the peers of its route (R245, R246); counted where the
pound voids and does not only pass a void on (Table 6.13). After a fence the exchanges of R246 are left out (R521). -/
def voidStep (s : State) (b p : Nat) (counts byFence : Bool) : State :=
  let q := (s.basin b).pound p
  let s1 := s.tellConsumers b p fun i => .void b p i q.step
  let s2 := if counts then
      (if byFence then s1 else (s1.sendCollectives b p).tellPeers b p).modBasin b fun x =>
        let y := x.chargeParity q.ctx 3 1
        { y with par := { y.par with void := satAdd y.par.void 1 } }
    else s1
  ((s2.voidFlights b p q.step byFence).closeStep b p).record b 1 (BitVec.ofNat 8 q.ctx) (data48 p q.step 1)

/-! ### Repair of recorded sources (R241, Table 6.10) -/

/-- Word `w` of tile `t`'s column holds a retained input of the step of pound (b, p): a flit of the step in queue storage. -/
def retained (s : State) (b p t w : Nat) : Bool :=
  let q := (s.basin b).pound p
  (usedQueues q.pdef.inQ).any fun i =>
    let k := s.queueOf b i
    (Tbl.get QPart.fresh i (s.tile t).net.queue).stored.any fun e =>
      k.stepAt e.1 == some q.step && decide (s.queueByte t k e.2 / 4 ≤ w) && decide (w < s.queueByte t k e.2 / 4 + 16)

/-- A recorded word that a further read or the replay itself makes good again: a transient one, the operand buffer, the accumulator, and a word
of the dynamic region that is no retained input (Table 6.10). -/
def selfRepairs (s : State) (b p t : Nat) (e : ParErr) : Bool :=
  e.space != .sched && (e.transient || e.space == .opbuf || e.space == .acc ||
    (e.space == .column && s.inDynamic (tileBasin t) (4 * e.word) 4 && !s.retained b p t e.word))

/-- Slots of a tile whose schedule memory holds a recorded error. -/
def badSlots (x : Tile) : List Nat :=
  (List.range 4).filter fun k => x.mem.parity.any fun e => e.space == .sched && e.seen && e.word / 8192 == k

/-- The recorded sources of a pound's tiles are repaired as far as Table 6.10 repairs them without a chunk reload: a slot is loaded again from the
cut store (R141), and a word that passed its re-read counts in BSN_PAR_TRANSIENT. -/
def repairSources (s : State) (b p : Nat) : State :=
  let q := (s.basin b).pound p
  (s.poundTiles b p).foldl (fun u0 t =>
    let u := (badSlots (u0.tile t)).foldl (fun v k => v.reloadSlot t k) u0
    let errs := (u.tile t).mem.parity
    let good := fun (e : ParErr) => e.seen && u.selfRepairs b p t e
    let reread := fun (e : ParErr) => !u.inDynamic (tileBasin t) (4 * e.word) 4 || u.retained b p t e.word
    let n := (errs.filter fun e => good e && e.transient && (e.space == .column) && reread e).length
    if errs.any good then
      let u1 := u.modTile t fun x => { x with mem := { x.mem with parity := errs.filter fun e => !good e } }
      u1.modBasin (tileBasin t) fun x =>
        let y := if n = 0 then x else x.chargeParity q.ctx 0 n
        { y with par := { y.par with transient := satAdd y.par.transient n } }
    else u) s

/-- A recorded source still waits for its chunk (R249). -/
def sourcesPending (s : State) (b p : Nat) : Bool :=
  (s.poundTiles b p).any fun t => (s.tile t).mem.parity.any fun e => e.seen && !s.selfRepairs b p t e

/-- A retained input of the step stays bad: its re-read fails (Table 6.10). -/
def inputBad (s : State) (b p : Nat) : Bool :=
  (s.poundTiles b p).any fun t => (s.tile t).mem.parity.any fun e =>
    e.seen && !e.transient && e.space == .column && s.retained b p t e.word

/-- Every dispatch and combine exchange of the pound's routes in its step is complete: its combine messages have left, every peer's is held and
the contributions are formed (R190, R206, R207). -/
def exchangesDone (s : State) (b p : Nat) : Bool :=
  let q := (s.basin b).pound p
  (s.poundRoutes b p).all fun r =>
    let k := (s.basin b).routeStep q.ctx r (q.step % 2 ^ 32)
    k.routed && k.moored && k.combineSent && k.complete

/-- A pass of the sluice in the pound's step met a parity error and has not been repeated (R204). -/
def passesBad (s : State) (b p : Nat) : Bool :=
  let q := (s.basin b).pound p
  (s.poundRoutes b p).any fun r =>
    let k := (s.basin b).routeStep q.ctx r (q.step % 2 ^ 32)
    !k.rowBad.isEmpty || !k.areaBad.isEmpty

end State

/-- STEP_END: the step's last phrase ended and every exchange of its routes is complete (R142, R190, R206). With no taint the pound seals it
(R242); a fenced basin seals nothing (Table 6.11). A taint holds a pound without a route record for repair and replay, twice at most (R244, R245); a pound with a route record voids the
step (R246), and so does a peer that holds the void seal of its route, and a consumer passes a void on (R245). A parity error in the sluice
that no repeated pass has mended taints the step (Table 6.10). -/
def stepEnd (b p : Nat) (s : State) : State :=
  let q := (s.basin b).pound p
  let taint := q.taint || s.passesBad b p
  let fenced := (s.poundBasins b p).any fun y => (s.basin y).st.state == .fenced
  if fenced || !q.running || q.phraseOn || q.stopped || !s.programDone b p || !s.exchangesDone b p then s
  else if q.voids.any fun v => v.1 == 0xFF && v.2 == q.step then (s.repairSources b p).voidStep b p true false
  else if q.voids.any fun v => v.2 == q.step then s.voidStep b p false false
  else if !taint then s.sealStep b p
  else if (s.poundRoute b p).isSome ∨ q.unrepaired ∨ 2 ≤ q.replays then (s.repairSources b p).voidStep b p true false
  else s.modPound b p fun y => { y with replaying := true }

/-- STEP_END. -/
def execStepEnd (b : BasinId) (p : PoundId) (s : State) : Host.Outcome State Fault Refusal := .next (stepEnd b p s)

/-- SEAL: the producer sealed its step; a consumer counts the step's flits from here (R242). -/
def execSeal (b : BasinId) (p : PoundId) (qid : BitVec 8) (step : Nat) (s : State) : Host.Outcome State Fault Refusal :=
  .next (s.modPound b p fun y => if y.sealed.contains (qid.toNat, step) then y
    else { y with sealed := y.sealed ++ [(qid.toNat, step)] })

/-- A void seal arrives: the step will run as one of zero rows, and the step's flits in the queue are discarded (R245). -/
def voidArrival (b p qid n : Nat) (s : State) : State :=
  let q := (s.basin b).pound p
  let s1 := s.modPound b p fun y => if y.voids.contains (qid, n) then y else { y with voids := y.voids ++ [(qid, n)] }
  if qid = 0xFF ∨ (q.running ∧ q.step = n) then s1 else s1.dropStep b qid n

/-- VOID. -/
def execVoid (b : BasinId) (p : PoundId) (qid : BitVec 8) (step : Nat) (s : State) : Host.Outcome State Fault Refusal :=
  .next (voidArrival b p qid.toNat step s)

/-- What the step pushed to queue `i` so far is taken back, in storage, in egress buffers and on its way, so that a replay pushes the same flits
to the same positions without credits (R244). -/
def State.unpush (s : State) (b p i n : Nat) : State :=
  let q := s.queueOf b i
  let first := q.first n
  let home := (s.queueHome b i).getD b
  let out := fun (l : List QFlit) => l.filter fun f => !(f.flit.qid.toNat == i && f.home == home && f.step == n)
  let s1 := (s.poundTiles b p).foldl (fun t k => t.modTile k fun y => { y with net := { y.net with egress := out y.net.egress } }) s
  let s2 := (s1.tiles.map (·.1)).foldl (fun t k => t.modTile k fun y => { y with net := { y.net with transit := out y.net.transit } }) s1
  let tiles := s.queueTiles q
  let s3 := (tiles.zip (List.range tiles.length)).foldl (fun t k => t.modTile k.1 fun y =>
    let part := Tbl.get QPart.fresh i y.net.queue
    let back := { part with arrived := (first + tiles.length - 1 - k.2) / tiles.length, stored := part.stored.filter fun e => decide (e.1 < first) }
    { y with net := { y.net with queue := Tbl.set QPart.fresh i back y.net.queue } }) s2
  s3.modQueueOf b i fun y => { y with marks := y.marks.filter fun m => m.1 != n, pushed := first }

/-- LOCAL_REPLAY: with every recorded source repaired, the sequencer runs the step again from its retained inputs, on a
fresh commit bitmap (R244); a source that cannot be repaired voids the step (R245). -/
def localReplay (b p : Nat) (s : State) : State :=
  let q := (s.basin b).pound p
  if !q.running || !q.replaying || !q.taint || q.phraseOn || 2 ≤ q.replays || !s.programDone b p then s
  else
    let s1 := s.repairSources b p
    if q.unrepaired || s1.inputBad b p then s1.voidStep b p true false
    else if s1.sourcesPending b p then s1
    else
      let s2 := (s.poundTiles b p).foldl (fun t i => t.modTile i fun x => { x with net := { x.net with
        queue := (State.usedQueues q.pdef.inQ).foldl (fun l j => Tbl.mod QPart.fresh j (fun k => { k with taken := 0 }) l) x.net.queue } }) s1
      let s3 := (State.usedQueues q.pdef.inQ).foldl (fun t i => t.modQueueOf b i fun y => { y with popped := 0 }) s2
      let s3 := (State.usedQueues q.pdef.outQ).foldl (fun t i => t.unpush b p i q.step) s3
      let s4 := (s3.freshBlocks b p).modPound b p fun y => { y with
        taint := false, replays := y.replays + 1, at_ := (0, 0), piece := 0, phrase := none, lanes := [], laneSeg := 0, commits := [] }
      s4.modBasin b fun x =>
        let y := x.chargeParity q.ctx 2 1
        { y with par := { y.par with replay := satAdd y.par.replay 1 } }

/-! ### Re-admission (R247, R254, R523) -/

/-- A request of a void step: its tokens of the step count as touched (R341, how many a verifying step computed is open);
it joins a later step with the same input, three times at most at one position unless a fence voided it (R247, R254). The void of a rebuild's own step
counts as a rebuild, once (Table 6.11). -/
def readmitRow (byFence : Bool) (s : State) (r : FormRow) : State :=
  let e := s.entry r.entry
  if !e.active then s
  else
    let f := s.free
    let s1 := f.2.modEntry r.entry fun x => { x with undelivered := x.undelivered + s.lostTokens f.1 r, draftDone := 0 }
    let s2 := s1.refreshInStep r.entry
    if e.failWith.isSome || !e.cancelBy.isEmpty then s2.settleStep r.entry
    else if r.rebuild then (if r.counted then s2.settleStep r.entry else kvFailure e.basin r.entry s2)
    else
      let before := if e.readmitPos = r.pos then e.readmits else 0
      let n := if byFence then before else before + 1
      let s3 := s2.modEntry r.entry fun x => { x with readmits := n, readmitPos := r.pos }
      if 3 ≤ n ∧ !byFence then s3.endRequest r.entry true .parityUnrecovered else s3.settleStep r.entry

/-- READMISSION of the requests of a void step of a source pound, once the slice has resumed (R30, R523). -/
def readmission (b p n : Nat) (s : State) : State :=
  match s.man.flights.find? fun f => f.home == b && f.pound == p && f.step == n && f.voided with
  | none => s
  | some f =>
    let held := (s.sliceBasins b).any fun y => (s.basin y).st.held || (s.basin y).st.state == .fenced || (s.basin y).st.state == .resetting
    if held then s
    else
    let s1 := { s with man := { s.man with flights := s.man.flights.filter fun g => !(g == f) } }
    if f.kind = 2 then s1 else f.rows.foldl (readmitRow f.byFence) s1

/-- READMISSION. -/
def execReadmission (b : BasinId) (p : PoundId) (step : Nat) (s : State) : Host.Outcome State Fault Refusal :=
  .next (readmission b p step s)

/-! ### Tokens (R242, R345, R358) -/

/-- TOKEN_HANDOFF: a sink pound hands the tokens of a step that it sealed to basin firmware, which passes them to the entry
device (R242); every request of the step with tokens gets its delivery, of the draft tokens that the target accepts and one token of its own (R358). -/
def tokenHandoff (b p n : Nat) (toks : List StepTokens) (s : State) : State :=
  match s.man.flights.find? fun f => f.step == n && f.sealed && s.onPath f b p with
  | none => s
  | some f =>
    if !((s.basin b).pound p).pdef.sink then s
    else
      let s1 := { s with man := { s.man with flights := s.man.flights.filter fun g => !(g == f) } }
      f.rows.foldl (fun t r =>
        let t1 := t.refreshInStep r.entry
        match toks.find? fun k => k.entry == r.entry with
        | some k =>
          let v := verifyStep ((t1.entry r.entry).temperature == 0#32) r.draft k
          t1.deliverStep r.entry r.draft v.1 v.2
        | none => (t1.modEntry r.entry fun e => e.draftStep r.draft 0).settleStep r.entry) s1

/-- TOKEN_HANDOFF. -/
def execTokenHandoff (b : BasinId) (p : PoundId) (step : Nat) (toks : List StepTokens) (s : State) :
    Host.Outcome State Fault Refusal := .next (tokenHandoff b p step toks s)

end Sys2Proof.Machine
end

