-- ==== Sys2Proof/Machine/Barges.lean ====
section
/-! DEFINITION. Barges and tows (chapter 08): starting barges within the quotas (R308-R312, R317, R319), the line cache
(R230, R231), the checks and the landing at the destination (R313, Table 8.6), completion and its consequences (R318). -/

namespace Sys2Proof.Machine

/-! ### Residency after a failed load (Table 7.12) -/

/-- The residency entry of an object changed by `f`. -/
def Ctx.modRes (x : Ctx) (m e : Nat) (f : ResEntry → ResEntry) : Ctx :=
  { x with res := x.res.map fun r => if r.model = m ∧ r.edition = e then f r else r }

/-- A command that loads an object in context `c`. -/
def RunCmd.loads (r : RunCmd) (c m e : Nat) : Bool :=
  decide (r.hdr.context.toNat = c) && match r.cmd with
    | .makeWarm m' e' | .makeHot m' e' _ => decide (m'.toNat = m) && decide (e'.toNat = e)
    | _ => false

namespace State

/-- NOTICE_MODEL of a changed residency state in basin `b` (Table 12.16). -/
def noticeResidency (s : State) (b c m e : Nat) : State :=
  s.noticeModel b c .ok m e 0 ((s.basin b).residency c m e).code (2 ^ b) []

/-- A load in basin `b` ends without success: the object becomes NOT_READY when the load failed, and returns to its state
before the load when it was cut off; the command's work there ends with a status (Tables 7.11, 7.12, 15.3). -/
def loadFail (s : State) (b c m e : Nat) (st : Status) (notReady : Bool) : State :=
  let s1 := s.modBasin b fun x => x.modCtx c fun z => z.modRes m e fun r =>
    if r.state = .loading then
      { r with state := if notReady then .notReady else r.prev, warm := r.prevWarm, replace := false, armed := false,
               pages := if r.prevWarm then r.pages else [] }
    else r
  let gone := ((s.basin b).ctx c).res.flatMap fun r =>
    if r.model = m ∧ r.edition = e ∧ r.state = .loading ∧ !r.prevWarm then r.pages else []
  ((s1.modBasin b fun x => x.givePages c gone).noticeResidency b c m e).basinDoneAll (fun r => r.loads c m e) b st

end State

/-! ### Locators (R305) -/

/-- The slice ordinal that a locator names. -/
def locOrdinal : Locator → Nat
  | .opbuf o _ _ _ | .sram o _ _ | .lpddr o _ | .flash o _ _ | .sluice o _ | .mgmt o _ => o
  | .zero | .reserved _ => 0

/-- The local basin of ordinal `o` as basin `b` names it: in no slice, ordinal 0 is the basin itself (R305). -/
def State.locBasin (s : State) (b o : Nat) : Option Nat :=
  let id := (s.basin b).sliceId.toNat
  if id = 0 then (if o = 0 then some b else none) else s.localOfOrdinal id o

/-- The tile at a logical position of basin `b` (Table 8.2). -/
def State.posTile (s : State) (b : Nat) (pos : BitVec 7) : Nat := s.tileAt (4 * b + pos.toNat / 32) (pos.toNat % 32)

/-- Payload bytes of a header: rows x row_units x 64 (R304). -/
def hdrBytes (h : BargeHdr) : Nat := h.rows.toNat * h.rowUnits.toNat * 64

/-- Payload of a barge: for a packed one its members and its member table of 16 B each (R319). -/
def payloadOf (h : BargeHdr) (members : List BargeHdr) : Nat :=
  if members.isEmpty then hdrBytes h else (members.map fun m => hdrBytes m + 16).foldl (· + ·) 0

/-- The limits of R304 and R305, checked at issue (Table 8.6). DESIGN CHOICE: the management complex's addresses are basin firmware's and the operator's
(Table 8.2), which a barge of class BACKGROUND, store and crash-dump traffic, shows (log entry 185). -/
def hdrOk (h : BargeHdr) : Bool :=
  let column := fun (a : BitVec 23) => decide (a.toNat + hdrBytes h ≤ 6291456)
  let management := h.cls == .background
  decide (1 ≤ h.rows.toNat) && decide (h.rows.toNat ≤ 8192) && decide (1 ≤ h.rowUnits.toNat) && decide (hdrBytes h ≤ 4194304) &&
    (decide (h.format.toNat ≤ 10) || h.format == 0xFF#8) &&
    (match h.src with | .reserved _ => false | .sram _ _ a => column a | .mgmt .. => management | _ => true) &&
    (match h.dst with | .sram _ _ a => column a | .mgmt .. => management | .opbuf .. | .lpddr .. | .sluice .. => true | _ => false)

/-- A locator as its 64 bits (R305, Table 8.2). -/
def locWord : Locator → Nat
  | .zero => 0
  | .opbuf o p k a => 2 ^ 60 + o * 2 ^ 50 + p.toNat * 2 ^ 43 + k.toNat * 2 ^ 40 + a.toNat
  | .sram o p a => 2 * 2 ^ 60 + o * 2 ^ 50 + p.toNat * 2 ^ 43 + a.toNat
  | .lpddr o a => 3 * 2 ^ 60 + o * 2 ^ 50 + a.toNat
  | .flash o e k => 4 * 2 ^ 60 + o * 2 ^ 50 + e.toNat * 2 ^ 8 + k.toNat
  | .sluice o a => 5 * 2 ^ 60 + o * 2 ^ 50 + a.toNat
  | .mgmt o a => 6 * 2 ^ 60 + o * 2 ^ 50 + a.toNat
  | .reserved k => k.toNat * 2 ^ 60

/-- Class code of a barge (Table 8.3). -/
def classCode : BargeClass → Nat
  | .step => 0 | .stream => 1 | .collective => 2 | .background => 3

/-- The 32 bytes of a barge header, little-endian (R5, R304, Table 8.1). -/
def hdrImage (h : BargeHdr) : List Byte :=
  natLe 8 (locWord h.src) ++ natLe 8 (locWord h.dst) ++ natLe 2 h.rows.toNat ++ natLe 2 h.rowUnits.toNat ++ [h.format] ++
    natLe 1 (h.epoch.toNat * 64 + h.ctx.val * 16 + classCode h.cls * 4 + bit1 h.packed * 2 + bit1 h.last) ++ natLe 2 h.generation.toNat ++
    natLe 2 h.slot.toNat ++ natLe 2 h.origin.toNat ++ natLe 4 h.step.toNat

/-- The locator of 64 bits; bits that Table 8.2 reserves are not read. -/
def locOf (w : Nat) : Locator :=
  let o := w / 2 ^ 50 % 1024
  match w / 2 ^ 60 % 16 with
  | 0 => .zero
  | 1 => .opbuf o (BitVec.ofNat 7 (w / 2 ^ 43)) (BitVec.ofNat 2 (w / 2 ^ 40)) (BitVec.ofNat 16 w)
  | 2 => .sram o (BitVec.ofNat 7 (w / 2 ^ 43)) (BitVec.ofNat 23 w)
  | 3 => .lpddr o (BitVec.ofNat 35 w)
  | 4 => .flash o (BitVec.ofNat 20 (w / 2 ^ 8)) (BitVec.ofNat 8 w)
  | 5 => .sluice o (BitVec.ofNat 23 w)
  | 6 => .mgmt o (BitVec.ofNat 32 w)
  | k => .reserved (BitVec.ofNat 4 k)

/-- A class code's class (Table 8.3). -/
def bargeClass (k : Nat) : BargeClass :=
  match k % 4 with
  | 0 => .step | 1 => .stream | 2 => .collective | _ => .background

/-- The barge header of 32 bytes (Table 8.1). -/
def hdrOf (bs : List Byte) : BargeHdr :=
  let at_ := fun (o n : Nat) => leNat ((bs.drop o).take n)
  let ctl := at_ 0x15 1
  { src := locOf (at_ 0 8), dst := locOf (at_ 8 8), rows := BitVec.ofNat 16 (at_ 0x10 2), rowUnits := BitVec.ofNat 16 (at_ 0x12 2),
    format := BitVec.ofNat 8 (at_ 0x14 1), epoch := BitVec.ofNat 2 (ctl / 64), ctx := Fin.ofNat 4 (ctl / 16), cls := bargeClass (ctl / 4),
    packed := ctl.testBit 1, last := ctl.testBit 0, generation := BitVec.ofNat 16 (at_ 0x16 2), slot := BitVec.ofNat 10 (at_ 0x18 2),
    origin := BitVec.ofNat 10 (at_ 0x1A 2), step := BitVec.ofNat 32 (at_ 0x1C 4) }

/-- The parity bits that a header's eight 32-bit words carry (R212, R304). -/
def hdrParity (h : BargeHdr) : List Bool :=
  (List.range 8).map fun i => parityBit (BitVec.ofNat 32 (leNat (((hdrImage h).drop (4 * i)).take 4)))

/-- The member table of a packed barge: 16 B per member, its source and destination addresses in 6 B each and its length in 64 B units in 4 B (R319). -/
def memberTable (members : List BargeHdr) : List Byte :=
  members.flatMap fun m => natLe 6 (locWord m.src) ++ natLe 6 (locWord m.dst) ++ natLe 4 (hdrBytes m / 64)

/-- A locator names a tile's memory. -/
def inTile : Locator → Bool
  | .opbuf .. | .sram .. => true
  | _ => false

/-- A locator names LPDDR5X. -/
def inLpddr : Locator → Bool
  | .lpddr .. => true
  | _ => false

/-- A tile reads and writes LPDDR5X only through the channels of its own basin (R229). DESIGN CHOICE: a descriptor between LPDDR5X and a tile of
another basin fails at issue as one with an illegal locator does (log entry 49). -/
def ownChannels (h : BargeHdr) : Bool :=
  !((inLpddr h.src && inTile h.dst) || (inTile h.src && inLpddr h.dst)) || decide (locOrdinal h.src = locOrdinal h.dst)

/-! ### Reading a source, checking and writing a destination -/

namespace State

/-- The payload that a barge of context `c` of basin `b` reads on this device; none where its source is the flash or another device, whose bytes the
arrival carries. -/
def sourceBytes (s : State) (b c : Nat) (l : Locator) (n : Nat) : Option (List Byte) :=
  match l, s.locBasin b (locOrdinal l) with
  | .zero, _ => some (List.replicate n 0#8)
  | .opbuf _ p k a, some x => some (Memory.read (s.tile (s.posTile x p)).mem.opbuf (65536 * k.toNat + a.toNat) n)
  | .sram _ p a, some x => some (Memory.read (s.tile (s.posTile x p)).mem.column a.toNat n)
  | .lpddr _ a, some x => some ((s.basin x).peek s.basinLines c a.toNat n)
  | .sluice _ a, some x => some (Memory.read (s.basin x).sluice.buf a.toNat n)
  | .mgmt _ a, some _ => some (Memory.read s.mgmt.mem a.toNat n)
  | _, _ => none

/-- The source waits for a line's ladder: the controller re-reads before it completes the barge (R252). -/
def sourceWaits (s : State) (b c : Nat) (l : Locator) (n : Nat) : Bool :=
  match l, s.locBasin b (locOrdinal l) with
  | .lpddr _ a, some x => (s.basin x).lineBad s.basinLines c a.toNat n
  | _, _ => false

/-- Words of the source whose parity is bad, as word offsets of the payload; parity travels with the payload (R213). -/
def sourceBad (s : State) (b : Nat) (l : Locator) (n : Nat) : List Nat :=
  let pick := fun (t : Nat) (sp : Space) (a : Nat) =>
    (s.tile t).mem.parity.filterMap fun e =>
      if e.space = sp ∧ a / 4 ≤ e.word ∧ 4 * e.word < a + n then some (e.word - a / 4) else none
  match l, s.locBasin b (locOrdinal l) with
  | .opbuf _ p k a, some x => pick (s.posTile x p) .opbuf (65536 * k.toNat + a.toNat)
  | .sram _ p a, some x => pick (s.posTile x p) .column a.toNat
  | _, _ => []

/-- What strikes a single read of the source is spent by a barge's read of it. -/
def spendReads (s : State) (b : Nat) (l : Locator) (n : Nat) : State :=
  let drop := fun (u : State) (t : Nat) (sp : Space) (a : Nat) =>
    u.modTile t fun x => { x with mem := { x.mem with parity := x.mem.parity.filter fun e =>
      !(e.space == sp && e.transient && decide (a / 4 ≤ e.word) && decide (4 * e.word < a + n)) } }
  match l, s.locBasin b (locOrdinal l) with
  | .opbuf _ p k a, some x => drop s (s.posTile x p) .opbuf (65536 * k.toNat + a.toNat)
  | .sram _ p a, some x => drop s (s.posTile x p) .column a.toNat
  | _, _ => s

/-- Page `p` of basin `b` is one that context `c` holds of its page quota (R228, R236). -/
def mayHold (s : State) (b c p : Nat) : Bool :=
  decide (p < s.poolPages) && ((s.basin b).ctx c).allPages.contains p

/-- The first two checks of Table 8.6: the context exists in basin `b` and every destination byte is its own. DESIGN CHOICE: the sluice's buffers take up
the whole space of their 23-bit offset, as the spec gives them no size (log entry 185). -/
def ownBytes (s : State) (b c : Nat) (l : Locator) (n : Nat) : Bool :=
  ((s.basin b).ctx c).exist && match l with
    | .opbuf _ _ _ a => decide (a.toNat + n ≤ 65536) && decide ((s.basin b).running = some c)
    | .sram _ _ a => let r := s.shareRange b c; decide (r.1 ≤ a.toNat) && decide (a.toNat + n ≤ r.1 + r.2)
    | .lpddr _ a => (List.range ((a.toNat + n + 65535) / 65536 - a.toNat / 65536)).all fun i =>
        s.mayHold b c (a.toNat / 65536 + i)
    | .sluice _ a => decide (a.toNat + n ≤ 2 ^ 23)
    | .mgmt _ a => decide (a.toNat + n ≤ 2 ^ 32)
    | _ => false

/-- Bytes written at a destination from byte `off` of the payload, with the parity that they bring (R213); weights between LPDDR5X
and stacked SRAM bypass the line cache, other LPDDR5X writes go through it (R231). -/
def landBytes (s : State) (b c : Nat) (l : Locator) (off : Nat) (bs : List Byte) (bad : List Nat) (bypass : Bool) : State :=
  match l with
  | .opbuf _ p k a0 =>
    let a := 65536 * k.toNat + a0.toNat
    (s.moveOp (s.posTile b p) (a + off) bs bad).halfCame (s.posTile b p) a false
  | .sram _ p a0 =>
    let a := a0.toNat + off
    let t := s.posTile b p
    let moving := match (s.basin b).maint.move with
      | some m => decide (34 * (4 * b + m.1) + m.2.2 = t)
      | none => false
    (s.moveColumn t a bs bad).modTile t fun x =>
      let ch := a / 65536
      { x with maint := { x.maint with dirty := if moving && !x.maint.dirty.contains ch then x.maint.dirty ++ [ch] else x.maint.dirty } }
  | .lpddr _ a0 => s.modBasin b fun x =>
    (if bypass then x.touchParity s.basinLines c (a0.toNat + off) bs.length else x).writeBytes s.basinLines c (a0.toNat + off) bs bad bypass
  | .sluice _ a0 => s.modBasin b fun x => { x with sluice := { x.sluice with buf := Memory.write x.sluice.buf (a0.toNat + off) bs } }
  | .mgmt _ a0 => { s with mgmt := { s.mgmt with mem := Memory.write s.mgmt.mem (a0.toNat + off) bs } }
  | _ => s

/-- Words that arrive damaged in the sluice's buffers in a step keep their bad parity there (R212, R213): before the routing pass they are words of its
intake, after it words of the dispatch buffer's area (R204). -/
def landSluice (s : State) (b : Nat) (h : BargeHdr) (bad : List Nat) : State :=
  if bad.isEmpty then s
  else s.modBasin b fun x =>
    let mine := fun (k : RouteStep) => decide (k.ctx = h.ctx.val) && decide (k.step = h.step.toNat) && k.routed
    if x.sluice.steps.any mine then
      { x with sluice := { x.sluice with steps := x.sluice.steps.map fun k => if mine k then { k with areaBad := k.areaBad ++ bad } else k } }
    else { x with sluice := { x.sluice with intake := x.sluice.intake ++ bad.map fun w => (h.ctx.val, h.step.toNat, w) } }

end State

/-- A barge carries weights between LPDDR5X and stacked SRAM (R231). -/
def carriesWeights (h : BargeHdr) : Bool :=
  h.cls == .background && match h.src, h.dst with
    | .lpddr .., .sram .. | .sram .., .lpddr .. => true
    | _, _ => false

/-! ### Starting barges (R308-R312, R319-R321) -/

/-- The fault by which a failed barge's status ends a step under R140 (R313). -/
def statusFault : Status → Option ArrayFault
  | .epochFault => some .epoch
  | .overflowFault => some .overflow
  | .unitFault => some .unit
  | .doubleCommit => some .doubleCommit
  | .badParam => some .badParam
  | .flashUncorrectable => some .uncorrectable
  | _ => none

namespace State

/-- A perturbation of kind PARITY_FABRIC that still has a grant of link `n` to corrupt (R617). -/
def corruptGrant (s : State) (n : Nat) : Bool × State :=
  match (List.range 16).find? fun i =>
    let p := s.perturb i
    p.active && p.kind == 9#8 && decide (p.target.toNat % 128 = n) && decide (p.grants < p.amount.toNat) with
  | some i => (true, s.setPerturb i { s.perturb i with grants := (s.perturb i).grants + 1 })
  | none => (false, s)

/-- Payload bytes of grant `j` of a barge of basin `b`: 2,048j to 2,048j + 2,047 of its source's bytes, fewer in the last (R366). -/
def grantBytes (s : State) (b slot j : Nat) : List Byte :=
  let sl := Tbl.get BargeSlot.fresh slot (s.basin b).eng.slots
  let n := hdrBytes sl.hdr
  (((s.sourceBytes b sl.owner sl.hdr.src n).getD []).drop (2048 * j)).take 2048

/-- Grant `j` of a barge of basin `b` leaves on a link of the route set, on its context's VC: nine flits (R366, R376); with
no live link nothing leaves. -/
def sendGrant (s : State) (b pos : Nat) (d : Dest) (c slot j resend : Nat) : State :=
  let p := s.pickLink pos b
  match p.1 with
  | none => s
  | some n =>
    let q := p.2.corruptGrant n
    (q.2.xmit n (4 * b + c) 9).post b d (.grant slot j resend q.1 (s.grantBytes b slot j)) (some n)

/-- A tow of context `c` changed by `f`. -/
def modTow (s : State) (b c id : Nat) (f : Tow → Tow) : State :=
  s.modBasin b fun x => { x with eng := { x.eng with
    tows := Tbl.mod [] c (fun (l : List Tow) => l.map fun t => if t.id = id then f t else t) x.eng.tows } }

/-- Slots that context `c` holds, and its quota. -/
def modInUse (x : Basin) (c : Nat) (f : BitVec 11 → BitVec 11) : Basin :=
  { x with brg := Tbl.mod BrgCtx.fresh c (fun q => { q with inUse := f q.inUse }) x.brg }

/-- Destinations of `n` and `k` bytes share a byte. -/
def overlaps (l : Locator) (n : Nat) (m : Locator) (k : Nat) : Bool :=
  let meet := fun (a b : Nat) => decide (a < b + k) && decide (b < a + n)
  match l, m with
  | .opbuf o p i a, .opbuf o' p' i' a' => o == o' && p == p' && i == i' && meet a.toNat a'.toNat
  | .sram o p a, .sram o' p' a' => o == o' && p == p' && meet a.toNat a'.toNat
  | .lpddr o a, .lpddr o' a' => o == o' && meet a.toNat a'.toNat
  | .sluice o a, .sluice o' a' => o == o' && meet a.toNat a'.toNat
  | .mgmt o a, .mgmt o' a' => o == o' && meet a.toNat a'.toNat
  | _, _ => false

/-- The single barges of a slot: its members, or itself. -/
def partsOf (sl : BargeSlot) : List BargeHdr := if sl.members.isEmpty then [sl.hdr] else sl.members

/-- A barge of the same context of basin `i` that started earlier and has not landed writes one of these destinations: the later barge waits
(R312). -/
def behind (s : State) (i : Nat) (sl : BargeSlot) (parts : List BargeHdr) : Bool :=
  (s.basin i).eng.slots.any fun e =>
    decide (e.2.order < sl.order) && e.2.status.isNone && e.2.owner == sl.owner && decide (e.2.hdr.rows ≠ 0) &&
      (partsOf e.2).any fun g => parts.any fun m => overlaps g.dst (hdrBytes g) m.dst (hdrBytes m)

/-- The barges of basin `b` to another device that wait for a line of their source (R252) or for an earlier barge to the same bytes (R312), and no longer
need to, send their grants. -/
def releaseRemote (s : State) (b : Nat) : State :=
  let id := (s.basin b).sliceId.toNat
  (s.basin b).eng.slots.foldl (fun (t : State) (e : Nat × BargeSlot) =>
    let sl := e.2
    let o := locOrdinal sl.hdr.dst
    if !sl.remote || sl.sent || sl.status.isSome || sl.hdr.rows == 0 || s.behind b sl (partsOf sl) ||
        (partsOf sl).any fun m => s.sourceWaits b sl.owner m.src (hdrBytes m) then t
    else match t.remotePos (.member id o) with
      | some pos =>
        let t1 := t.modBasin b fun x => { x with eng := { x.eng with
          slots := Tbl.set BargeSlot.fresh e.1 { sl with sent := true, sendTick := t.now } x.eng.slots } }
        (List.range sl.grants).foldl (fun u j => u.sendGrant b pos (.member id o) sl.owner e.1 j 0) t1
      | none => t) s

/-- The engine starts one barge: it takes the lowest free slot, fills slot, generation and origin, and the epoch of the basin's active slot (R127,
R317), counts it (R328) and, to another device, sends its grants. One from or to another device is charged in whole grants (R321). -/
def startBarge (s : State) (b c tow : Nat) (h : BargeHdr) (members : List BargeHdr) : State :=
  let x := s.basin b
  let id := x.sliceId.toNat
  match (List.range 1024).find? fun i => decide ((Tbl.get BargeSlot.fresh i x.eng.slots).hdr.rows = 0) with
  | none => s
  | some k =>
    let o := locOrdinal h.dst
    let here := s.locBasin b o
    let known := here.isSome || decide (o < (s.membersOf id).length)
    let afar := here.isNone || (h.src != .zero && (s.locBasin b (locOrdinal h.src)).isNone)
    let n := payloadOf h members
    let grants := max 1 ((n + 2047) / 2048)
    let small := if afar then decide (n < 2048 * grants) else decide (n < 512)
    let h' := { h with slot := BitVec.ofNat 10 k, generation := x.gen, origin := BitVec.ofNat 10 ((s.ordinal b).getD 0),
                       epoch := (x.slot x.cut.activeSlot.toNat).tag }
    let sl : BargeSlot := { hdr := h', members := members, remote := here.isNone, grants := grants, acked := [],
                            sendTick := s.now, resentAt := [], resends := [], tow := tow, order := x.eng.started, owner := c, sent := false,
                            status := if known then none else some .unitFault }
    let s1 := s.modBasin b fun y =>
      let y1 := modInUse { y with eng := { y.eng with
        slots := Tbl.set BargeSlot.fresh k sl y.eng.slots, issued := satAdd y.eng.issued 1, started := y.eng.started + 1,
        small := if small then satAdd y.eng.small 1 else y.eng.small } } c (· + 1)
      let y2 := y1.chargeBarge c 0 1
      if small then y2.chargeBarge c 1 1 else y2
    s1.releaseRemote b

/-- The tow whose barges start next in context `c`: the first with a descriptor left, and for an ordered tow none of its
barges under way (R312). -/
def nextTow (s : State) (b c : Nat) : Option Tow :=
  match (Tbl.get [] c (s.basin b).eng.tows).find? fun t => !t.waiting.isEmpty with
  | some t => if t.hdr.ordered && decide (0 < t.running) then none else some t
  | none => none

/-- What a failed barge of context `c` ends: the context's current step under R140, or the load of the context that caused it (R313). -/
def bargeFailed (s : State) (b c : Nat) (h : BargeHdr) (st : Status) : State :=
  if st = .ok ∨ st = .aborted then s
  else if h.cls = .background then
    match ((s.basin b).ctx c).res.find? fun r => r.state == .loading with
    | some r => s.loadFail b c r.model r.edition st true
    | none => s
  else match statusFault st with
    | none => s
    | some f =>
      let ps := (s.basin b).pounds.filter fun p => p.2.ctx == c && decide (0 < p.2.pdef.height)
      match (ps.find? fun p => p.2.running && decide (p.2.step % 2 ^ 32 = h.step.toNat)).orElse fun _ => ps.head? with
      | some p => s.poundFault b p.1 f
      | none => s

/-- Descriptors that merge with the first of a packed tow: one source space and basin, one destination space, basin and
position, within packing reach (R319). -/
def packs (s : State) (b : Nat) (g h : BargeHdr) : Bool :=
  let place := fun (l : Locator) => match l with
    | .zero => (0, 0, 0) | .opbuf o p _ _ => (1, o, p.toNat) | .sram o p _ => (2, o, p.toNat) | .lpddr o _ => (3, o, 0)
    | .flash o _ _ => (4, o, 0) | .sluice o _ => (5, o, 0) | .mgmt o _ => (6, o, 0) | .reserved k => (7 + k.toNat, 0, 0)
  let near := fun (l : Locator) => match s.locBasin b (locOrdinal l) with
    | some x => decide (x ≤ b + 1) && decide (b ≤ x + 1)
    | none => false
  let src := fun (l : Locator) => ((place l).1, (place l).2.1)
  near g.src && near g.dst && near h.src && near h.dst && decide (src g.src = src h.src) && decide (place g.dst = place h.dst) &&
    decide (g.cls = h.cls) && decide (g.ctx = h.ctx)

/-- The descriptors of `rest` that join `h` in one packed barge, as far as its payload stays within 4 MiB (R304, R319), and those that do not. -/
def packWith (s : State) (b : Nat) (h : BargeHdr) (rest : List BargeHdr) : List BargeHdr × List BargeHdr :=
  rest.foldl (fun (acc : List BargeHdr × List BargeHdr) g =>
    if hdrOk g && ownChannels g && s.packs b h g && decide (payloadOf h (h :: acc.1 ++ [g]) ≤ 4194304) then (acc.1 ++ [g], acc.2)
    else (acc.1, acc.2 ++ [g])) ([], [])

/-- The header of a packed barge: its payload of members and member table as rows of 64 B units. -/
def packHdr (h : BargeHdr) (members : List BargeHdr) : BargeHdr :=
  let n := (payloadOf h members + 63) / 64
  let rows := if n ≤ 65535 then 1 else 2
  { h with packed := true, rows := BitVec.ofNat 16 rows, rowUnits := BitVec.ofNat 16 ((n + rows - 1) / rows) }

/-- The engine starts the barges of context `c` in order while its quota has a slot (R309, R312); a descriptor that fails the checks at issue never
starts: its tow records BAD_PARAM, and it ends the step or the load that it serves (R313). -/
def startBarges : Nat → Nat → Nat → State → State
  | 0, _, _, s => s
  | n + 1, b, c, s =>
    let x := s.basin b
    let free := decide ((x.brgCtx c).inUse.toNat < (x.brgCtx c).quota.toNat)
    let up := x.st.state == .ready || x.st.state == .serving || x.st.state == .init
    if !free || !up then s
    else match s.nextTow b c with
      | none => s
      | some t =>
        match t.waiting with
        | [] => s
        | h :: rest =>
          if !(hdrOk h && ownChannels h) then
            startBarges n b c ((s.modTow b c t.id fun u => { u with
              waiting := rest, first := u.first.orElse fun _ => some .badParam }).bargeFailed b c h .badParam)
          else
            let p := if t.hdr.pack then s.packWith b h rest else ([], rest)
            let members := if p.1.isEmpty then [] else h :: p.1
            let h' := if p.1.isEmpty then h else packHdr h members
            let s1 := s.modTow b c t.id fun u => { u with waiting := p.2, running := u.running + 1 }
            startBarges n b c (s1.startBarge b c t.id h' members)

/-- All descriptors that context `c` of a basin has waiting. -/
def startable (s : State) (b c : Nat) : Nat :=
  ((Tbl.get [] c (s.basin b).eng.tows).map fun t => t.waiting.length).foldl (· + ·) 0

end State

namespace State

/-- Descriptors posted as a tow of at most 64 and the tows that it chains to (R317). -/
def postTows (s : State) (b c : Nat) (own : Bool) (h : TowHdr) (descs : List BargeHdr) : State :=
  if descs.isEmpty then s
  else
    let s1 := (List.range ((descs.length + 63) / 64)).foldl (fun (t : State) i => t.modBasin b fun y =>
      let w : Tow := { hdr := h, waiting := (descs.drop (64 * i)).take 64, running := 0, okCount := 0, first := none, chained := decide (0 < i),
                       own := own, id := y.eng.nextTow }
      { y with eng := { y.eng with nextTow := y.eng.nextTow + 1, tows := Tbl.mod [] c (· ++ [w]) y.eng.tows } }) s
    startBarges (s1.startable b c) b c s1

end State

/-- The magic number of a tow header (Table 8.7). -/
def towMagic : Nat := 0x574F5454

/-- The tow header of 32 bytes: its number of descriptors and its fields (Table 8.7). -/
def towHdrOf (bs : List Byte) : Nat × TowHdr :=
  let at_ := fun (o n : Nat) => leNat ((bs.drop o).take n)
  let fl := at_ 5 1
  (at_ 4 1, { pack := fl.testBit 0, ordered := fl.testBit 1, stream := fl.testBit 2, notify := fl.testBit 3,
              next := BitVec.ofNat 64 (at_ 8 8), done := BitVec.ofNat 64 (at_ 0x10 8) })

/-- The tows that a posted tow chains to: the engine fetches each header with its descriptors from the basin byte address that the one before it names,
until one names 0 (R317, Table 8.7). DESIGN CHOICE: bytes there that are no tow end the chain, and a chain ends at its 64th tow (log entry 49). -/
def State.fetchChain : Nat → Nat → Nat → Nat → State → State
  | 0, _, _, _, s => s
  | n + 1, b, c, a, s =>
    if a = 0 then s
    else
      let x := s.basin b
      let top := x.peek s.basinLines c a 32
      let q := towHdrOf top
      if leNat (top.take 4) ≠ towMagic ∨ q.1 = 0 ∨ 64 < q.1 then s
      else
        let body := x.peek s.basinLines c (a + 32) (32 * q.1)
        let s1 := s.modBasin b fun y => (y.touch s.basinLines c a (32 + 32 * q.1))
        let s2 := s1.modBasin b fun y =>
          let w : Tow := { hdr := q.2, waiting := (List.range q.1).map fun i => hdrOf ((body.drop (32 * i)).take 32), running := 0, okCount := 0,
                           first := none, chained := true, own := false, id := y.eng.nextTow }
          { y with eng := { y.eng with nextTow := y.eng.nextTow + 1, tows := Tbl.mod [] c (· ++ [w]) y.eng.tows } }
        fetchChain n b c q.2.next.toNat s2

/-- TOW_POST: firmware posts a tow of 1 to 64 descriptors to the context's queue of 64 tows, with the tows that it chains to, and the engine starts its
barges (R317). -/
def towPost (b c : Nat) (h : TowHdr) (descs : List BargeHdr) (s : State) : State :=
  let x := s.basin b
  let q := (Tbl.get [] c x.eng.tows).filter fun t => !t.chained
  if !(x.ctx c).exist || 64 ≤ q.length || descs.isEmpty || 64 < descs.length then s
  else
    let s1 := State.fetchChain 63 b c h.next.toNat (s.postTows b c false h descs)
    State.startBarges (s1.startable b c) b c s1

/-- TOW_POST. -/
def execTowPost (b : BasinId) (c : CtxId) (h : TowHdr) (descs : List BargeHdr) (s : State) : Host.Outcome State Fault Refusal :=
  .next (towPost b c h descs s)

/-! ### Arrival (R313, R314, Table 8.6) -/

namespace State

/-- The generation that basin `b` records for an origin ordinal; its own is the one it holds (R503, R504). -/
def knownGen (s : State) (b o : Nat) : BitVec 16 :=
  if s.locBasin b o = some b then (s.basin b).gen else Tbl.get 0 o (s.basin b).genTable

/-- The checks of Table 8.6 on who sent: the epoch of the sender's cut, save in BACKGROUND, and its generation. -/
def senderCheck (s : State) (b : Nat) (h : BargeHdr) : Status :=
  if h.cls ≠ .background ∧ h.epoch ≠ ((s.basin b).slot (s.basin b).cut.activeSlot.toNat).tag then .epochFault
  else if h.generation = 0 ∨ h.generation ≠ s.knownGen b h.origin.toNat then .unitFault
  else .ok

/-- The checks of Table 8.6 at destination `b`, in the table's order; a barge addressed to another basin is UNIT_FAULT
(Table 8.10). -/
def destCheck (s : State) (b : Nat) (h : BargeHdr) (parts : List BargeHdr) : Status :=
  if s.locBasin b (locOrdinal h.dst) ≠ some b then .unitFault
  else if !(parts.all fun m => s.ownBytes b h.ctx.val m.dst (hdrBytes m)) then .overflowFault
  else s.senderCheck b h

/-- The destination reports to the issuing slot: on this device in the slot itself, else by a message (R313). -/
def reportBarge (s : State) (b : Nat) (h : BargeHdr) (st : Status) : State :=
  match s.locBasin b h.origin.toNat with
  | some o =>
    let sl := Tbl.get BargeSlot.fresh h.slot.toNat (s.basin o).eng.slots
    if sl.hdr = h ∧ sl.status = none then
      s.modBasin o fun x => { x with eng := { x.eng with
        slots := Tbl.set BargeSlot.fresh h.slot.toNat { sl with status := some st } x.eng.slots } }
    else s
  | none => s.send b (.member (s.basin b).sliceId.toNat h.origin.toNat) (.status h.slot.toNat st)

/-- A barge rejected for a stale generation counts at its destination (R328). -/
def countStale (s : State) (b : Nat) (h : BargeHdr) : State :=
  s.modBasin b fun x =>
    let y := x.chargeBarge h.ctx.val 3 1
    { y with eng := { y.eng with stale := satAdd y.eng.stale 1 } }

/-- The destination rejects a barge; a stale generation counts. -/
def rejectBarge (s : State) (b : Nat) (h : BargeHdr) (st : Status) : State :=
  let stale := decide (s.locBasin b (locOrdinal h.dst) = some b) && st == .unitFault
  (if stale then s.countStale b h else s).reportBarge b h st

/-- Barges to a logical position that a gap move holds wait for step 7 of R124 (Table 8.10). -/
def moveWaits (s : State) (b : Nat) (l : Locator) : Bool :=
  match l, (s.basin b).maint.move with
  | .opbuf _ p _ _, some m | .sram _ p _, some m =>
    (s.basin b).maint.moveHeld && decide (s.posTile b p = 34 * (4 * b + m.1) + m.2.2)
  | _, _ => false

end State

/-- BARGE_ARRIVAL at destination `b`: the checks come before any byte is written, and the barge lands whole (R313, R314). A
barge that no slot of this device holds comes from another device and lands by its grants (R374). -/
def bargeArrival (b : Nat) (h : BargeHdr) (data : List Byte) (s : State) : State :=
  let x := s.basin b
  if x.st.state = .resetting ∨ x.st.state = .retired ∨ x.st.state = .offline ∨ (x.st.state = .fenced ∧ !x.st.draining) then s
  else
    let o := s.locBasin b h.origin.toNat
    let sl := match o with
      | some i => Tbl.get BargeSlot.fresh h.slot.toNat (s.basin i).eng.slots
      | none => BargeSlot.fresh
    let parts := if o.isSome then State.partsOf { sl with hdr := h } else [h]
    let st := s.destCheck b h parts
    if st ≠ .ok then s.rejectBarge b h st
    else match o with
      | none => s
      | some i =>
        if sl.hdr ≠ h ∨ sl.status.isSome ∨ (parts.any fun m => s.sourceWaits i sl.owner m.src (hdrBytes m)) ∨
            (parts.any fun m => s.moveWaits b m.dst) ∨ s.behind i sl parts then s
        else
          let s1 := parts.foldl (fun t m =>
            let n := hdrBytes m
            let bs := (s.sourceBytes i sl.owner m.src n).getD (data.take n ++ List.replicate (n - data.length) 0#8)
            let bad := s.sourceBad i m.src n
            let t1 := match m.src, s.locBasin i (locOrdinal m.src) with
              | .lpddr _ a, some k => t.modBasin k fun x =>
                if carriesWeights m then x.touchParity s.basinLines sl.owner a.toNat n else x.touch s.basinLines sl.owner a.toNat n
              | .flash _ x j, _ => t.readFlashChunk x.toNat j.toNat
              | _, _ => t.spendReads i m.src n
            let t2 := t1.landBytes b h.ctx.val m.dst 0 bs bad (carriesWeights m)
            match m.dst with
            | .sluice .. => t2.landSluice b h bad
            | _ => t2) s
          s1.reportBarge b h .ok

/-- BARGE_ARRIVAL. -/
def execBargeArrival (b : BasinId) (h : BargeHdr) (data : List Byte) (s : State) : Host.Outcome State Fault Refusal :=
  .next (bargeArrival b h data s)

/-! ### Completion (R308, R313, R318) -/

/-- The status of a 16-bit value (Table 12.2). -/
def statusOf (v : Nat) : Option Status :=
  [Status.ok, .aborted, .unitFault, .overflowFault, .epochFault, .badParam, .parityUnrecovered, .flashUncorrectable,
   .timedOut, .fenced].find? fun s => s.code == v

namespace State

/-- The destination bytes of a barge that was cut off are undefined, within its context's own memory (R314). -/
def spoil (s : State) (b : Nat) (sl : BargeSlot) : State :=
  (partsOf sl).foldl (fun (t : State) (m : BargeHdr) =>
    let n := hdrBytes m
    match t.locBasin b (locOrdinal m.dst) with
    | some y =>
      if t.ownBytes y m.ctx.val m.dst n then
        let bs := (List.range n).map fun i => BitVec.ofNat 8 (Config.freeNat (t.freeCtr + i))
        { t.landBytes y m.ctx.val m.dst 0 bs [] (carriesWeights m) with freeCtr := t.freeCtr + n }
      else t
    | none => t) s

/-- The landing halves of this device that a failed barge was to fill stay without it (R326). -/
def missHalves (s : State) (b : Nat) (sl : BargeSlot) : State :=
  (partsOf sl).foldl (fun (t : State) (m : BargeHdr) => match m.dst, t.locBasin b (locOrdinal m.dst) with
    | .opbuf _ p k a, some y => t.halfCame (t.posTile y p) (65536 * k.toNat + a.toNat) true
    | _, _ => t) s

/-- A barge of slot `k` ends with a status: the slot is free, its tow counts it, a trace record of source BARGE is taken, and
the engine goes on (R308, R312, R318). -/
def endBarge (s : State) (b k : Nat) (st : Status) : State :=
  let sl := Tbl.get BargeSlot.fresh k (s.basin b).eng.slots
  if sl.hdr.rows = 0 then s
  else
    let c := sl.owner
    let s0 := (if st = .ok then s else (if st = .aborted ∧ sl.status = none then s.spoil b sl else s).missHalves b sl)
    let s1 := s0.modBasin b fun x => modInUse { x with eng := { x.eng with slots := Tbl.set BargeSlot.fresh k BargeSlot.fresh x.eng.slots } } c (· - 1)
    let s2 := s1.modTow b c sl.tow fun t => { t with
      running := t.running - 1, okCount := t.okCount + (if st = .ok then max 1 sl.members.length else 0),
      first := if st = .ok then t.first else t.first.orElse fun _ => some st }
    let s3 := ((s2.record b 3 (BitVec.ofNat 8 c) (data48 k (classCode sl.hdr.cls) st.code)).bargeFailed b c sl.hdr st).releaseRemote b
    startBarges (s3.startable b c) b c s3

end State

/-- BARGE_COMPLETE: the last byte has landed and the destination has acknowledged it, or the barge ends with an error. A
status OK waits for the landing on this device, and for every grant's GACK to another (R308, R374). -/
def bargeComplete (b k : Nat) (status : BitVec 16) (s : State) : State :=
  let sl := Tbl.get BargeSlot.fresh k (s.basin b).eng.slots
  match sl.status, statusOf status.toNat with
  | some st, _ => s.endBarge b k st
  | none, some .ok => if sl.remote && decide (sl.grants ≤ sl.acked.length) then s.endBarge b k .ok else s
  | none, some st => s.endBarge b k st
  | none, none => s

/-- BARGE_COMPLETE. -/
def execBargeComplete (b : BasinId) (slot : BitVec 10) (status : BitVec 16) (s : State) : Host.Outcome State Fault Refusal :=
  .next (bargeComplete b slot.toNat status s)

/-- The completion word of a tow (R318). -/
def towWord (t : Tow) : Nat :=
  2 ^ 63 + ((t.first.map Status.code).getD 0) * 2 ^ 32 + t.okCount % 128

/-- A signal of semaphore `i` of a context's bank adds 1, up to 0xFFFF (R466). -/
def Ctx.signal (z : Ctx) (i : Nat) : Ctx := { z with sems := Tbl.mod 0 (i % 64) (fun (v : BitVec 16) => satAdd v 1) z.sems }

/-- TOW_COMPLETE: the first tow of a context whose last barge has ended has its completion word written, notifies firmware where its header asks for it,
and leaves the queue (R318, Table 8.7). The notice signals one semaphore of the context, and which one is open (R466, log entry 191). -/
def towComplete (b c : Nat) (s : State) : State :=
  match (Tbl.get [] c (s.basin b).eng.tows).find? fun t => t.waiting.isEmpty && t.running == 0 with
  | none => s
  | some t => (if t.hdr.notify then s.free.2 else s).modBasin b fun x =>
      let y := { x with eng := { x.eng with tows := Tbl.mod [] c (fun (l : List Tow) => l.filter fun u => u.id != t.id) x.eng.tows } }
      let z := if t.hdr.notify then { y with eng := { y.eng with notices := y.eng.notices ++ [(c, towWord t)] } }.modCtx c (·.signal s.free.1) else y
      if t.own then { z with eng := { z.eng with doneWords := Tbl.set 0 t.id (towWord t) z.eng.doneWords } }
      else z.writeBytes s.basinLines c t.hdr.done.toNat (natLe 8 (towWord t)) [] false

/-- TOW_COMPLETE. -/
def execTowComplete (b : BasinId) (c : CtxId) (s : State) : Host.Outcome State Fault Refusal := .next (towComplete b c s)

end Sys2Proof.Machine
end

