-- ==== Sys2Proof/Machine/Fabric.lean ====
section
/-! DEFINITION. The rack fabric (chapter 10): the link layer (R367-R371), grants end to end (R373-R375, R384), link states,
masks and retraining (R376-R380), queue credits across devices (R386), towpath forwarding (R390), and the lane recalibration
(R492-R494). -/

namespace Sys2Proof.Machine

/-! ### Link masks (R379) -/

namespace State

/-- This device's 84-bit live mask. -/
def liveMask (s : State) : BitVec 84 :=
  BitVec.ofNat 84 (((List.range 84).filter s.linkLive).foldl (fun a n => a + 2 ^ n) 0)

/-- Other devices that hold a basin of a slice in which a local basin takes part. -/
def sliceDevices (s : State) : List Nat :=
  (((List.range 8).flatMap fun b => (s.membersOf (s.basin b).sliceId.toNat).map (·.1)).eraseDups).filter
    (· != s.fab.position.toNat)

/-- MASK to every such device, under the next mask sequence; the first basin of the device in a common slice sends it. -/
def sendMask (s : State) : State :=
  let s1 := { s with fab := { s.fab with maskSeq := s.fab.maskSeq + 1 } }
  s.sliceDevices.foldl (fun t p =>
    let b := ((List.range 8).find? fun b => (s.membersOf (s.basin b).sliceId.toNat).any fun m => m.1 == p).getD 0
    t.send b (.device p) (.mask s.fab.position.toNat s1.fab.maskSeq.toNat s1.liveMask)) s1

/-- Link `n` takes a state at this tick; a switch link whose live status changes is announced (R379), at the end of a handover pause that stands
(Table 14.14). -/
def setLink (s : State) (n : Nat) (st : LinkSt) : State :=
  let was := s.linkLive n
  let s1 := s.modLink n fun l => { l with st := st, since := BitVec.toNat s.time.now }
  if was = s1.linkLive n then s1 else if s.ep.pause then { s1 with fab := { s1.fab with maskDue := true } } else s1.sendMask

/-- Link sequence numbers, replay buffer and credits start anew (Table 14.12). -/
def freshLink (s : State) (n : Nat) : State :=
  s.modLink n fun l => { l with rxSeq := 0, txSeq := 0, nakOut := false, replay := [], waiting := [], resentSame := 0,
                                credits := [] }

/-! ### Resending grants (R373) -/

/-- The link on which a grant of a slot was sent last. -/
def lastLink (s : State) (b slot j : Nat) : Option Nat :=
  (s.msgs.reverse.find? fun m => decide (m.src = b) && match m.msg with
    | .grant k i _ _ _ => decide (k = slot) && decide (i = j)
    | _ => false).bind (·.via)

/-- The origin resends a grant on another link of its route set, where it has one (R373). -/
def resendGrant (s : State) (b slot j : Nat) : State :=
  let sl := Tbl.get BargeSlot.fresh slot (s.basin b).eng.slots
  let o := locOrdinal sl.hdr.dst
  let d : Dest := .member (s.basin b).sliceId.toNat o
  match s.remotePos d with
  | none => s
  | some pos =>
    let k := min 3 (Tbl.get 0 j sl.resends + 1)
    let s1 := s.modBasin b fun x => { x with eng := { x.eng with
      slots := Tbl.set BargeSlot.fresh slot
        { sl with resends := Tbl.set 0 j k sl.resends, resentAt := Tbl.set 0 j s.now sl.resentAt } x.eng.slots } }
    let s2 := { s1 with fab := { s1.fab with resent := satAdd s1.fab.resent 1 } }
    let others := (s2.routeSet pos).filter fun n => s.lastLink b slot j != some n
    match others with
    | [] => s2.sendGrant b pos d sl.hdr.ctx.val slot j k
    | _ =>
      let f := s2.free
      match (others.drop (f.1 % others.length)).head? with
      | some n =>
        let q := f.2.corruptGrant n
        (q.2.xmit n (4 * b + sl.hdr.ctx.val) 9).post b d (.grant slot j k q.1 (s.grantBytes b slot j)) (some n)
      | none => s2

/-- Grants of remote barges that no GACK covers, as (basin, slot, grant). -/
def openGrants (s : State) : List (Nat × Nat × Nat) :=
  (List.range 8).flatMap fun b => (s.basin b).eng.slots.flatMap fun e =>
    if e.2.remote && e.2.status.isNone then
      ((List.range e.2.grants).filter fun j => !e.2.acked.contains j).map fun j => (b, e.1, j)
    else []

/-- A link fails: FAILED from this tick, its unacknowledged grants are resent (R378); a third training attempt that failed
sends NOTICE_SERVICE. -/
def failLink (s : State) (n : Nat) : State :=
  let l := s.link n
  let mine := s.openGrants.filter fun g => s.lastLink g.1 g.2.1 g.2.2 == some n
  let s1 := s.setLink n .failed
  let s2 := mine.foldl (fun t g => t.resendGrant g.1 g.2.1 g.2.2) s1
  if l.st = .training ∧ 3 ≤ l.attempts.toNat then s2.noticeOpen 1 n else s2

end State

/-! ### The link layer (R367-R371) -/

/-- Flits up to and including the acknowledged one leave the replay buffer. -/
def ackFlits (replay : List (Nat × Nat)) (ack : Nat) : List (Nat × Nat) :=
  match replay.findIdx? (fun r => r.1 == ack) with
  | some i => replay.drop (i + 1)
  | none => replay

/-- FLIT_RECEIVE on a link that receives: an uncorrectable codeword is discarded and NAKed (R367); a good flit acknowledges,
asks for a resend, returns credits (R371), and is accepted only in order. The same flit resent four times fails the link
(R369). -/
def flitReceive (n : Nat) (h : LinkHdr) (fecOk : Bool) (corrected : Nat) (s : State) : State :=
  let l := s.link n
  if l.st ≠ .active ∧ l.st ≠ .leaving then s
  else
    let s1 := s.modLink n fun x => { x with corrected := satAdd x.corrected corrected }
    if !fecOk then
      s1.modLink n fun x => { x with
        uncorrectable := satAdd x.uncorrectable 1, nakOut := true,
        replays := if x.nakOut then x.replays else satAdd x.replays 1 }
    else
      let kept := ackFlits l.replay h.ack.toNat
      let same := if h.nak then (if kept.length = l.replay.length ∨ l.resentSame = 0 then l.resentSame + 1 else 1)
        else if kept.length < l.replay.length then 0 else l.resentSame
      let s2 := s1.modLink n fun x =>
        let y := { x with
          replay := kept, resentSame := same, replays := if h.nak then satAdd x.replays 1 else x.replays,
          credits := Tbl.set 9 h.creditVc.toNat (min 9 (x.credit h.creditVc.toNat + h.credits.toNat)) x.credits }
        let z := (y.waiting.map (·.1)).foldl Link.pump y
        if h.type = .idle then z
        else if h.seq = z.rxSeq then { z with rxSeq := z.rxSeq + 1, nakOut := false } else z
      if 4 ≤ same then s2.failLink n else s2

/-- FLIT_RECEIVE. -/
def execFlitReceive (n : LinkId) (h : LinkHdr) (fecOk : Bool) (corrected : Nat) (s : State) :
    Host.Outcome State Fault Refusal := .next (flitReceive n h fecOk corrected s)

/-! ### Grants end to end (R373-R375, R384) -/

namespace State

/-- The running steps of a context in basin `b` that take a barge's data are tainted (R241, R375). -/
def taintStep (s : State) (b c : Nat) (step : Nat) : State :=
  s.modBasin b fun x => { x with pounds := x.pounds.map fun p => (p.1,
    if p.2.ctx = c ∧ p.2.running ∧ p.2.step % 2 ^ 32 = step then { p.2 with taint := true } else p.2) }

/-- The grants that a destination owes a GACK go out, one message for each run of indices (R373). -/
def sendGacks (s : State) (b id : Nat) (h : BargeHdr) (owed : List Nat) : State :=
  let l := owed.foldl (fun a j => insertNat j a) []
  let runs := l.foldl (fun (acc : List (Nat × Nat)) j => match acc with
    | (f, e) :: t => if j = e + 1 then (f, j) :: t else (j, j) :: acc
    | [] => [(j, j)]) []
  runs.reverse.foldl (fun t r => t.sendFrom b (some h.ctx.val) (.member id h.origin.toNat) (.gack h.slot.toNat r.1 r.2)) s

end State

namespace State

/-- Flits of a queue from another device land: the step's number comes with the grant, and the tiles of the consumer take them in turn (R98, R386). -/
def landQueue (s : State) (b step : Nat) (fs : List Flit) : State :=
  fs.foldl (fun t f =>
    let q := t.queueOf b f.qid.toNat
    if q.producer ≠ 0xFF then t
    else match stripeTile (t.queueTiles q) q.pushed with
      | some u => (t.modQueueOf b f.qid.toNat fun y => y.push step 1).deliver u { flit := f, home := b, step := step, num := q.pushed }
      | none => t) s

end State

/-- Codes of control messages (Table 10.8). -/
def ctrlCode (k : Nat) : Bool := (decide (1 ≤ k) && decide (k ≤ 7)) || (decide (16 ≤ k) && decide (k ≤ 20)) || k == 32 || k == 33

/-- GRANT_ARRIVAL: a basin that is not in service discards it (R393); a stranger, or a basin that the slice does not list, refuses and counts it (R384); a parity
failure is NAKed, and at resend 3 it ends the barge (R375); a header that fails Table 8.6 is reported; else the grant lands
once at its own offset (R374). A control message of a reserved code is discarded and counted, and one that a stranger sends is refused (R384, Table 10.8); what
an accepted one does is its own row's. -/
def grantArrival (g : GrantP) (s : State) : State :=
  let b := g.dstBasin.val
  let x := s.basin b
  let id := x.sliceId.toNat
  let h := g.barge
  if x.st.state ≠ .serving ∧ x.st.state ≠ .ready ∧ x.st.state ≠ .init then s
  else if g.code ≠ 0 ∧ !ctrlCode g.code.toNat then { s with fab := { s.fab with refused := satAdd s.fab.refused 1 } }
  else if id = 0 ∨ (s.ordinal b).isNone ∨ g.sliceId.toNat ≠ id ∨ !(s.membersOf id).contains (g.srcPos.toNat, g.srcBasin.val) then
    let s1 := { s with fab := { s.fab with refused := satAdd s.fab.refused 1 } }
    s1.sendFrom b (some h.ctx.val) (.device g.srcPos.toNat) (.refuse h.slot.toNat)
  else if g.code ≠ 0 then s
  else
    let key := h.origin.toNat * 1024 + h.slot.toNat
    let old := Tbl.get Landing.fresh key x.eng.landings
    let spent := old.dead || decide (old.grants ≤ old.landed.length)
    let l : Landing := if old.hdr = h ∧ !(spent ∧ g.resend = 0) then old
      else { Landing.fresh with hdr := h, grants := g.grants }
    let put := fun (t : State) (v : Landing) =>
      t.modBasin b fun y => { y with eng := { y.eng with landings := Tbl.set Landing.fresh key v y.eng.landings } }
    if l.dead then s
    else if !g.parityOk then
      let l1 := { l with fails := Tbl.mod 0 g.grant (· + 1) l.fails }
      if g.resend = 3 then
        let s1 := (put s { l1 with dead := true }).sendFrom b (some h.ctx.val) (.member id h.origin.toNat)
          (.status h.slot.toNat .parityUnrecovered)
        if h.cls = .background then s1 else s1.taintStep b h.ctx.val h.step.toNat
      else (put s l1).sendFrom b (some h.ctx.val) (.member id h.origin.toNat) (.gnak h.slot.toNat g.grant)
    else
      let h1 := { h with generation := g.generation, epoch := g.epoch }
      let st := if g.queueFlits.isEmpty then s.destCheck b h1 [h] else s.senderCheck b h1
      if st ≠ .ok then s.rejectBarge b h st
      else if l.landed.contains g.grant || s.moveWaits b h.dst then s
      else
        let s1 := if g.queueFlits.isEmpty then
            s.landBytes b h.ctx.val h.dst (2048 * g.grant) (g.data.take (hdrBytes h - 2048 * g.grant)) [] (carriesWeights h)
          else s.landQueue b h.step.toNat (g.queueFlits.take 32)
        let l1 := { l with landed := g.grant :: l.landed, owed := g.grant :: l.owed }
        if l1.owed.length = 64 ∨ l1.grants ≤ l1.landed.length then
          (put s1 { l1 with owed := [] }).sendGacks b id h l1.owed
        else put s1 l1

/-- GRANT_ARRIVAL. -/
def execGrantArrival (g : GrantP) (s : State) : Host.Outcome State Fault Refusal := .next (grantArrival g s)

/-- GACK reaches the origin: the named grants are acknowledged, and the final one frees the slot (R373, R374). -/
def gackMsg (b slot first last : Nat) (s : State) : State :=
  let sl := Tbl.get BargeSlot.fresh slot (s.basin b).eng.slots
  if sl.hdr.rows = 0 ∨ !sl.remote then s
  else
    let new := ((List.range sl.grants).filter fun j => decide (first ≤ j) && decide (j ≤ last) && !sl.acked.contains j)
    let s1 := s.modBasin b fun x => { x with eng := { x.eng with
      slots := Tbl.set BargeSlot.fresh slot { sl with acked := sl.acked ++ new } x.eng.slots } }
    if sl.grants ≤ (sl.acked ++ new).length then s1.endBarge b slot .ok else s1

/-- GACK. -/
def execGack (b : BasinId) (slot : BitVec 10) (first last : Nat) (s : State) : Host.Outcome State Fault Refusal :=
  .next (gackMsg b slot.toNat first last s)

/-- A grant of a slot that no GACK covers. -/
def State.grantOpen (s : State) (b slot j : Nat) : Bool :=
  let sl := Tbl.get BargeSlot.fresh slot (s.basin b).eng.slots
  decide (0 < sl.hdr.rows.toNat) && sl.remote && sl.status.isNone && decide (j < sl.grants) && !sl.acked.contains j

/-- GNAK: the origin resends the grant (R373). -/
def execGnak (b : BasinId) (slot : BitVec 10) (grant : Nat) (s : State) : Host.Outcome State Fault Refusal :=
  .next (if s.grantOpen b slot.toNat grant then s.resendGrant b slot.toNat grant else s)

/-- GRANT_RESEND_TIMEOUT: 20 µs after the grant's last send without a GACK that covers it (R373). -/
def grantResendTimeout (b slot j : Nat) (s : State) : State :=
  let sl := Tbl.get BargeSlot.fresh slot (s.basin b).eng.slots
  let sent := max sl.sendTick (Tbl.get 0 j sl.resentAt)
  if s.grantOpen b slot j && decide (sent + 2000 ≤ s.now) then s.resendGrant b slot j else s

/-- GRANT_RESEND_TIMEOUT. -/
def execGrantResendTimeout (b : BasinId) (slot : BitVec 10) (grant : Nat) (s : State) : Host.Outcome State Fault Refusal :=
  .next (grantResendTimeout b slot.toNat grant s)

/-- REFUSE: the origin's barge ends with UNIT_FAULT (R384). -/
def execRefuse (b : BasinId) (slot : BitVec 10) (s : State) : Host.Outcome State Fault Refusal :=
  .next (s.endBarge b slot.toNat .unitFault)

/-! ### Queue credits across devices (R386) -/

/-- QCREDIT: credits of a queue whose consumer stands on another device reach the producer's sequencer. -/
def qcreditMsg (b p qid n : Nat) (s : State) : State :=
  let q := s.queueOf b qid
  s.modPound b p fun y => { y with credits := Tbl.set 0 qid (min q.depth (Tbl.get 0 qid y.credits + n)) y.credits }

/-- QCREDIT. -/
def execQcredit (b : BasinId) (p : PoundId) (qid : BitVec 8) (credits : Nat) (s : State) : Host.Outcome State Fault Refusal :=
  .next (qcreditMsg b p qid.toNat credits s)

/-- QCREDIT_TIMER: the consumer's queue engines return the credits that a queue from another device is owed. -/
def qcreditTimer (b qid : Nat) (s : State) : State :=
  let q := s.queueOf b qid
  if q.producer = 0xFF ∧ 0 < q.owed then
    (s.modQueueOf b qid fun y => { y with owed := 0 }).send b (.egress qid) (.qcredit qid q.owed)
  else s

/-- QCREDIT_TIMER. -/
def execQcreditTimer (b : BasinId) (qid : BitVec 8) (s : State) : Host.Outcome State Fault Refusal :=
  .next (qcreditTimer b qid.toNat s)

/-- Flits that tile `t` pushed into queues to other devices leave its egress buffer, packed up to 32 to a grant (R114, R386). -/
def sendEgress (s : State) (t : Nat) : State :=
  let b := tileBasin t
  let out := (s.tile t).net.egress.filter fun f => (s.flitQueue f).consumer == 0xFF
  if out.isEmpty then s
  else
    let s1 := s.modTile t fun x => { x with net := { x.net with
      egress := x.net.egress.filter fun f => (s.flitQueue f).consumer != 0xFF } }
    ((out.map (·.flit.qid)).eraseDups).foldl (fun u q =>
      let l := (out.filter fun f => f.flit.qid == q).map (·.flit)
      (List.range ((l.length + 31) / 32)).foldl (fun v i => v.send b (.egress q.toNat) (.queueFlits q.toNat ((l.drop (32 * i)).take 32))) u) s1

/-! ### Masks, failures, retraining, removals -/

/-- MASK of another device: only the highest sequence is applied (R379). -/
def maskMsg (position seq : Nat) (live : BitVec 84) (s : State) : State :=
  let m := Tbl.get PeerMask.fresh position s.fab.peers
  if m.seq < seq ∨ m = PeerMask.fresh then
    { s with fab := { s.fab with peers := Tbl.set PeerMask.fresh position { seq := seq, live := live } s.fab.peers } }
  else s

/-- MASK. -/
def execMask (position : BitVec 7) (seq : BitVec 16) (live : BitVec 84) (s : State) : Host.Outcome State Fault Refusal :=
  .next (maskMsg position.toNat seq.toNat live s)

/-- LINK_FAILURE: a link in use or in training fails (R378). -/
def linkFailure (n : Nat) (s : State) : State :=
  let st := (s.link n).st
  if st = .active ∨ st = .leaving ∨ st = .training ∨ st = .cal then s.failLink n else s

/-- LINK_FAILURE. -/
def execLinkFailure (n : LinkId) (s : State) : Host.Outcome State Fault Refusal := .next (linkFailure n s)

/-- LINK_RETRAIN: a FAILED link trains again once a second for three attempts (R378). -/
def linkRetrain (n : Nat) (s : State) : State :=
  let l := s.link n
  if l.st = .failed ∧ l.attempts.toNat < 3 ∧ l.since + 100000000 ≤ s.now ∧ l.admin ≠ 1 then
    (s.setLink n .training).modLink n fun x => { x with attempts := x.attempts + 1 }
  else s

/-- LINK_RETRAIN. -/
def execLinkRetrain (n : LinkId) (s : State) : Host.Outcome State Fault Refusal := .next (linkRetrain n s)

/-- The rack position to which a towpath link leads (R382). -/
def State.neighbourPos (s : State) (n : Nat) : Nat :=
  let me := s.fab.position.toNat
  let step := fun (k size : Nat) => if n % 2 = 0 then (towCoord me k + 1) % size else (towCoord me k + size - 1) % size
  let x := if n = 84 ∨ n = 85 then step 0 8 else towCoord me 0
  let y := if n = 86 ∨ n = 87 then step 1 4 else towCoord me 1
  let z := if n = 88 ∨ n = 89 then step 2 4 else towCoord me 2
  x + 8 * y + 32 * z

/-- LINK_TRAINING_COMPLETE: the link is ACTIVE with sequence numbers at 0 (Table 14.12); a towpath or wharf link knows its
partner, and a towpath neighbour at the wrong position is reported and ignored (R390). -/
def linkTrained (n partner : Nat) (s : State) : State :=
  if (s.link n).st ≠ .training then s
  else
    let s1 := ((s.freshLink n).setLink n .active).modLink n fun l =>
      if n < 84 then { l with attempts := 0 }
      else { l with attempts := 0, partnerValid := true, partner := BitVec.ofNat 7 partner }
    if 84 ≤ n ∧ n < 90 then
      let wrong := decide (s.neighbourPos n ≠ partner)
      let s2 := { s1 with fab := { s1.fab with ignored := (s1.fab.ignored.filter (· != n)) ++ (if wrong then [n] else []) } }
      if wrong then s2.noticeOpen 2 n else s2
    else s1

/-- LINK_TRAINING_COMPLETE. -/
def execLinkTrainingComplete (n : LinkId) (partner : BitVec 7) (s : State) : Host.Outcome State Fault Refusal :=
  .next (linkTrained n partner.toNat s)

/-- PARTNER_SIGNAL_RETURN: a link left FAILED trains again (R378). -/
def partnerReturn (n : Nat) (s : State) : State :=
  if (s.link n).st = .failed ∧ (s.link n).admin ≠ 1 then
    (s.setLink n .training).modLink n fun l => { l with attempts := 0 }
  else s

/-- PARTNER_SIGNAL_RETURN. -/
def execPartnerSignalReturn (n : LinkId) (s : State) : Host.Outcome State Fault Refusal := .next (partnerReturn n s)

/-- TOWPATH_FORWARD: the fabric core forwards a flit for another position on the hop of R390. -/
def towpathForward (dst : Nat) (s : State) : State :=
  if dst = s.fab.position.toNat then s
  else match s.towHop dst with
    | some n => { s.xmit n 40 1 with msgs := s.msgs ++ [⟨0, .device dst, .towpath dst, some n, 0, 0, 0⟩] }
    | none => s

/-- TOWPATH_FORWARD. -/
def execTowpathForward (dst : BitVec 7) (s : State) : Host.Outcome State Fault Refusal := .next (towpathForward dst.toNat s)

/-! ### Planned removals (R380, R492-R494) -/

namespace State

/-- Live planes of an index here. -/
def livePlanes (s : State) (i : Nat) : Nat := ((List.range 21).filter fun p => s.linkLive (4 * p + i)).length

/-- A planned removal of link `n` is allowed now: a switch index keeps 20 live planes (R380); a towpath link waits for the
others; a wharf link waits while a chain of an open object uses it (R492). -/
def removable (s : State) (n : Nat) : Bool :=
  if n < 84 then decide (21 ≤ s.livePlanes (n % 4))
  else if n < 90 then (List.range 6).all fun k => decide (84 + k = n) || (s.link (84 + k)).st == .active
  else !(s.store.objects.any fun o => !o.committed && (decide (90 + o.upstream = n) || decide (90 + o.downstream = n)))

/-- A planned removal starts: LEAVING and MASK (R380). -/
def removeLink (s : State) (n : Nat) : State := s.setLink n .leaving

end State

/-- LANE_RECALIBRATION: one removal every 30 s, at the opening of a dredge window of any basin, in the order of the links; a
lane that cannot be removed waits (R492). -/
def laneRecalibration (s : State) : State :=
  let n := s.fab.laneNext % 96
  let opening := (List.range 8).any fun b => (s.basin b).maint.open_ && decide ((s.basin b).maint.openAt = s.now)
  let step := fun (t : State) => { t with fab := { t.fab with laneNext := (n + 1) % 96, laneTick := s.now } }
  if !opening || decide (s.now < s.fab.laneTick + 3000000000) then s
  else if (s.link n).st ≠ .active then step s
  else if s.removable n then step (s.removeLink n)
  else s

/-- LANE_RECALIBRATION. -/
def execLaneRecalibration (s : State) : Host.Outcome State Fault Refusal := .next (laneRecalibration s)

/-- LEAVING_EXPIRY: after 20 µs the link enters CAL (R380). -/
def leavingExpiry (n : Nat) (s : State) : State :=
  let l := s.link n
  if l.st = .leaving ∧ l.since + 2000 ≤ s.now then s.setLink n .cal else s

/-- LEAVING_EXPIRY. -/
def execLeavingExpiry (n : LinkId) (s : State) : Host.Outcome State Fault Refusal := .next (leavingExpiry n s)

/-- CAL_COMPLETE: the link is ACTIVE again with sequence numbers at 0, and MASK goes out (R379, Table 14.12). -/
def execCalComplete (n : LinkId) (s : State) : Host.Outcome State Fault Refusal :=
  .next (if (s.link n).st = .cal then (s.freshLink n).setLink n .active else s)

/-- CAL_TIMEOUT: not ACTIVE 30 ms after it entered CAL, the link is FAILED (R494). -/
def calTimeout (n : Nat) (s : State) : State :=
  let l := s.link n
  if l.st = .cal ∧ l.since + 3000000 ≤ s.now then s.failLink n else s

/-- CAL_TIMEOUT. -/
def execCalTimeout (n : LinkId) (s : State) : Host.Outcome State Fault Refusal := .next (calTimeout n s)

end Sys2Proof.Machine
end

