-- ==== Sys2Proof/Machine/Prefetch.lean ====
section
/-! DEFINITION. Prefetch (R322-R326, R620): the barge list of a step and its landing areas, the streams of paced attention phrases, the KV that moves
before a request's first decode step (R346), and the rows that issue them: step formation and start, SHAPE, END, local replay, HALF_LANDED. -/

namespace Sys2Proof.Machine

/-! ### Pieces of a transfer -/

/-- Bytes [a, a + n) cut at the multiples of `m`: first byte and length of each part. -/
def cutAt (m a n : Nat) : List (Nat × Nat) :=
  if m = 0 then []
  else (List.range ((a + n + m - 1) / m - a / m)).map fun i =>
    let lo := max a (m * (a / m + i))
    (lo, min (a + n) (m * (a / m + i + 1)) - lo)

/-- A descriptor of `n` bytes that firmware writes for step `step`. -/
def stepDesc (src dst : Locator) (n : Nat) (fmt : Byte) (c : Nat) (cls : BargeClass) (step : Nat) : BargeHdr :=
  { src := src, dst := dst, rows := 1, rowUnits := BitVec.ofNat 16 ((n + 63) / 64), format := fmt, epoch := 0, ctx := Fin.ofNat 4 c, cls := cls,
    packed := false, last := false, generation := 0, slot := 0, origin := 0, step := BitVec.ofNat 32 step }

/-- The header of a tow of firmware's own: its parts keep their order where two land on the same bytes (R312). -/
def ownTow (stream : Bool) : TowHdr := { pack := false, ordered := false, stream := stream, notify := false, next := 0, done := 0 }

namespace State

/-- The slice ordinal by which locators name basin `y` (R305). -/
def locOrd (s : State) (y : Nat) : Nat := (s.ordinal y).getD 0

/-! ### STEP barges (R322, R324) -/

/-- The STEP barges of step `n` of a pound that basin `y` issues beside the first halves of its streams, from the step's shape record (R322). They land
within area n mod 2 of the pound's landing areas (R324). -/
def stepList (s : State) (h p n y : Nat) : List BargeHdr :=
  let cut := s.cutOf y
  let o := s.locOrd y
  let c := ((s.basin h).pound p).ctx
  let r := ((s.shapeOf h p n).map fun r => (r.rows, r.seqs)).getD (0, 0)
  (List.range (Config.stepBargeCount cut p r.1 r.2 % 4096)).map fun i =>
    let f := fun k => Config.stepBarge cut p r.1 r.2 i (k + 16 * (y - h))
    let src : Locator := .lpddr o (BitVec.ofNat 35 (if f 7 = 0 then f 0 else Config.freeNat (s.freeCtr + i)))
    let pos := BitVec.ofNat 7 (f 5)
    let place := fun k => Config.landingArea cut p k (n % 2) + f 6 % (Config.landingSize cut p k + 1 - f 1 * f 2 * 64)
    let dst : Locator :=
      if f 4 = 0 then .opbuf o pos (BitVec.ofNat 2 (place 0 / 65536)) (BitVec.ofNat 16 (place 0))
      else .sram o pos (BitVec.ofNat 23 ((s.dynamicRange y).1 + place 1))
    { stepDesc src dst 64 (BitVec.ofNat 8 (f 3)) c .step n with rows := BitVec.ofNat 16 (f 1), rowUnits := BitVec.ofNat 16 (f 2) }

/-! ### Streams (R325, R620) -/

/-- Landing bytes of a stream in basin `y`: for each sequence its L positions and the rest of its last key block (R620). -/
def streamRuns (s : State) (h p n y layer : Nat) : List (Nat × Nat × Nat) :=
  let kvb := Config.kvLayer (s.cutOf y) layer 0
  ((s.stepSeqs h p n).foldl (fun (acc : Nat × List (Nat × Nat × Nat)) q =>
    (acc.1 + (q.2 + 31) / 32 * 32 * kvb, acc.2 ++ [(acc.1, q.1, q.2)])) (0, [])).2

/-- Where byte `x` of a half lands in basin `y`, and how many bytes follow in the same tile. DESIGN CHOICE: a half fills the pound's tiles in logical
row-major order, one tile after another (log entry 50). -/
def halfPlace (s : State) (h p y part area x : Nat) : Locator :=
  let l := s.poundPlaces h p y
  let per := max 1 (part / max 1 l.length)
  .opbuf (s.locOrd y) (BitVec.ofNat 7 ((l[x / per]?).getD 0)) (BitVec.ofNat 2 (Config.landingArea (s.cutOf y) p 0 area / 65536))
    (BitVec.ofNat 16 (Config.landingArea (s.cutOf y) p 0 area + x % per))

/-- The barges of `n` bytes in 64 B units: where they are no multiple of 64, the last 64 bytes go again in a barge of their own, so that no byte past the
last is read (R304, R620; log entry 50). -/
def wholeUnits (n : Nat) : List (Nat × Nat) := if n % 64 = 0 ∨ n < 64 then [(0, n)] else [(0, n / 64 * 64), (n - 64, 64)]

/-- Barges of landing bytes [x, x + n) of half `i` in basin `y`: from byte `src` of a request's KV space, or zeros (R238, R620). -/
def runBarges (s : State) (h p step y part i : Nat) (cls : BargeClass) (src : Option (List Nat × Nat)) (x n : Nat) : List BargeHdr :=
  let c := ((s.basin h).pound p).ctx
  let per := max 1 (part / max 1 (s.poundPlaces h p y).length)
  (cutAt per (x - i * part) n).flatMap fun e =>
    let dst := fun a => s.halfPlace h p y part (i % 2) (e.1 + a)
    match src with
    | none => [stepDesc .zero (dst 0) e.2 0xFF c cls step]
    | some (pages, a0) =>
      let a := a0 + (e.1 - (x - i * part))
      (cutAt 65536 a e.2).flatMap fun g => (wholeUnits g.2).map fun u =>
        stepDesc (.lpddr (s.locOrd y) (BitVec.ofNat 35 ((pages[(g.1 + u.1) / 65536]?).getD 0 * 65536 + (g.1 + u.1) % 65536)))
          (dst (g.1 + u.1 - a)) u.2 0xFF c cls step

/-- Half `i` of a paced item's stream in basin `y`: of each sequence that has bytes in it, the layer's KV of positions below L, then zeros to the end
of the last key block (R620). -/
def halfBarges (s : State) (h p n y i : Nat) (it : ProgItem) (cls : BargeClass) : List BargeHdr :=
  let part := s.halfPart h p y it.phrase
  let cut := s.cutOf y
  let kvb := Config.kvLayer cut it.layer 0
  let off := Config.kvLayer cut it.layer 1
  let kvAll := (((s.basin y).activeShare).map (·.kvBytes)).getD 0
  let lo := i * part
  let hi := lo + part
  let c := ((s.basin h).pound p).ctx
  (s.streamRuns h p n y it.layer).flatMap fun r =>
    let pages := (Tbl.get KvSlot.fresh r.2.1 ((s.basin y).ctx c).kvDir).pages
    let own := (List.range r.2.2).flatMap fun t =>
      let a := max lo (r.1 + t * kvb)
      let e := min hi (r.1 + t * kvb + kvb)
      if a < e then s.runBarges h p n y part i cls (some (pages, t * kvAll + off + (a - (r.1 + t * kvb)))) a (e - a) else []
    let a := max lo (r.1 + r.2.2 * kvb)
    let e := min hi (r.1 + (r.2.2 + 31) / 32 * 32 * kvb)
    own ++ (if a < e then s.runBarges h p n y part i cls none a (e - a) else [])

/-- Firmware of every basin that the pound spans posts descriptors. -/
def postEach (s : State) (h p : Nat) (stream : Bool) (f : Nat → List BargeHdr) : State :=
  (s.poundBasins h p).foldl (fun t y => t.postTows y ((s.basin h).pound p).ctx true (ownTow stream) (f y)) s

/-- Halves `is` of a paced item are issued. -/
def issueHalves (s : State) (h p n : Nat) (it : ProgItem) (cls : BargeClass) (is : List Nat) : State :=
  let l := is.filter fun i => decide (i < s.halvesOf h p n it)
  if l.isEmpty then s else s.postEach h p true fun y => l.flatMap fun i => s.halfBarges h p n y i it cls

/-- The barge list of step `n` is issued: its STEP barges, the first two halves of its first stream among them (R322, R325). -/
def issueStep (s : State) (h p n : Nat) : State :=
  let s1 := s.postEach h p false fun y => s.stepList h p n y
  let r := ((s.shapeOf h p n).map fun r => (r.rows, r.seqs)).getD (0, 0)
  let s2 := { s1 with freeCtr := s1.freeCtr + Config.stepBargeCount (s.cutOf h) p r.1 r.2 % 4096 }
  match s.pacedItems h p with
  | [] => s2
  | e :: _ => s2.issueHalves h p n e.2 .step [0, 1]

/-- A piece of a paced attention phrase has ended: the half after next refills the area that it freed; after the last piece the next stream begins
(R325). -/
def refill (s : State) (h p : Nat) : State :=
  let q := (s.basin h).pound p
  match q.prog[q.at_.1]? with
  | none => s
  | some it =>
    let k := q.piece - 1
    if k + 1 < s.halvesOf h p q.step it then s.issueHalves h p q.step it .stream [k + 2]
    else match (s.pacedItems h p).find? fun e => decide (q.at_.1 < e.1) with
      | some e => s.issueHalves h p q.step e.2 .stream [0, 1]
      | none => s

/-! ### KV that moves to the decode basins (R346) -/

/-- Layers whose attention basin `b` runs, with the pounds of its own share. -/
def attnLayers (s : State) (b : Nat) : List Nat :=
  ((s.basin b).pounds.flatMap fun p => (p.2.prog.filter fun it => it.kind == .attention).map (·.layer)).eraseDups

/-- The prefill basin of the slice, other than `y`, that holds a layer's KV of entry `i`: one whose pounds lie on the path of the source pound that
prefilled it (R346). -/
def prefillBasin (s : State) (y layer i : Nat) : Option Nat :=
  let path := match (s.entry i).prefillAt with
    | some hp => s.downstream 128 [hp]
    | none => []
  (s.sliceBasins y).find? fun x => x != y && (((s.basin x).activeShare).map (·.kind)) == some 0 && (s.attnLayers x).contains layer &&
    (path.isEmpty || path.any fun hp => (s.poundBasins hp.1 hp.2).contains x)

/-- COLLECTIVE barges that bring basin `y` the KV of request tag `tag`, positions below `len`, of a layer that basin `x` prefilled. -/
def kvBarges (s : State) (c x y layer tag len step : Nat) : List BargeHdr :=
  let kvOf := fun b => (((s.basin b).activeShare).map (·.kvBytes)).getD 0
  let pages := fun b => (Tbl.get KvSlot.fresh tag ((s.basin b).ctx c).kvDir).pages
  let loc := fun b a => Locator.lpddr (s.locOrd b) (BitVec.ofNat 35 (((pages b)[a / 65536]?).getD 0 * 65536 + a % 65536))
  let off := fun b => Config.kvLayer (s.cutOf b) layer 1
  (List.range len).flatMap fun t =>
    (cutAt 65536 (t * kvOf y + off y) (Config.kvLayer (s.cutOf y) layer 0)).flatMap fun e =>
      let a := t * kvOf x + off x + (e.1 - (t * kvOf y + off y))
      (cutAt 65536 a e.2).flatMap fun g => (wholeUnits g.2).map fun u =>
        stepDesc (loc x (g.1 + u.1)) (loc y (e.1 + (g.1 + u.1 - a))) u.2 0xFF c .collective step

/-- The basins of a decode share move the KV of the requests that a formed step takes for the first time (R346). -/
def moveKv (s : State) (h p n : Nat) : State :=
  let q := (s.basin h).pound p
  match s.formedFlight h p n with
  | none => s
  | some f =>
    let new := f.rows.filter fun (r : FormRow) => !r.prefill && !(s.entry r.entry).kvMoved
    if f.kind = 2 ∨ new.isEmpty then s
    else
      let s1 := (s.sliceBasins h).foldl (fun t y =>
        t.postTows y q.ctx true (ownTow false) ((s.attnLayers y).flatMap fun l => new.flatMap fun r => match s.prefillBasin y l r.entry with
          | some x => s.kvBarges q.ctx x y l (s.entry r.entry).kvTag r.pos n
          | none => [])) s
      new.foldl (fun t r => t.modEntry r.entry fun e => { e with kvMoved := true }) s1

/-- Firmware discards the barge list of a step that will not start: descriptors that wait are dropped, barges under way end ABORTED (R133,
Table 8.10). -/
def discardStep (s : State) (h p n : Nat) : State :=
  let c := ((s.basin h).pound p).ctx
  (s.poundBasins h p).foldl (fun t y =>
    let mine := fun (d : BargeHdr) => d.cls == .step && d.ctx.val == c && d.step.toNat == n % 2 ^ 32 && s.bargeOf y h p d
    let t1 := t.modBasin y fun x => { x with eng := { x.eng with
      tows := Tbl.mod [] c (fun (l : List Tow) => l.map fun w => { w with waiting := w.waiting.filter fun d => !mine d }) x.eng.tows } }
    ((t1.basin y).eng.slots.filter fun e => mine e.2.hdr).foldl (fun u e => u.endBarge y e.1 .aborted) t1) s

end State

/-! ### The rows -/

/-- STEP_FORMATION: with its requests chosen, the step's barge list is issued (R133, R322): a source pound forms step s when it has started step
s - 1, or stands before its first step. -/
def execStepFormation (b : BasinId) (p : PoundId) (s : State) : Host.Outcome State Fault Refusal :=
  let s1 := stepFormation b p s
  .next (match ((s1.basin b).pound p).nextFormed with
    | some n => if ((s.basin b).pound p).nextFormed = some n then s1 else (s1.issueStep b p n).moveKv b p n
    | none => s1)

/-- STEP_START. -/
def execStepStart (b : BasinId) (p : PoundId) (s : State) : Host.Outcome State Fault Refusal := .next (stepStart b p s)

/-- SHAPE: the first record of a step, when its producer starts it, has the consumer's firmware issue the step's barge list (R322); a step of zero rows
needs none. -/
def execShape (b : BasinId) (p : PoundId) (qid : BitVec 8) (step : Nat) (rows seqs : Nat) (seqTable mooring : Nat) (s : State) :
    Host.Outcome State Fault Refusal :=
  let first := !(((s.basin b).pound p).shapes.any fun r => r.step == step)
  let s1 := shapeRec b p { qid := qid.toNat, step := step, rows := rows, seqs := seqs, seqTable := seqTable, mooring := mooring } s
  .next (if first && decide (0 < rows) && decide (0 < ((s.basin b).pound p).pdef.height) then s1.issueStep b p step else s1)

/-- Schedule word END: with a piece of a paced attention phrase its landing area is free for the half after next (R325). -/
def execEndWord (t : TileId) (s : State) : Host.Outcome State Fault Refusal :=
  .next (s.issueWord t fun o => match o with
    | .endWord => some fun u =>
      let v := endOfPhrase t u
      match u.poundOf t with
      | none => v
      | some hp =>
        let on := fun (x : State) => ((x.basin hp.1).pound hp.2).phraseOn
        if on u && !on v && (((u.basin hp.1).pound hp.2).phrase.bind (·.half)).isSome then v.refill hp.1 hp.2 else v
    | _ => none)

/-- LOCAL_REPLAY: firmware issues the step's stream again for the replay (R326). -/
def execLocalReplay (b : BasinId) (p : PoundId) (s : State) : Host.Outcome State Fault Refusal :=
  let s1 := localReplay b p s
  let q := (s.basin b).pound p
  .next (if ((s1.basin b).pound p).replays = q.replays then s1
    else match s1.pacedItems b p with
      | [] => s1
      | e :: _ => s1.issueHalves b p q.step e.2 .stream [0, 1])

/-- A barge of half `k` still comes to tile `t`. -/
def State.halfComing (s : State) (t : Nat) (half : Bool) : Bool :=
  let y := tileBasin t
  match s.poundOf t with
  | none => false
  | some hp =>
    let area := Config.landingArea (s.cutOf y) hp.2 0 (bit1 half)
    let part := fun (ph : Nat) => s.halfPart hp.1 hp.2 y ph / max 1 (s.poundPlaces hp.1 hp.2 y).length
    s.bargeWaits y ((s.basin hp.1).pound hp.2).ctx fun d => (d.cls == .step || d.cls == .stream) && match d.dst with
      | .opbuf _ pos k a => decide (s.posTile y pos = t) && (s.pacedItems hp.1 hp.2).any fun e =>
          decide (area ≤ 65536 * k.toNat + a.toNat) && decide (65536 * k.toNat + a.toNat < area + part e.2.phrase)
      | _ => false

/-- HALF_LANDED: the last barge of a landing half has landed, and the tile sets its full flag; a half of which no barge came, or one failed, is not full
(R326). -/
def execHalfLanded (t : TileId) (half : Bool) (s : State) : Host.Outcome State Fault Refusal :=
  .next (if s.halfComing t half || Tbl.get 0 (bit1 half) (s.tile t).core.came != 1 then s
    else s.modTile t fun x => { x with core := { x.core with halves := Tbl.set 0 (bit1 half) 1 x.core.halves } })

end Sys2Proof.Machine
end

