-- ==== Sys2Proof/Machine/Lockage.lean ====
section
/-! DEFINITION. Lockages (R133-R138, R174-R177): items that wait for one, the keeper's messages, the drain, the slot switch
(R132) and the resume tick, at which staged words (R8), slots and epochs (R126) take effect. -/

namespace Sys2Proof.Machine

/-! ### Staged words (R8, R9, R138) -/

/-- A change of a context's line-cache ways: the dirty lines of ways that leave it are written back, and those ways are
unavailable until they are zeroed (R233). -/
def applyWays (dl c : Nat) (v : BitVec 32) (x : Basin) : Basin :=
  let old := x.ways c
  let new := v.setWidth 16
  let leave := old &&& ~~~new
  let y := x.flush dl fun w _ => leave.getLsbD w
  { y with dram := { y.dram with ways := Tbl.set 0 c new y.dram.ways, moving := y.dram.moving ||| leave } }

/-- A staged word of a basin takes effect: BSN_SLC_CAP_c, BSN_LC_WAYS_c or BSN_DREDGE, by its offset from the basin base. -/
def applyStaged (dl : Nat) (x : Basin) (w : StagedWord) : Basin :=
  if 0x100 ≤ w.off ∧ w.off < 0x110 then
    { x with sluice := { x.sluice with cap := Tbl.set 0 ((w.off - 0x100) / 4) (w.value.setWidth 16) x.sluice.cap } }
  else if 0x210 ≤ w.off ∧ w.off < 0x220 then applyWays dl ((w.off - 0x210) / 4) w.value x
  else if w.off = 0x80 then { x with maint := { x.maint with phase := w.value.setWidth 8 } }
  else x

/-- An accepted write of a staged word. Those that are pending at the send of LOCK join its lockage, and the last of them takes effect (R9, R138); one of the
same tick gives way to it. -/
def stage (x : Basin) (off : Nat) (v : BitVec 32) (now : Tick) : Basin :=
  { x with staged := (x.staged.filter fun w => !(w.off == off && w.at_ == now)) ++ [{ off := off, value := v, at_ := now }] }

/-- The work of CREATE_CONTEXT and DESTROY_CONTEXT in a basin that waits for its ways is done (R442, R443). -/
def waysApplied (b : Nat) (s : State) : State :=
  s.basinDoneAll (fun r => match r.cmd with
    | .createContext _ | .destroyContext =>
      !((s.basin b).staged.any fun w => w.off == 0x210 + 4 * r.hdr.context.toNat)
    | _ => false) b .ok

/-! ### Items that wait for a lockage (R138) -/

namespace State

/-- An item that takes effect at a lockage is pending in basin `b`. -/
def pendingIn (s : State) (b : Nat) : Bool :=
  let x := s.basin b
  !x.staged.isEmpty || x.imageDue.isSome || (x.ctxs.any fun c => c.2.res.any fun r => r.replace && r.state == .loading && !r.armed)

/-- The slice waits for a lockage that restarts it: a pound stopped or held after a fault, or the slice is held (R140,
R137, R477). -/
def needsRestart (s : State) (id : Nat) : Bool :=
  (s.localMembers id).any fun b => (s.basin b).st.held || (s.basin b).pounds.any fun p => p.2.held || p.2.stopped

/-- A lockage of slice `id` is due at its keeper `b`. -/
def lockageDue (s : State) (b id : Nat) : Bool :=
  ((s.localMembers id).any fun i => s.pendingIn i) || (s.selects.any fun x => x.slice == id && !x.armed) || s.needsRestart id ||
    !(s.basin b).keeper.remote.isEmpty

/-- The items that were pending in basin `b` at tick `sent`, when LOCK was sent, belong to this lockage (R138). -/
def armBasin (s : State) (b : Nat) (sent : Tick) : State :=
  s.modBasin b fun x =>
    let due := match x.imageDue with | some t => decide (t ≤ sent) | none => false
    { x with
      armed := x.armed ++ x.staged.filter fun w => decide (w.at_ ≤ sent), staged := x.staged.filter fun w => decide (sent < w.at_),
      imageArmed := x.imageArmed || due, imageDue := if due then none else x.imageDue,
      ctxs := x.ctxs.map fun c => (c.1, { c.2 with res := c.2.res.map fun r =>
        if r.replace ∧ r.state = .loading ∧ r.askedAt ≤ sent then { r with armed := true } else r }) }

/-- The SELECT_CUTs of a slice that were pending at the send of LOCK belong to this lockage. -/
def armSelects (s : State) (id : Nat) (sent : Tick) : State :=
  { s with selects := s.selects.map fun x => if x.slice = id ∧ x.at_ ≤ sent then { x with armed := true } else x }

/-- The slot that basin `b` changes to: the last accepted byte that names one (R445), where it is not the slot that runs and holds a cut. DESIGN
CHOICE: a slot that is not valid by then is not switched to (log entry 51). -/
def selected (s : State) (id b : Nat) : Option Nat :=
  let pick := (s.selects.filter fun x => x.slice == id && x.armed).foldl (fun a x =>
    match x.bytes[b]? with
    | some v => if v.toNat < 4 then some v.toNat else a
    | none => a) none
  pick.filter fun k => (s.basin b).activeSlot != some k && ((s.basin b).slot k).valid && !((s.basin b).slot k).filling

/-- A trace record of a lockage message: its code of Table 10.8 and the peer's ordinal (R612). -/
def lockTrace (s : State) (b code peer : Nat) : State := s.record b 2 0#8 (data48 code peer 0)

/-- A message from basin `b` to its slice's keeper. -/
def toKeeper (s : State) (b : Nat) (m : Msg) : State :=
  match s.keeperOrdinal b with
  | some k => s.send b (.member (s.basin b).sliceId.toNat k) m
  | none => s

/-- An item became pending in basin `b`: a keeper on another device hears of it on the basin's FW channel (R138). -/
def itemPending (s : State) (b : Nat) (slot : Option Nat) : State :=
  match s.keeperOrdinal b with
  | some k => if s.ordinalHere (s.basin b).sliceId.toNat k then s else s.toKeeper b (.pendingItem ((s.ordinal b).getD 0) slot)
  | none => s

/-- The keeper's record changed by `f`. -/
def modKeeper (s : State) (b : Nat) (f : Keeper → Keeper) : State :=
  s.modBasin b fun x => { x with keeper := f x.keeper }

/-- A basin's part in the lockage changed by `f`. -/
def modPart (s : State) (b : Nat) (f : LockPart → LockPart) : State :=
  s.modBasin b fun x => { x with part := f x.part }

end State

/-! ### LOCK (R136, R174) -/

/-- LOCKAGE_START: the keeper holds a pending item, its own device's or one of another device's basin, and sends LOCK with T_L and each basin's slot
to every basin of the slice (R136, R138). An item that comes during a lockage waits for the next; a keeper that holds unsynchronized members
defers (R572). -/
def lockageStart (b : Nat) (remote : List (Nat × Option Nat)) (s0 : State) : State :=
  let id := (s0.basin b).sliceId.toNat
  if !s0.isKeeper b then s0
  else
    let s := if remote.isEmpty then s0 else s0.modKeeper b fun q => { q with remote := q.remote ++ remote }
    let k := (s.basin b).keeper
    if k.active || !s.lockageDue b id || !k.unsync.isEmpty then s
    else
      let tL := if s.oneDevice id then s.now else s.now + 1000
      let s1 := (s.localMembers id).foldl armBasin' (s.armSelects id s.now)
      let ms := s.membersOf id
      let slots := (List.range ms.length).map fun o => match s.localOfOrdinal id o with
        | some x => s1.selected id x
        | none => ((k.remote.reverse.find? fun r => r.1 == o && r.2.isSome).bind (·.2))
      let s2 := s1.modKeeper b fun q => { q with
        active := true, remote := [], tLock := tL, tResume := none, slots := slots, lockAcks := [], drained := [], resumeAcks := [],
        resendAt := [] }
      let o := (s.ordinal b).getD 0
      (List.range ms.length).foldl (fun t i => (t.send b (.member id i) (.lock s.now tL slots o)).lockTrace b 0x10 i) s2
where
  /-- One basin's items join the lockage. -/
  armBasin' (t : State) (i : Nat) : State := t.armBasin i t.now

/-- LOCKAGE_START. -/
def execLockageStart (b : BasinId) (remote : List (BitVec 10 × Option (Fin 4))) (s : State) : Host.Outcome State Fault Refusal :=
  .next (lockageStart b (remote.map fun r => (r.1.toNat, r.2.map (·.val))) s)

/-- From T_L on no source pound of the basin starts a step: a step formed and not started returns to the manifest, and its barge list is discarded
(R133). -/
def stopSources (b : Nat) (s : State) : State :=
  let formed := (s.basin b).pounds.filterMap fun p => p.2.nextFormed.map fun n => (p.1, n)
  let s0 := formed.foldl (fun t e => t.discardStep b e.1 e.2) s
  let s1 := s0.modBasin b fun x => { x with
    pounds := x.pounds.map fun p => (p.1, { p.2 with nextFormed := none }),
    cut := { x.cut with lockState := .locking } }
  { s1 with man := { s1.man with flights := s1.man.flights.filter fun f => !(f.home == b && !f.started) } }

/-- LOCK reaches a basin: it acknowledges it, and in one that serves or stands READY the items that were pending at the send join the lockage (R138, R174).
A LOCK that comes again after the basin reported, as a new keeper sends it, has it report DRAINED again (R135). One that comes at or after T_L is applied at
once and counted, each time it comes; a basin that is not in service takes no part until it returns (R137), and one in RESETTING, OFFLINE or RETIRED has no
firmware that acknowledges (log entry 187). DESIGN CHOICE: in a one-device slice, where T_L is the send tick, no LOCK counts
as late (log entry 52). -/
def lockMsg (b : Nat) (sent tL : Nat) (slots : List (Option Nat)) (keeper : BitVec 16) (s : State) : State :=
  let x := s.basin b
  let id := x.sliceId.toNat
  let up := x.st.state == .serving || x.st.state == .ready
  if (s.ordinal b).isNone || !(up || x.st.state == .init || x.st.state == .fenced) then s
  else if !up then
    let late := decide (tL ≤ s.now) && !s.oneDevice id
    ((s.modBasin b fun y => { y with cut := { y.cut with lateLock := if late then satAdd y.cut.lateLock 1 else y.cut.lateLock } }).toKeeper b
      (.lockAck ((s.ordinal b).getD 0) (s.unsyncOf b))).lockTrace b 0x10 keeper.toNat
  else
    let again := x.part.tLock == some tL
    let here := s.ordinalHere id keeper.toNat
    let s0 := if again || here then s else (s.armSelects id sent).armBasin b sent
    let late := decide (tL ≤ s.now) && !s.oneDevice id
    let s1 := s0.modBasin b fun y => { y with
      cut := { y.cut with
        lateLock := if late then satAdd y.cut.lateLock 1 else y.cut.lateLock,
        lockState := if again then y.cut.lockState else if y.cut.hasSlot then .running else .idle },
      part := if again then y.part else { LockPart.fresh with tLock := some tL, slots := slots } }
    let s2 := if decide (tL ≤ s.now) && !again then stopSources b s1 else s1
    let s3 := (s2.toKeeper b (.lockAck ((s.ordinal b).getD 0) (s.unsyncOf b))).lockTrace b 0x10 keeper.toNat
    if again && x.part.reported then (s3.toKeeper b (.drained ((s.ordinal b).getD 0) (s.unsyncOf b))).lockTrace b 0x14 ((s.ordinal b).getD 0) else s3

/-- LOCK. -/
def execLock (b : BasinId) (sent tLock : BitVec 64) (slots : List (Option (Fin 4))) (keeper : BitVec 16) (s : State) :
    Host.Outcome State Fault Refusal := .next (lockMsg b sent.toNat tLock.toNat (slots.map fun k => k.map (·.val)) keeper s)

/-- An ordinal noted as synchronized or not (R572). -/
def noteSync (k : Keeper) (o : Nat) (unsync : Bool) : Keeper :=
  { k with unsync := if unsync then (if k.unsync.contains o then k.unsync else k.unsync ++ [o]) else k.unsync.filter (· != o) }

/-- LOCK_ACK reaches the keeper (R174). -/
def execLockAck (b : BasinId) (ordinal : BitVec 10) (unsynchronized : Bool) (s : State) : Host.Outcome State Fault Refusal :=
  .next ((s.modKeeper b fun k =>
    let k1 := noteSync k ordinal.toNat unsynchronized
    if k1.lockAcks.contains ordinal.toNat then k1 else { k1 with lockAcks := k1.lockAcks ++ [ordinal.toNat] }).lockTrace b 0x11
      ordinal.toNat)

/-- T_L arrives in a basin (R133). -/
def lockTick (b : Nat) (s : State) : State :=
  match (s.basin b).part.tLock with
  | some t =>
    let st := (s.basin b).cut.lockState
    if t ≤ s.now ∧ (st = .running ∨ st = .idle) then stopSources b s else s
  | none => s

/-- LOCK_TICK. -/
def execLockTick (b : BasinId) (s : State) : Host.Outcome State Fault Refusal := .next (lockTick b s)

/-- From T_L on the keeper sends LOCK again every 1,000 ticks to a basin that has not acknowledged it (R174). -/
def lockResend (b o : Nat) (s : State) : State :=
  let k := (s.basin b).keeper
  let id := (s.basin b).sliceId.toNat
  if !k.active || decide (s.now < k.tLock) || k.lockAcks.contains o || decide (s.now < Tbl.get 0 o k.resendAt) ||
      decide ((s.membersOf id).length ≤ o) then s
  else
    let s1 := s.modKeeper b fun q => { q with resendAt := Tbl.set 0 o (s.now + 1000) q.resendAt }
    (s1.send b (.member id o) (.lock s.now k.tLock k.slots ((s.ordinal b).getD 0))).lockTrace b 0x10 o

/-- LOCK_RESEND. -/
def execLockResend (b : BasinId) (ordinal : BitVec 10) (s : State) : Host.Outcome State Fault Refusal :=
  .next (lockResend b ordinal.toNat s)

/-! ### The drain (R134) -/

namespace State

/-- A pound's next step could start (R107). -/
def stepReady (s : State) (b p : Nat) : Bool :=
  match s.stepShape b p with
  | some r => s.mayStart b p r
  | none => false

/-- Nothing of basin `b` stands on its outbound fabric channels: of the running context's VC no flit waits or is unacknowledged on a link (Table
10.6). -/
def channelsEmpty (s : State) (b : Nat) : Bool :=
  match (s.basin b).running with
  | none => true
  | some c => s.fab.links.all fun l => Tbl.get 0 (4 * b + c) l.2.waiting == 0 && !(l.2.replay.any fun r => r.2 == 4 * b + c)

/-- A tile holds no queue flit: storage, egress buffer, and flits that cross it. -/
def tileEmpty (s : State) (t : Nat) : Bool :=
  let n := (s.tile t).net
  n.egress.isEmpty && n.transit.isEmpty && n.replayFrom.isEmpty && n.queue.all fun q => q.2.stored.isEmpty

/-- The four conditions of R134, and a pending replacement's load or image start (R301, R512). A pound that a fault stopped in a step is not at a
boundary before the teardown (R477). -/
def drained (s : State) (b : Nat) : Bool :=
  let x := s.basin b
  (x.pounds.all fun p => !p.2.running && !s.stepReady b p.1) && ((basinTiles b).all fun t => s.tileEmpty t) &&
    (x.eng.slots.all fun e => e.2.hdr.cls == .background || e.2.status.isSome) &&
    (x.eng.tows.all fun e => e.2.all fun t => t.waiting.all fun d => d.cls == .background) && s.channelsEmpty b &&
    !(x.ctxs.any fun c => c.2.res.any fun r => r.armed && r.state == .loading) && !x.imageArmed

end State

/-- BASIN_DRAINED: the basin stands drained and reports it to the keeper (R134, R136); a basin in READY takes part as the keeper's
candidates of R135 do, unless its restoration failed, which holds the slice (R526). -/
def basinDrained (b : Nat) (s : State) : State :=
  let x := s.basin b
  if x.cut.lockState != .locking || x.part.reported || !(x.st.state == .serving || (x.st.state == .ready && !x.st.held)) || !s.drained b then s
  else
    let s1 := s.modBasin b fun y => { y with cut := { y.cut with lockState := .drained }, part := { y.part with reported := true } }
    (s1.toKeeper b (.drained ((s.ordinal b).getD 0) (s.unsyncOf b))).lockTrace b 0x14 ((s.ordinal b).getD 0)

/-- BASIN_DRAINED. -/
def execBasinDrained (b : BasinId) (s : State) : Host.Outcome State Fault Refusal := .next (basinDrained b s)

/-- The keeper sends RESUME with its T_R to every basin of the slice (R136): 200 ticks after the last DRAINED in a one-device
slice, else 1,000 ticks after the send. -/
def sendResume (b : Nat) (s : State) : State :=
  let id := (s.basin b).sliceId.toNat
  let tR := s.now + (if s.oneDevice id then 200 else 1000)
  ((s.modKeeper b fun k => { k with tResume := some tR, resumeAcks := [] }).sendAll b (.resume tR)).lockTrace b 0x12
    ((s.ordinal b).getD 0)

/-- DRAINED reaches the keeper; with all of them it sends RESUME (R136). -/
def drainedMsg (b o : Nat) (unsync : Bool) (s : State) : State :=
  let id := (s.basin b).sliceId.toNat
  let s1 := (s.modKeeper b fun k =>
    let k1 := noteSync k o unsync
    if k1.drained.contains o then k1 else { k1 with drained := k1.drained ++ [o] }).lockTrace b 0x14 o
  let k := (s1.basin b).keeper
  if k.active && k.tResume.isNone && (List.range (s.membersOf id).length).all fun i => k.drained.contains i then sendResume b s1
  else s1

/-- DRAINED. -/
def execDrained (b : BasinId) (ordinal : BitVec 10) (unsynchronized : Bool) (s : State) : Host.Outcome State Fault Refusal :=
  .next (drainedMsg b ordinal.toNat unsynchronized s)

/-! ### RESUME (R175) -/

/-- RESUME reaches a basin: a new one discards an earlier T_R and counts it; one after its T_R − 300 is acknowledged,
counted, and waits for the keeper's next (R175). The margins are those of slices that span devices. -/
def resumeMsg (b tR : Nat) (s : State) : State :=
  let x := s.basin b
  let late := decide (tR < s.now + 300) && !s.oneDevice x.sliceId.toNat
  let s1 := s.modBasin b fun y =>
    let again := match y.part.tResume.orElse fun _ => y.part.late with | some t => t != tR | none => false
    let cut := { y.cut with
      voided := if again then satAdd y.cut.voided 1 else y.cut.voided,
      lateResume := if late then satAdd y.cut.lateResume 1 else y.cut.lateResume }
    { y with cut := cut, part := { y.part with tResume := if late then none else some tR, late := if late then some tR else none } }
  (s1.toKeeper b (.resumeAck ((s.ordinal b).getD 0))).lockTrace b 0x12 ((s.ordinal b).getD 0)

/-- RESUME. -/
def execResume (b : BasinId) (tResume : BitVec 64) (s : State) : Host.Outcome State Fault Refusal :=
  .next (if (s.ordinal b).isNone then s else resumeMsg b tResume.toNat s)

/-- RESUME_ACK reaches the keeper (R175). -/
def execResumeAck (b : BasinId) (ordinal : BitVec 10) (s : State) : Host.Outcome State Fault Refusal :=
  .next ((s.modKeeper b fun k => if k.resumeAcks.contains ordinal.toNat then k else
    { k with resumeAcks := k.resumeAcks ++ [ordinal.toNat] }).lockTrace b 0x13 ordinal.toNat)

/-- RESUME_VOID: at T_R − 300 the keeper lacks an acknowledgement, voids the resume and sends a new one (R175). -/
def resumeVoid (b : Nat) (s : State) : State :=
  let k := (s.basin b).keeper
  let id := (s.basin b).sliceId.toNat
  match k.tResume with
  | some t =>
    if k.active ∧ t ≤ s.now + 300 ∧ !s.oneDevice id ∧ !((List.range (s.membersOf id).length).all fun i => k.resumeAcks.contains i)
    then sendResume b s else s
  | none => s

/-- RESUME_VOID. -/
def execResumeVoid (b : BasinId) (s : State) : Host.Outcome State Fault Refusal := .next (resumeVoid b s)

/-! ### The slot switch (R132) -/

/-- Differences of the counters since their last sample, in the order of Table 2.11 (R87). -/
def TileCnt.since (c d : TileCnt) : List Nat :=
  [c.satNarrow.toNat - d.satNarrow.toNat, c.satArith.toNat - d.satArith.toNat, c.nanOut.toNat - d.nanOut.toNat,
   c.badCode.toNat - d.badCode.toNat, c.skip.toNat - d.skip.toNat, c.muActive.toNat - d.muActive.toNat,
   c.muLoadWait.toNat - d.muLoadWait.toNat]

/-- Counts added to the totals of a context. -/
def addArith (t : Tbl Nat) (l : List Nat) : Tbl Nat :=
  (l.zip (List.range l.length)).foldl (fun a p => Tbl.mod 0 p.2 (· + p.1) a) t

/-- Basin firmware samples the counters of a tile and charges them to the outgoing context (R87). -/
def sampleTile (b : Nat) (c : Option Nat) (s : State) (t : Nat) : State :=
  let x := s.tile t
  let d := x.cnt.since x.base
  let s1 := if x.base = x.cnt then s else s.modTile t fun y => { y with base := y.cnt }
  match c with
  | some k => if d.all (· == 0) then s1 else s1.modBasin b fun y => y.modCtx k fun z => { z with arith := addArith z.arith d }
  | none => s1

/-- The link-slot map of slot `k` of a tile (Table 3.5). -/
def slotMap (m : TileMem) (k : Nat) : Tbl (BitVec 64) :=
  (List.range 4).foldl (fun t d => Tbl.set 0#64 d (slotLinkMap m.sched k d) t) []

/-- A slot whose link-slot map holds a word with bad parity is loaded again from the cut store before the router takes the map (R83, R141). -/
def State.mapReload (s : State) (t k : Nat) : State :=
  if (s.tile t).mem.damaged .sched ((32768 * k + 0x100) / 4) 8 then s.reloadSlot t k else s

/-- A tile changes to slot `k`: at a change of context its operand buffer and accumulator clear (R82); its router takes the
new link-slot map; what it held of the queues `qs` is over. -/
def switchTile (k : Nat) (clear : Bool) (qs : List Nat) (x : Tile) : Tile :=
  let mem := if clear then { x.mem with
      opbuf := [], acc := [], parity := x.mem.parity.filter fun e => !(e.space == .opbuf || e.space == .acc) } else x.mem
  { x with mem := mem, net := { x.net with slots := slotMap x.mem k, route := none, queue := x.net.queue.filter fun q => !qs.contains q.1 } }

/-- Pounds of a share under a context: at their first step boundary with their programs, the credits of their output queues at the depths
(R115, R142, R157). -/
def loadPounds (h : Share) (c : Nat) (depth : Nat → Nat) : Tbl Pound :=
  h.pounds.map fun p => (p.1, { Pound.fresh with
    ctx := c, pdef := p.2, prog := programOf h.cutId p.1 p.2,
    credits := (State.usedQueues p.2.outQ).foldl (fun t q => Tbl.set 0 q (depth q) t) [] })

/-- SLOT_SWITCH: at T_R − 200 a basin that changes slot begins the switch (R132): counters are sampled, tiles clear and load
their link-slot maps, sequencers load the pound and queue tables with credits at the depths. -/
def slotSwitch (b : Nat) (s : State) : State :=
  let x := s.basin b
  match x.part.tResume, s.nextSlot b with
  | some t, some k =>
    if s.now + 200 < t ∨ x.part.switched ∨ !(x.cut.lockState = .drained) ∨ !(x.slot k).valid ∨ (x.slot k).filling then s
    else
      let c := (x.slot k).ctx.toNat
      let clear := x.running ≠ some c
      let s1 := if clear then (basinTiles b).foldl (sampleTile b x.running) s else s
      let new := match x.shareOf k with | some h => h.queues | none => []
      let qs := (x.queues ++ new).map (·.1)
      let s2 := (s.sliceBasins b).foldl (fun u i => (basinTiles i).foldl (fun v t =>
        (if i = b then v.mapReload t k else v).modTile t (if i = b then switchTile k clear qs else fun y =>
          { y with net := { y.net with queue := y.net.queue.filter fun q => !qs.contains q.1 } })) u) s1
      let s3 := s2.modBasin b fun y =>
        let y1 := { y with cut := { y.cut with lockState := .switching }, part := { y.part with switched := true } }
        match y.shareOf k with
        | some h => { y1 with queues := h.queues, sluice := { y1.sluice with steps := [], colls := [] } }
        | none => y1
      match x.shareOf k with
        | some h =>
          let depth := fun q => (s3.queueOf b q).depth
          let s' := s3.modBasin b fun y => { y with pounds := loadPounds h c depth }
          h.queues.foldl (fun (u : State) (q : Nat × Queue) =>
            if q.2.producer = 0xFF ∨ q.2.producer / 16 = b then u
            else u.modPound (q.2.producer / 16) (q.2.producer % 16) fun p => { p with credits := Tbl.set 0 q.1 q.2.depth p.credits }) s'
        | none => s3
  | _, _ => s

/-- SLOT_SWITCH. -/
def execSlotSwitch (b : BasinId) (s : State) : Host.Outcome State Fault Refusal := .next (slotSwitch b s)

/-! ### The resume tick -/

namespace State

/-- A basin takes a state: a trace record of source FAULT (Table 19.1) and NOTICE_FAULT event 5 to its contexts. -/
def setBState (s : State) (b : Nat) (st : BState) : State :=
  if (s.basin b).st.state = st then s
  else
    let s1 := s.modBasin b fun x => { x with st := { x.st with state := st } }
    (s1.record b 4 0#8 (data48 0 st.code (s1.basin b).st.cause.code)).noticeBasin b 5 .ok

/-- A basin's armed words take effect (R8, R9, R196, R233). -/
def applyArmed (s : State) (b : Nat) : State :=
  waysApplied b (s.modBasin b fun x => { x.armed.foldl (applyStaged s.basinLines) x with armed := [] })

/-- Chunks of the static region of context `c` of basin `b` are zero in every tile, with correct parity (R286). -/
def zeroChunks (s : State) (b c : Nat) (ks : List Nat) : State :=
  let x := (s.basin b).sramCtx c
  let base := x.base.toNat * 65536 + x.store.toNat * 32768
  let in_ := fun a => ks.any fun k => decide (base + 65536 * k ≤ a) && decide (a < base + 65536 * k + 65536)
  if ks.isEmpty then s
  else (basinTiles b).foldl (fun t i => t.modTile i fun y => { y with mem := { y.mem with
    column := ks.foldl (fun m k => Memory.zero m (base + 65536 * k) 65536) y.mem.column,
    parity := y.mem.parity.filter fun e => !(e.space == .column && in_ (4 * e.word)) } }) s

/-- Once the new edition's cut is active, the edition that it replaces leaves HOT as EVICT would leave it, and its freed chunks are
zero (R301). -/
def retireReplaced (s : State) (b : Nat) : State :=
  let x := s.basin b
  match x.running, x.activeShare with
  | some c, some h =>
    match (x.ctx c).res.find? fun r => r.replace && r.state == .hot && r.model == h.model && r.edition == h.edition with
    | none => s
    | some n =>
      let old := (x.ctx c).res.filter fun r => r.model == h.model && r.edition != h.edition && r.state == .hot
      let freed := (old.flatMap fun r => (List.range r.chunks).map (r.off + ·)).filter fun k => !(decide (n.off ≤ k) && decide (k < n.off + n.chunks))
      let leave := fun (r : ResEntry) =>
        if r.model == h.model && r.edition == h.edition then { r with replace := false, armed := false }
        else if r.model == h.model && r.state == .hot then
          { r with state := if r.warm then .warm else .cold, chunks := 0, pages := if r.warm then r.pages else [] }
        else r
      let gone := (old.filter fun r => !r.warm).flatMap (·.pages)
      (s.zeroChunks b c freed).modBasin b fun y => ((y.zeroPages s.basinLines gone).givePages c gone).modCtx c fun z =>
        { z with res := (z.res.map leave).filter fun r => r.state != .cold }
  | _, _ => s

/-- The replacements that basin `b` loaded in the lockage stand once it has resumed: their MAKE_HOTs answer OK (R301, R623). -/
def answerReplaces (s : State) (b : Nat) : State :=
  (s.basin b).ctxs.foldl (fun t c => (c.2.res.filter fun r => r.replace && r.armed && r.state == .hot).foldl (fun u r =>
    (u.modBasin b fun x => x.modCtx c.1 fun z => z.modRes r.model r.edition fun q => { q with armed := false }).basinDoneAll
      (fun k => k.loads c.1 r.model r.edition) b .ok) t) s

/-- The answers of SELECT_CUTs once basin `b` has resumed: OK in a basin that switched to the command's own byte, else
ABORTED (R445). -/
def answerSelects (s : State) (b : Nat) : State :=
  let id := (s.basin b).sliceId.toNat
  let act := (s.basin b).activeSlot
  (s.selects.filter fun x => x.slice == id && x.armed).foldl (fun t x =>
    let v := ((x.bytes[b]?).getD 0xFF#8).toNat
    if v = 0xFF then t.basinDone x.session x.seq b .ok
    else t.basinDone x.session x.seq b (if act = some v then .ok else .aborted)) s

end State

/-- RESUME_TICK: at T_R the basin applies its armed items, runs its slot under the slice's epoch, and its pounds start steps
again (R8, R126, R136, R178). A slice that was held resumes, and its contexts are told (R30). A basin that waited in READY serves
once it runs a cut (log entry 43). -/
def resumeTick (b : Nat) (s0 : State) : State :=
  let s := slotSwitch b s0
  let x := s.basin b
  match x.part.tResume with
  | none => s0
  | some t =>
    if s.now < t ∨ !(x.cut.lockState = .drained ∨ x.cut.lockState = .switching) then s0
    else
      let s1 := s.applyArmed b
      let change := x.part.slots.any (·.isSome)
      let s2 := s1.modBasin b fun y =>
        let slot := if y.part.switched then s.nextSlot b else y.activeSlot
        let epoch := if change then y.cut.epoch + 1 else y.cut.epoch
        let y1 := match slot with
          | some k => y.modSlot k fun z => { z with tag := epoch }
          | none => y
        let id := match slot with | some k => (y.slot k).cutId | none => 0#32
        let cut := { y.cut with
          hasSlot := slot.isSome, lockState := if slot.isSome then .running else .idle, epoch := epoch,
          activeSlot := match slot with | some k => BitVec.ofNat 2 k | none => y.cut.activeSlot, cutId := id }
        { y1 with cut := cut, part := LockPart.fresh,
                  pounds := y1.pounds.map fun p => (p.1, { p.2 with held := false, stopped := false, fault := none }) }
      let s3 := (s2.modBasin b fun y => match y.running, y.activeShare with
        | some c, some h => y.modCtx c fun z => { z with routes := h.routes }
        | _, _ => y).answerReplaces b |>.retireReplaced b
      let s4 := (basinTiles b).foldl (fun u i => if (u.tile i).core.stopped then
        u.modTile i fun y => { y with core := { y.core with stopped := false, inPhrase := false } } else u) s3
      let s4b := s4.modBasin b fun y => { y with st := { y.st with held := false, torn := none } }
      let s5 := if x.st.held then s4b.noticeBasin b 2 .ok else s4b
      let s6 := s5.answerSelects b
      let id := x.sliceId.toNat
      let rest := (s6.localMembers id).any fun i => (s6.basin i).part.tLock.isSome || (s6.basin i).part.tResume.isSome
      let s6b := if x.st.state = .ready ∧ (s6.basin b).cut.hasSlot then s6.setBState b .serving else s6
      let s7 := if rest then s6b else { s6b with selects := s6b.selects.filter fun q => !(q.slice == id && q.armed) }
      s7.modKeeper b fun k => { k with active := false, tResume := none }

/-- RESUME_TICK. -/
def execResumeTick (b : BasinId) (s : State) : Host.Outcome State Fault Refusal := .next (resumeTick b s)

/-- WAY_MOVE_COMPLETE: the ways that left a context are written back and zeroed, and their new owner may allocate (R233). -/
def execWayMoveComplete (b : BasinId) (s : State) : Host.Outcome State Fault Refusal :=
  .next (s.modBasin b fun x => { x with dram := { x.dram with moving := 0 } })

end Sys2Proof.Machine
end

