-- ==== Sys2Proof/Machine/Models.lean ====
section
/-! DEFINITION. Objects of the model store and what their damage does (R269, R278-R282, Table 7.12, R254): shard headers,
payloads, WARM copies, NOT_READY. -/

namespace Sys2Proof.Machine

/-! ### Shard images (Table 7.8) -/

/-- A field of a shard image, little-endian. -/
def shardField (img : List Byte) (off n : Nat) : Nat := leNat ((img.drop off).take n)

/-- Kind of a shard: 0 WEIGHT, 1 CUT, 2 AUX. -/
def shardKind (img : List Byte) : Nat := shardField img 0x0A 1
/-- Lane of a shard (R280). -/
def shardLane (img : List Byte) : Nat := shardField img 0x14 1
/-- Logical position of a WEIGHT shard. -/
def shardPos (img : List Byte) : Nat := shardField img 0x15 1
/-- 64 KiB chunks of the payload. -/
def shardChunks (img : List Byte) : Nat := shardField img 0x16 2
/-- cut_id of a CUT shard. -/
def shardCut (img : List Byte) : Nat := shardField img 0x18 4
/-- Bytes of header and chunk-digest list before the payload (R279). -/
def shardHead (img : List Byte) : Nat := 128 + (if shardField img 0x0B 1 = 1 then 32 * shardChunks img else 0)
/-- The payload before its padding. -/
def shardPayload (img : List Byte) : List Byte := (img.drop (shardHead img)).take (shardField img 0x1C 4)
/-- The payload padded to whole chunks. -/
def shardPadded (img : List Byte) : List Byte :=
  let p := (img.drop (shardHead img)).take (shardChunks img * 65536)
  p ++ List.replicate (shardChunks img * 65536 - p.length) 0#8

/-- The chunk digest of every chunk matches, and so does the shard digest (R281). -/
def shardDigestsOk (img : List Byte) : Bool :=
  let n := shardChunks img
  let list := (img.drop 128).take (32 * n)
  let body := shardPadded img
  ((List.range n).all fun j => sha256 ((body.drop (65536 * j)).take 65536) == (list.drop (32 * j)).take 32) &&
    sha256 (img.take 0x20 ++ list) == (img.drop 0x20).take 32

/-! ### Tile map and slot images of an image share (Table 3.1) -/

/-- `n` bytes at an offset, as a number. -/
def field (l : List Byte) (off n : Nat) : Nat := leNat ((l.drop off).take n)

/-- Tile-map entry of logical position `p` of the basin (R96). -/
def mapEntry (l : List Byte) (p : Nat) : Nat := field l (0xE00 + 4 * p) 4

/-- Slot-image index of a logical position that stands in a pound (R96). -/
def imageOf (l : List Byte) (p : Nat) : Option Nat :=
  if (mapEntry l p).testBit 23 then none else some (mapEntry l p % 65536)

/-- A slot image (Table 3.1). -/
def slotImage (l : List Byte) (i : Nat) : List Byte := (l.drop (0x1000 + 32768 * i)).take 32768

namespace State

/-- The object of a model and edition (R278). -/
def object (s : State) (m e : Nat) : Option StoreObj := s.store.objects.find? fun o => o.model == m && o.edition == e

/-- An object changed by `f`. -/
def modObject (s : State) (m e : Nat) (f : StoreObj → StoreObj) : State :=
  { s with store := { s.store with objects := s.store.objects.map fun o => if o.model = m ∧ o.edition = e then f o else o } }

end State

/-- Shard `i` of an object. -/
def StoreObj.shard (o : StoreObj) (i : Nat) : Shard := Tbl.get Shard.fresh i o.shards
/-- Shard `i` changed by `f`. -/
def StoreObj.modShard (o : StoreObj) (i : Nat) (f : Shard → Shard) : StoreObj := { o with shards := Tbl.mod Shard.fresh i f o.shards }
/-- Indices of the shards that are not acknowledged. -/
def StoreObj.missing (o : StoreObj) : List Nat := (List.range o.count).filter fun i => !(o.shard i).acked
/-- Indices of the damaged shards. -/
def StoreObj.damaged (o : StoreObj) : List Nat := (List.range o.count).filter fun i => (o.shard i).damaged
/-- Images of the acknowledged shards. -/
def StoreObj.images (o : StoreObj) : List (List Byte) :=
  ((List.range o.count).filter fun i => (o.shard i).acked).map fun i => (o.shard i).image
/-- Lanes of an object on this device (R280). -/
def StoreObj.lanes (o : StoreObj) : Nat := (o.images.map fun i => shardLane i + 1).foldl max 0
/-- The object is in DIGEST mode. -/
def StoreObj.digestMode (o : StoreObj) : Bool := o.mode == 1

/-- LPDDR5X pages of a lane: of every kind for a WARM copy, of AUX alone for HOT (R285). -/
def StoreObj.lanePages (o : StoreObj) (lane : Nat) (auxOnly : Bool) : Nat :=
  ((o.images.filter fun i => shardLane i == lane && (!auxOnly || shardKind i == 2)).map shardChunks).foldl (· + ·) 0

/-- First byte behind the images that an object's shards have in its extents. -/
def StoreObj.fill (o : StoreObj) : Nat :=
  (((List.range o.count).filter fun i => (o.shard i).acked).map fun i => (o.shard i).off + (o.shard i).image.length).foldl max 0

/-- Where an image of `n` bytes of shard `i` goes in the object's extents (R279): in place of an image that is no shorter, else behind the others. DESIGN
CHOICE: the images stand one behind the other in the order of their acknowledgement (log entry 64). -/
def StoreObj.placeFor (o : StoreObj) (i n : Nat) : Nat :=
  let h := o.shard i
  if h.acked ∧ n ≤ h.image.length then h.off else o.fill

/-- Shards of an object whose images meet `n` bytes of its extents from `a` upward. -/
def StoreObj.shardsIn (o : StoreObj) (a n : Nat) : List Nat :=
  (List.range o.count).filter fun i => (o.shard i).acked && decide ((o.shard i).off < a + n) && decide (a < (o.shard i).off + (o.shard i).image.length)

namespace State

/-- Shard `i` of an object is read from flash (R272). -/
def readShard (s : State) (o : StoreObj) (i : Nat) : State :=
  let h := o.shard i
  let first := h.off / 65536
  (List.range ((h.off + h.image.length + 65535) / 65536 - first)).foldl (fun t k =>
    match o.extents[(first + k) / 256]? with
    | some x => t.readFlashChunk x ((first + k) % 256)
    | none => t) s

/-- Residency of an object in context `c` of basin `b` (R283): NOT_READY while it is not committed or damaged, and COLD where
the context holds nothing of it. -/
def residency (s : State) (b c m e : Nat) : Residency :=
  match ((s.basin b).ctx c).res.find? fun r => r.model == m && r.edition == e with
  | some r => r.state
  | none => match s.object m e with
    | some o => if !o.committed || o.damagedCommit then .notReady else .cold
    | none => .notReady

/-- Contexts with a residency entry of an object, as (basin, context, entry). -/
def residents (s : State) (m e : Nat) : List (Nat × Nat × ResEntry) :=
  (List.range 8).flatMap fun b => (s.basin b).ctxs.flatMap fun c =>
    (c.2.res.filter fun r => r.model == m && r.edition == e).map fun r => (b, c.1, r)

/-- A complete WARM copy of the edition stands on the device, other than the one of context `c` of basin `b` (R269). -/
def warmElsewhere (s : State) (m e : Nat) (but : Option (Nat × Nat)) : Bool :=
  (s.residents m e).any fun x => x.2.2.warm && x.2.2.state != .loading && but != some (x.1, x.2.1)

/-- The object that runs in context `c` of basin `b`: that of the active cut, else the first HOT one. -/
def hotObject (s : State) (b c : Nat) : Option (Nat × Nat) :=
  let x := s.basin b
  let hot := ((x.ctx c).res.find? fun r => r.state == .hot).map fun r => (r.model, r.edition)
  if x.running = some c then (x.activeShare.map fun h => (h.model, h.edition)).orElse fun _ => hot else hot

/-- Requests that end when their model becomes NOT_READY under Table 6.10: at once, or with the step that carries them (R254). -/
def failModelRequests (s : State) (m e : Nat) : State :=
  let mine := s.man.entries.filter fun x =>
    (x.2.st == .prefill || x.2.st == .decode || (x.2.st == .paused && x.2.pause == .rebuild)) &&
      (s.servingBasins x.2).any fun b => s.hotObject b x.2.ctx == some (m, e)
  mine.foldl (fun t x =>
    if x.2.inStep then t.modEntry x.1 fun y => { y with failWith := some .parityUnrecovered }
    else t.endRequest x.1 true .parityUnrecovered) s

/-- An object becomes NOT_READY in every context (Table 7.12): loads of it end with the status, and each context that has it is
told; `ladder` says that a ladder of Table 6.10 ran out, which ends the requests of the model. -/
def notReadyObject (s : State) (m e : Nat) (st : Status) (event : Nat) (idx : List Nat) (ladder : Bool) : State :=
  let s0 := if ladder then s.failModelRequests m e else s
  let s1 := s0.modObject m e fun o => idx.foldl (fun u i => u.modShard i fun h => { h with damaged := true })
    { o with damagedCommit := o.committed }
  (s1.residents m e).foldl (fun t x =>
    let t1 := if x.2.2.state = .loading then t.loadFail x.1 x.2.1 m e st true
      else t.modBasin x.1 fun y => y.modCtx x.2.1 fun z => z.modRes m e fun r => { r with state := .notReady }
    t1.noticeModel x.1 x.2.1 st m e event Residency.notReady.code (2 ^ x.1) idx) s1

/-- A shard of an object is damaged: a complete WARM copy repairs it, else the object is NOT_READY (R269, Table 7.12). -/
def damageShard (s : State) (m e i : Nat) (st : Status) (event : Nat) (but : Option (Nat × Nat)) (ladder : Bool) : State :=
  if s.warmElsewhere m e but then s else s.notReadyObject m e st event [i] ladder

/-- The WEIGHT shard of an object for a lane and a logical position. -/
def weightShard (s : State) (m e lane pos : Nat) : Option (Nat × List Byte) :=
  (s.object m e).bind fun o => ((List.range o.count).filter fun i => (o.shard i).acked).findSome? fun i =>
    let img := (o.shard i).image
    if shardKind img = 0 ∧ shardLane img = lane ∧ shardPos img = pos then some (i, img) else none

/-- Lane of an object that context `c` of basin `b` holds. -/
def laneOfRes (s : State) (b c m e : Nat) : Nat :=
  ((s.resOf b c m e).map (·.lane)).getD 0

/-- Shards of an object's lane, as (index, image), in index order. -/
def laneShards (s : State) (m e lane : Nat) : List (Nat × List Byte) :=
  match s.object m e with
  | some o => ((List.range o.count).filter fun i => (o.shard i).acked && shardLane (o.shard i).image == lane).map fun i => (i, (o.shard i).image)
  | none => []

/-- The CUT shards of a lane, in index order. -/
def laneCuts (s : State) (m e lane : Nat) : List (List Byte) := ((s.laneShards m e lane).map (·.2)).filter fun i => shardKind i == 1

/-- Bytes of a run from `a` upward that lie in a 64 KiB chunk, with the first one's place. -/
def clip (chunk a : Nat) (bs : List Byte) : Nat × List Byte :=
  let lo := max a (65536 * chunk)
  (lo, (bs.drop (lo - a)).take (65536 * chunk + 65536 - lo))

/-- Chunks of 64 KiB of a lane's shards in index order, those of AUX alone where `auxOnly` (R285). -/
def laneChunkList (s : State) (m e lane : Nat) (auxOnly : Bool) : List (List Byte) :=
  ((s.laneShards m e lane).filter fun i => !auxOnly || shardKind i.2 == 2).flatMap fun i =>
    let bs := shardPadded i.2
    (List.range (bs.length / 65536)).map fun j => (bs.drop (65536 * j)).take 65536

/-- A load's chunks land in its LPDDR5X pages, one to a page, past the line cache (R228, R231, R280). DESIGN CHOICE: in index order (log
entry 31). -/
def layPages (s : State) (b c : Nat) (pages : List Nat) (chunks : List (List Byte)) : State :=
  s.modBasin b fun x => (pages.zip chunks).foldl (fun y e => y.writeBytes s.basinLines c (e.1 * 65536) e.2 [] true) x

/-- Pages of an object are zeroed and return to the quota (R236, R286). -/
def freeRes (s : State) (b c : Nat) (r : ResEntry) : State :=
  s.modBasin b fun x => (x.zeroPages s.basinLines r.pages).givePages c r.pages

/-- The tile at logical position `p` (0 to 127) of basin `b`. -/
def tileOfPos (s : State) (b p : Nat) : Nat := s.tileAt (4 * b + p / 32) (p % 32)

/-- Bytes written into a tile's column with good parity. -/
def writeColumn (s : State) (t a : Nat) (bs : List Byte) : State :=
  s.modTile t fun x => { x with mem := { x.mem with
    column := Memory.write x.mem.column a bs,
    parity := x.mem.parity.filter fun e => !(e.space == .column && decide (a ≤ 4 * e.word) && decide (4 * e.word < a + bs.length)) } }

/-- A lane becomes HOT in context `c` of basin `b`: every WEIGHT payload in the static region of its position, every slot image in
its position's cut store (R90, R93, R280). -/
def placeLane (s : State) (b c m e lane : Nat) : State :=
  let base := s.staticBase b c m e
  let share := (s.shareRange b c).1
  let weights := ((s.laneShards m e lane).filter fun i => shardKind i.2 == 0).map (·.2)
  let s1 := weights.foldl (fun t i => t.writeColumn (t.tileOfPos b (shardPos i % 128)) base (shardPadded i)) s
  let cuts := s.laneCuts m e lane
  let first := ((s.resOf b c m e).map (·.cutOff)).getD 0
  (List.range cuts.length).foldl (fun t k =>
    let l := shardPayload ((cuts[k]?).getD [])
    (List.range 128).foldl (fun u p => match imageOf l p with
      | some i => u.writeColumn (u.tileOfPos b p) (share + 32768 * (first + k)) (slotImage l i)
      | none => u) t) s1

/-- What the model store's copies give for chunk `chunk` of tile `t`'s column in the share of context `c` of basin `b`: the weights of every HOT object in
its static region (R280, R299) and the slot images of its cuts in the cut store (R90, Table 6.10). -/
def storedParts (s : State) (b c t chunk : Nat) : List (Nat × List Byte) :=
  match s.position t with
  | none => []
  | some p =>
    let pos := (p.1 - 4 * b) * 32 + p.2
    let share := (s.shareRange b c).1
    let parts := (((s.basin b).ctx c).res.filter fun r => r.state == .hot).flatMap fun r =>
      let w := match s.weightShard r.model r.edition r.lane pos with
        | some w => [(s.staticBase b c r.model r.edition, shardPadded w.2)]
        | none => []
      let cuts := s.laneCuts r.model r.edition r.lane
      w ++ (List.range cuts.length).filterMap fun k =>
        let l := shardPayload ((cuts[k]?).getD [])
        (imageOf l pos).map fun i => (share + 32768 * (r.cutOff + k), slotImage l i)
    (parts.map fun e => clip chunk e.1 e.2).filter fun e => !e.2.isEmpty

/-- The shard whose weights stand at a chunk of tile `t`'s static region. -/
def chunkShard (s : State) (b c t : Nat) : Option Nat :=
  match s.hotObject b c, s.position t with
  | some (m, e), some p => (s.weightShard m e (s.laneOfRes b c m e) ((p.1 - 4 * b) * 32 + p.2)).map (·.1)
  | _, _ => none

end State

end Sys2Proof.Machine
end

