-- ==== Sys2Proof/Machine/Fence.lean ====
section
/-! DEFINITION. Fences (R516-R523, R623): closing a basin, GEN 0 at the other basins of the slice, the drain and its answers,
overdue steps, lockages that do not drain, and the teardown of a faulting context (R477-R479). -/

namespace Sys2Proof.Machine

/-! ### Basin states -/

namespace State

/-- A basin that a fence may close: not yet FENCED, RESETTING or RETIRED. -/
def fenceable (s : State) (b : Nat) : Bool :=
  let st := (s.basin b).st.state
  !(st == .fenced || st == .resetting || st == .retired)

/-! ### A lockage that a fence cuts off (R623) -/

/-- A lockage of slice `id` is under way before its resume tick. -/
def lockageOn (s : State) (id : Nat) : Bool :=
  (s.localMembers id).any fun b => (s.basin b).part.tLock.isSome || (s.basin b).keeper.active

/-- A SELECT_CUT ends with ABORTED and switches no basin. -/
def abortSelect (s : State) (x : Select) : State :=
  (List.range 8).foldl (fun t b => t.basinDone x.session x.seq b .aborted) s

/-- The old editions of a model that stand HOT in context `c` of basin `b` have their chunks and cut images in place again (R301, R623). -/
def keepOld (s : State) (b c m : Nat) : State :=
  (((s.basin b).ctx c).res.filter fun r => r.model == m && r.state == .hot && !r.replace).foldl (fun t r => t.placeLane b c r.model r.edition r.lane) s

/-- The armed replacements of a basin end with ABORTED, loaded or not, in the state before the load; the old edition stays HOT (R623). -/
def abortReplaces (s : State) (b : Nat) : State :=
  (s.basin b).ctxs.foldl (fun t c => (c.2.res.filter fun r => r.replace && r.armed).foldl (fun u r =>
    if r.state = .loading then u.loadFail b c.1 r.model r.edition .aborted false
    else
      let u1 := u.modBasin b fun x => x.modCtx c.1 fun z => z.modRes r.model r.edition fun q => { q with state := .loading }
      ((u1.zeroChunks b c.1 ((List.range r.chunks).map (r.off + ·))).loadFail b c.1 r.model r.edition .aborted false).keepOld b c.1 r.model) t) s

/-- A basin leaves the lockage: staged words and the image start stay pending, and the sources wait for the next one. -/
def leaveLockage (s : State) (b : Nat) : State :=
  s.modBasin b fun x =>
    { x with
      staged := x.armed ++ x.staged, armed := [], imageDue := if x.imageArmed then some 0 else x.imageDue, imageArmed := false,
      part := LockPart.fresh, keeper := { Keeper.fresh with unsync := x.keeper.unsync },
      cut := { x.cut with lockState := if x.cut.hasSlot then .running else .idle } }

/-- A basin stays in the phase that the lockage has reached, which the next keeper restarts: its T_L and its report stand, no slot changes, and no RESUME
holds (R135, R623). -/
def keepPhase (s : State) (b : Nat) : State :=
  s.modBasin b fun x =>
    { x with
      part := { LockPart.fresh with tLock := x.part.tLock, reported := x.part.reported }, keeper := { Keeper.fresh with unsync := x.keeper.unsync },
      cut := { x.cut with lockState := if x.cut.lockState = .switching then .drained else x.cut.lockState } }

/-- What a fence of a member does to the lockage under way (R623): where the keeper was fenced the lockage keeps its phase for the next one (R135). -/
def abortLockage (s : State) (id : Nat) (keep : Bool) : State :=
  if !s.lockageOn id then s
  else
    let out := s.selects.filter fun x => x.slice == id && x.armed
    let s1 := { s with selects := s.selects.filter fun x => !(x.slice == id && x.armed) }
    let s2 := out.foldl abortSelect s1
    (s2.localMembers id).foldl (fun t b => let u := t.abortReplaces b; if keep then u.keepPhase b else u.leaveLockage b) s2

/-! ### The fence itself (R520) -/

/-- A basin is fenced for a cause: FENCED, GEN 0 to its slice, the notice, and the drain begins (R520). A basin that is
closed already takes no second fence (Table 15.9); a thermal fence during an automatic reset waits for step 5 of R524. -/
def fence (s : State) (b : Nat) (cause : Cause) (retire : Bool) : State :=
  let x := s.basin b
  if !s.fenceable b then
    if cause = .thermal ∧ x.st.resetDue ∧ x.st.state ≠ .retired then
      s.modBasin b fun y => { y with st := { y.st with thermalDue := true } }
    else if retire then s.modBasin b fun y => { y with st := { y.st with retireDue := true, cause := cause } }
    else s
  else
    let mid := s.lockageOn x.sliceId.toNat
    let s1 := s.abortLockage x.sliceId.toNat x.keeper.active
    let auto := !(cause == .operator || cause == .thermal)
    let s2 := s1.modBasin b fun y => { y with st := { y.st with
      cause := cause, fenceAt := s.now, draining := true, resetDue := auto, released := false, thermalDue := false,
      dumped := false, retireDue := retire, midLockage := mid } }
    let s3 := match s2.ordinal b with
      | some o => s2.sendSlice b (.gen o 0)
      | none => s2
    s3.setBState b .fenced

end State

/-! ### GEN (R504, R505, R521) -/

namespace State

/-- A tile of a basin of a fenced slice ends its phrase and empties its queue storage and egress buffer; what crosses it goes too (R30, R521). -/
def haltTile (s : State) (t : Nat) : State :=
  s.modTile t fun y => { y with
    core := { y.core with inPhrase := false }
    net := { y.net with inq := [], route := none, egress := [], transit := [], queue := [], last := [], replayFrom := [] } }

/-- A pound of a basin of a fenced slice voids its step and what waits for it, empties its queues and egress buffers, and holds
(R30, R521). -/
def haltPound (s : State) (b p : Nat) : State :=
  let s1 := if ((s.basin b).pound p).running then s.voidStep b p true true else s
  let q := (s1.basin b).pound p
  let s2 := (s1.poundTiles b p).foldl haltTile s1
  let s3 := (usedQueues q.pdef.inQ).foldl (fun t k => t.modQueueOf b k fun y => { y with popped := 0, owed := 0, pushed := 0, marks := [] }) s2
  let full := (usedQueues q.pdef.outQ).map fun k => (k, (s3.queueOf b k).depth)
  s3.modPound b p fun y => { y with
    held := true, nextFormed := none, voids := (y.voids ++ y.sealed).eraseDups,
    credits := full.foldl (fun u k => Tbl.set 0 k.1 k.2 u) y.credits }

/-- The steps of a slice that no sink has handed to firmware are void by the fence; formed steps return to the manifest. -/
def voidSlice (s : State) (b : Nat) : State :=
  let bs := s.sliceBasins b
  { s with man := { s.man with flights := (s.man.flights.filter fun f => f.started || !bs.contains f.home).map fun f =>
    if f.started && bs.contains f.home then { f with voided := true, byFence := true, sealed := false } else f } }

/-- The slice's flits in the outbound fabric channels of basin `b` are discarded: those of its running context that no link has sent (R521). -/
def dropOutbound (s : State) (b : Nat) : State :=
  match (s.basin b).running with
  | none => s
  | some c => { s with fab := { s.fab with links := s.fab.links.map fun l => (l.1, { l.2 with waiting := Tbl.set 0 (4 * b + c) 0 l.2.waiting }) } }

/-- Barges of member `o` that came to basin `b` in part are cut off by its fence: the bytes of the grants that landed are undefined (R314). -/
def cutLandings (s : State) (b o : Nat) : State :=
  ((s.basin b).eng.landings.filter fun e => decide (e.1 / 1024 = o) && !e.2.dead && decide (e.2.landed.length < e.2.grants)).foldl
    (fun (t : State) (e : Nat × Landing) =>
      let h := e.2.hdr
      let t1 := e.2.landed.foldl (fun (u : State) g =>
        let n := min 2048 (hdrBytes h - 2048 * g)
        let bs := (List.range n).map fun i => BitVec.ofNat 8 (Config.freeNat (u.freeCtr + i))
        { u.landBytes b h.ctx.val h.dst (2048 * g) bs [] false with freeCtr := u.freeCtr + n }) t
      t1.modBasin b fun x => { x with eng := { x.eng with landings := Tbl.set Landing.fresh e.1 { e.2 with dead := true } x.eng.landings } }) s

/-- What basin `b` does when a member of its slice is fenced (R521): its pounds halt, and its tiles, those of pounds of another home among them; what
stands in its outbound channels goes, its barges to the fenced basin end ABORTED, the slice is held and its contexts are told. -/
def haltSlice (s : State) (b o : Nat) : State :=
  let s0 := (s.basin b).pounds.foldl (fun t p => t.haltPound b p.1) (s.voidSlice b)
  let s1 := ((basinTiles b).foldl haltTile s0).dropOutbound b
  let s2 := ((s1.basin b).eng.slots.foldl (fun t e =>
    if locOrdinal e.2.hdr.dst = o ∧ (s.basin b).sliceId ≠ 0 then t.endBarge b e.1 (e.2.status.getD .aborted) else t) s1).cutLandings b o
  (s2.modBasin b fun x => { x with st := { x.st with held := true } }).noticeBasin b 1 .ok

end State

/-- The next keeper restarts the lockage from its current phase: LOCK goes out again with its T_L, and every basin reports to the new keeper (R135). -/
def keeperRestart (b tL : Nat) (s : State) : State :=
  let ms := s.membersOf (s.basin b).sliceId.toNat
  let slots := ms.map fun _ => none
  let s1 := s.modKeeper b fun q => { q with
    active := true, remote := [], tLock := tL, tResume := none, slots := slots, lockAcks := [], drained := [], resumeAcks := [], resendAt := [] }
  let o := (s.ordinal b).getD 0
  (List.range ms.length).foldl (fun t i => (t.send b (.member (s.basin b).sliceId.toNat i) (.lock s.now tL slots o)).lockTrace b 0x10 i) s1

/-- GEN for ordinal `o` reaches basin `b`: the generation table takes it; generation 0 is a fence of that member, for which the keeper runs a lockage (R504,
R521, R623), or the next keeper goes on with the one under way where the keeper was fenced (R135). The first basin of this device that hears of a fence on
another settles the lockage's items. -/
def genMsg (b o : Nat) (g : BitVec 16) (s : State) : State :=
  let id := (s.basin b).sliceId.toNat
  let s1 := s.modBasin b fun x => { x with genTable := Tbl.set 0#16 o g x.genTable }
  let st := (s.basin b).st.state
  if g ≠ 0 ∨ !(st = .serving ∨ st = .ready ∨ st = .init) then s1
  else
    let told := (s.localMembers id).any fun x => x != b && Tbl.get 0#16 o (s.basin x).genTable == 0#16 && Tbl.get 0#16 o (s.basin b).genTable != 0#16
    let s2 := (if s.ordinalHere id o || told then s1 else s1.abortLockage id (s.keeperOrdinal b == some o)).haltSlice b o
    match (s2.basin b).part.tLock with
    | some t => if s2.isKeeper b && !(s2.basin b).keeper.active then keeperRestart b t s2 else lockageStart b [] s2
    | none => lockageStart b [] s2

/-- GEN. -/
def execGen (b : BasinId) (ordinal : BitVec 10) (generation : BitVec 16) (s : State) : Host.Outcome State Fault Refusal :=
  .next (genMsg b ordinal.toNat generation s)

/-! ### Overdue steps and lockages (R176, R518, R584) -/

/-- The drain ticks of the active share of basin `b`, from its plan block. -/
def State.drainTicks (s : State) (b : Nat) : Nat := (((s.basin b).activeShare).map (·.drainTicks)).getD 0

/-- STEP_OVERDUE: a started step neither sealed nor voided by its limit fences the home basin (R518); the limit grows by
256 / n for a step that started at duty n below 256 (R584), and low input pauses it (Table 17.10). -/
def stepOverdue (b p : Nat) (s : State) : State :=
  let q := (s.basin b).pound p
  let limit := max (4 * s.drainTicks b) 1000000 * 256
  let duty := max 1 (min 256 q.startDuty)
  if q.running && !s.power.inputLow && decide (q.startTick * duty + limit ≤ s.now * duty) then s.fence b .stepTimeout false else s

/-- STEP_OVERDUE. -/
def execStepOverdue (b : BasinId) (p : PoundId) (s : State) : Host.Outcome State Fault Refusal := .next (stepOverdue b p s)

/-- LOCK_DRAIN_TIMEOUT: a basin not drained at T_L + max(4 x drain_ticks, 1,000,000) fences itself (R176, R177). -/
def lockDrainTimeout (b : Nat) (s : State) : State :=
  let x := s.basin b
  match x.part.tLock with
  | some t =>
    if x.cut.lockState = .locking ∧ t + max (4 * s.drainTicks b) 1000000 ≤ s.now then
      (s.modBasin b fun y => { y with cut := { y.cut with selfFence := satAdd y.cut.selfFence 1 } }).fence b .lockDrain false
    else s
  | none => s

/-- LOCK_DRAIN_TIMEOUT. -/
def execLockDrainTimeout (b : BasinId) (s : State) : Host.Outcome State Fault Refusal := .next (lockDrainTimeout b s)

/-! ### The end of the drain (R522, R527) -/

namespace State

/-- A context's definition taken back: CREATE_CONTEXT is created in no basin (Table 15.3). -/
def uncreate (s : State) (b c : Nat) : State :=
  s.modBasin b fun x0 =>
    let x := x0.dropPages (x0.ctx c).allPages
    { x with
      ctxs := Tbl.set Ctx.fresh c Ctx.fresh x.ctxs, sram := Tbl.set SramCtx.fresh c SramCtx.fresh x.sram,
      brg := Tbl.set BrgCtx.fresh c BrgCtx.fresh x.brg, man := Tbl.set ManCtx.fresh c ManCtx.fresh x.man,
      slots := x.slots.filter fun k => !(k.2.assigned && k.2.ctx.toNat == c),
      staged := x.staged.filter fun w => w.off != 0x210 + 4 * c, armed := x.armed.filter fun w => w.off != 0x210 + 4 * c }

/-- The slot that a LOAD_CUT was filling in basin `b` is invalid (Table 15.3). -/
def dropFill (s : State) (b k : Nat) : State :=
  s.modBasin b fun x => x.modSlot k fun z => if z.filling then { z with valid := false, filling := false } else z

/-- The part of a command in basin `b` is cut off by a fence: what it leaves behind, and whether the basin counts as complete
(Table 15.3). `reset` says that a reset follows. -/
def cutOff (s : State) (r : RunCmd) (b : Nat) (st : Status) (reset : Bool) : State :=
  let n := r.hdr.session.toNat
  let q := r.hdr.seq.toNat
  let c := r.hdr.context.toNat
  match r.cmd with
  | .makeWarm m e | .makeHot m e _ => s.loadFail b c m.toNat e.toNat st false
  | .loadCut _ _ slot _ => (s.dropFill b slot.toNat).basinEnd n q b st false
  | .createContext _ => ((maskBasins r.mask).foldl (fun t i => t.uncreate i c) s).finishCmd n q st 0 0 (finalBody s r)
  | .evict m e =>
    let s1 : State := match s.resOf b c m.toNat e.toNat with
      | some r => if reset ∧ r.state = Residency.warm then (s.freeRes b c r).modBasin b fun x => x.modCtx c fun z =>
          { z with res := z.res.filter fun k => !(k.model == m.toNat && k.edition == e.toNat) } else s
      | none => s
    s1.basinEnd n q b st reset
  | .destroyContext => s.basinEnd n q b st reset
  | .selectCut _ =>
    match s.selects.find? fun x => x.session == n && x.seq == q with
    | some x => { s with selects := s.selects.filter fun y => !(y == x) }.abortSelect x
    | none => s.basinEnd n q b st false
  | .fwActivate _ => (s.modBasin b fun x => { x with imageDue := none, imageArmed := false }).basinEnd n q b st false
  | _ => s.basinEnd n q b st false

/-- Commands that a drain settles: those addressed to the basin whose work there is not done, but for requests (R429), for
the recovery commands, and, after a fence in a lockage, for those that wait only for the restoring one (R623). -/
def settles (x : Status15) (r : RunCmd) : Bool :=
  match r.cmd with
  | .fence | .resetBasin | .readmit _ => false
  | .createContext _ | .destroyContext | .fwActivate _ => !x.midLockage
  | _ => true

/-- The outstanding commands of basin `b` at the end of its drain: TIMED_OUT for one whose time has run out, else ABORTED
(R522, Table 15.9). -/
def settleCommands (s : State) (b : Nat) : State :=
  let x := (s.basin b).st
  (s.ep.running.filter fun r => r.mask.getLsbD b && !r.doneMask.getLsbD b && (settles x r || decide (r.deadline ≤ s.now))).foldl
    (fun t r => t.cutOff r b (if r.deadline ≤ s.now then .timedOut else .aborted) x.resetDue) s

/-- Every barge that basin `b` has outstanding lands or ends ABORTED, none of its waiting descriptors starts, and the completion words of its tows record
it (R314, R522, Table 8.10). -/
def endBarges (s : State) (b : Nat) : State :=
  let s1 := (s.basin b).eng.slots.foldl (fun t e => t.endBarge b e.1 (e.2.status.getD .aborted)) s
  let s2 := s1.modBasin b fun x => { x with eng := { x.eng with tows := x.eng.tows.map fun e => (e.1, e.2.map fun (t : Tow) =>
    if t.waiting.isEmpty then t else { t with waiting := [], first := t.first.orElse fun _ => some .aborted }) } }
  (s2.basin b).eng.tows.foldl (fun t e => (List.range e.2.length).foldl (fun u _ => towComplete b e.1 u) t) s2

/-- The line cache writes its dirty lines back, and its parity lines leave it, since the data lines written back bring their parity bits (R226,
R522); where it fails to, the pages of the contexts concerned are lost (R525). -/
def writeback (s : State) (b : Nat) (ok : Bool) : State :=
  s.modBasin b fun x =>
    let dirty := ((x.dram.cache.filter fun e => e.2.dirty).map fun e => e.2.ctx).eraseDups
    let y := x.flush s.basinLines fun _ l => l.dirty || decide (s.basinLines ≤ l.line)
    if ok then y else { y with st := { y.st with lost := (y.st.lost ++ dirty).eraseDups } }

end State

/-- FENCE_DRAIN_END: at most 1 ms after the fence its barges have ended, its cache has written back, and its commands are
answered (R522). -/
def fenceDrainEnd (b : Nat) (ok : Bool) (s : State) : State :=
  let x := s.basin b
  if x.st.state ≠ .fenced ∨ !x.st.draining then s
  else
    let s1 := ((s.endBarges b).writeback b ok).settleCommands b
    let s2 := s1.modBasin b fun y => { y with st := { y.st with draining := false } }
    s2.basinDoneAll (fun r => r.cmd == .fence) b .ok

/-- FENCE_DRAIN_END. -/
def execFenceDrainEnd (b : BasinId) (writebackOk : Bool) (s : State) : Host.Outcome State Fault Refusal :=
  .next (fenceDrainEnd b writebackOk s)

/-! ### Teardown of a faulting context (R477-R479) -/

namespace State

/-- Every request with rows in a step of the cut in flight ends in FAILED with the fault's status (R477, step 1). -/
def failFlights (s : State) (b : Nat) (st : Status) : State :=
  let bs := s.sliceBasins b
  let mine := s.man.flights.filter fun f => bs.contains f.home
  let s1 := { s with man := { s.man with flights := s.man.flights.filter fun f => !bs.contains f.home } }
  let ids := ((mine.filter (·.started)).flatMap fun f => if f.kind = 2 then [] else f.rows.map (·.entry)).eraseDups
  ids.foldl (fun t i => t.endRequest i true st) s1

/-- A tile forgets what the cut had in flight: operand buffer, accumulator, claims and staging areas, queue storage, egress buffer, halves, and the
dynamic region of the running context's share (R477, step 2). -/
def clearTile (s : State) (b t : Nat) : State :=
  let dyn := s.dynamicRange b
  (s.haltTile t).modTile t fun x => { x with
    mem := { x.mem with
      opbuf := [], acc := [], column := Memory.zero x.mem.column dyn.1 dyn.2,
      parity := x.mem.parity.filter fun e => !(e.space == .opbuf || e.space == .acc ||
        (e.space == .column && decide (dyn.1 ≤ 4 * e.word) && decide (4 * e.word < dyn.1 + dyn.2))) }
    core := { x.core with
      phrase := none, halves := [], loops := [], ops := [], claims := 0, gathers := 0, drained := 0, iters := 0, loaded := false, due := 0,
      pack := none } }

/-- The sequencers and queues of a basin as at the start of the cut in its slot, held for the lockage that restarts the slice; a pound keeps its fault
until then. -/
def restartPounds (s : State) (b : Nat) : State :=
  match (s.basin b).activeShare, (s.basin b).running with
  | some h, some c =>
    let depth := fun q => (s.queueOf b q).depth
    s.modBasin b fun x =>
      let ps := loadPounds h c depth
      { x with
        pounds := ps.map fun p => (p.1, { p.2 with held := true, fault := (x.pound p.1).fault }), queues := h.queues,
        sluice := { x.sluice with steps := [], colls := [] } }
  | _, _ => s

/-- The outstanding barges of the running context that belong to its steps end ABORTED, and their descriptors go; BACKGROUND ones go on (R477,
step 3). -/
def endStepBarges (s : State) (b c : Nat) : State :=
  let s1 := s.modBasin b fun x => { x with eng := { x.eng with
    tows := Tbl.mod [] c (fun (l : List Tow) => l.map fun w => { w with waiting := w.waiting.filter fun d => d.cls == .background }) x.eng.tows } }
  (s1.basin b).eng.slots.foldl (fun t e =>
    if e.2.hdr.ctx.val = c ∧ e.2.hdr.cls ≠ .background then t.endBarge b e.1 .aborted else t) s1

/-- The fault that ended a step of the slice of basin `b`: that of the first pound that has one, in basin and pound order, or one that a member has
been torn down for (R140, R477). -/
def sliceFault (s : State) (b : Nat) : Option ArrayFault :=
  ((s.sliceBasins b).findSome? fun i => (s.basin i).pounds.findSome? fun p => p.2.fault).orElse fun _ =>
    (s.sliceBasins b).findSome? fun i => (s.basin i).st.torn

end State

/-- CONTEXT_TEARDOWN in basin `b`, once for a fault, in the steps of R477; `remote` is the fault where a basin on another device raised it. The third
within 15 minutes takes the cut's slots away (R479). -/
def contextTeardown (b : Nat) (remote : Option ArrayFault) (s : State) : State :=
  let x := s.basin b
  match x.running, (s.sliceFault b).orElse fun _ => remote with
  | some c, some f =>
    if x.st.torn.isSome || x.st.state != .serving then s
    else
      let st := faultStatus f
      let step := ((x.pounds.find? fun p => p.2.stopped).map fun p => p.2.step % 2 ^ 32).getD 0
      let s1 := (s.noticeFault b c 0 st 0xFFFF 0 step).failFlights b st
      let s2 := (basinTiles b).foldl (fun t i => t.clearTile b i) s1
      let s3 := ((s2.restartPounds b).modBasin b fun y =>
        { y.modCtx c fun z => { z with sems := [] } with st := { y.st with torn := some f } }).endStepBarges b c
      let cut := match x.activeShare with | some h => BitVec.ofNat 32 h.cutId | none => 0#32
      let recent := ((x.ctx c).tears.filter fun t => decide (s.now < t.1 + 90000000000)) ++ [(s.now, cut)]
      let s4 := (s3.modBasin b fun y => y.modCtx c fun z => { z with tears := recent }).noticeFault b c 4 st 0xFFFF 0 0
      if 3 ≤ (recent.filter fun t => t.2 == cut).length then
        (s4.modBasin b fun y => { y with
          slots := y.slots.map fun k => (k.1, if k.2.ctx.toNat = c ∧ k.2.cutId = cut then { k.2 with valid := false } else k.2),
          pounds := [], cut := { y.cut with hasSlot := false, lockState := .idle, cutId := 0 } }).noticeFault b c 4 st 0xFFFF 0 0
      else s4
  | _, _ => s

/-- CONTEXT_TEARDOWN. -/
def execContextTeardown (b : BasinId) (remote : Option ArrayFault) (s : State) : Host.Outcome State Fault Refusal :=
  .next (contextTeardown b remote s)

end Sys2Proof.Machine
end

