-- ==== Sys2Proof/Machine/Gap.lean ====
section
/-! DEFINITION. Row shifting (R119-R125), tile failures and the spare budget (R499-R502), and the self-test of tiles
(R495-R498, R506, R507). -/

namespace Sys2Proof.Machine

/-! ### Row maps -/

/-- Kind of an out-of-service column. -/
def RowMap.kindOf (m : RowMap) (c : Nat) : Option ColKind :=
  if c = m.aCol.toNat then some m.aKind else if c = m.bCol.toNat then some m.bKind else none

/-- Kind of the out-of-service column `c` set. -/
def RowMap.setKind (m : RowMap) (c : Nat) (k : ColKind) : RowMap :=
  if c = m.aCol.toNat then { m with aKind := k } else if c = m.bCol.toNat then { m with bKind := k } else m

/-- The out-of-service column `g` comes into service and `q` takes its place with a kind (R119, R124). -/
def RowMap.replaceCol (m : RowMap) (g q : Nat) (k : ColKind) : RowMap :=
  let other := if g = m.aCol.toNat then (m.bCol.toNat, m.bKind) else (m.aCol.toNat, m.aKind)
  if q < other.1 then { m with aCol := BitVec.ofNat 6 q, aKind := k, bCol := BitVec.ofNat 6 other.1, bKind := other.2 }
  else { m with aCol := BitVec.ofNat 6 other.1, aKind := other.2, bCol := BitVec.ofNat 6 q, bKind := k }

/-- The in-service column nearest to `g` on its west or east side. -/
def RowMap.nearest (m : RowMap) (g : Nat) (west : Bool) : Option Nat :=
  if west then ((List.range g).reverse).find? fun c => !m.out c
  else ((List.range 34).filter (g < ·)).find? fun c => !m.out c

/-- SPARE columns of a row. -/
def RowMap.spares (m : RowMap) : List Nat :=
  (if m.aKind = .spare then [m.aCol.toNat] else []) ++ (if m.bKind = .spare then [m.bCol.toNat] else [])

/-! ### Gap moves (R124) -/

/-- Tile number of physical column `c` in row `j` of basin `b`. -/
def tileNo (b j c : Nat) : Nat := 34 * (4 * b + j) + c

/-- A tile after its re-initialization (Table 14.12): column, operand buffer and accumulator zero, cut slots invalid, the
generation copied; counters and test record stay. -/
def Tile.reinit (x : Tile) (gen : BitVec 16) : Tile :=
  { Tile.fresh with gen := gen, cnt := x.cnt, base := x.base, maint := { x.maint with dirty := [], scrubbing := false } }

/-- The contents of tile `x` arrive at a tile `y` of the row: its column, operand buffer with what its landing halves hold, and schedule registers; what
belongs to the physical tile stays (R124, steps 2 and 5). -/
def Tile.moved (x y : Tile) : Tile :=
  { y with
    mem := { y.mem with
      column := x.mem.column, opbuf := x.mem.opbuf,
      parity := (y.mem.parity.filter fun e => e.space == .acc || e.space == .sched) ++
        x.mem.parity.filter fun e => e.space == .column || e.space == .opbuf }
    core := { y.core with regs := x.core.regs, halves := x.core.halves }
    net := { y.net with queue := x.net.queue } }

namespace State

/-- A row map changed by `f`. -/
def modRowMap (s : State) (b j : Nat) (f : RowMap → RowMap) : State := s.modBasin b fun x => x.modRow j f

/-- The maintenance words of a basin changed by `f`. -/
def modMaint (s : State) (b : Nat) (f : Maint → Maint) : State := s.modBasin b fun x => { x with maint := f x.maint }

/-- A gap move starts: the kind of g becomes FILLING (R124, step 1). -/
def startMove (s : State) (b j g q : Nat) (test : Bool) : State :=
  (s.modRowMap b j fun m => m.setKind g .filling).modMaint b fun m =>
    { m with move := some (j, g, q), moveHeld := false, moveForTest := test }

/-- The gap move under way ends before step 7: its gap is SPARE again (Table 15.9, R499). -/
def cancelMove (s : State) (b : Nat) : State :=
  match (s.basin b).maint.move with
  | some m => (s.modRowMap b m.1 fun r => r.setKind m.2.1 .spare).modMaint b fun x =>
      { x with move := none, moveHeld := false, moveForTest := false, bistState := if x.bistState = 1 then 0 else x.bistState }
  | none => s

/-- The tile at g loads each assigned, valid cut slot from its own cut-store share, and its router the link-slot map of the active one (R124, step
6). -/
def loadSlots (s : State) (b t : Nat) : State :=
  let ks := (List.range 4).filter fun k => ((s.basin b).slot k).assigned && ((s.basin b).slot k).valid
  let s1 := ks.foldl (fun u k => u.reloadSlot t k) s
  match (s.basin b).activeSlot with
  | some k => s1.modTile t fun x => { x with net := { x.net with slots := slotMap x.mem k } }
  | none => s1

/-- Steps 5 to 7 of R124: g takes q's logical position with its contents and loads its slots, and q is out of service with a kind. -/
def shiftTile (s : State) (b j g q : Nat) (k : ColKind) : State :=
  let tg := tileNo b j g
  let tq := tileNo b j q
  let src := s.tile tq
  let gen := (s.basin b).gen
  let s1 := ((s.setTile tg (src.moved (s.tile tg))).loadSlots b tg).setTile tq (src.reinit (if k = .spare then gen else 0))
  s1.modRowMap b j fun m => m.replaceCol g q k

end State

/-- GAP_MOVE: firmware starts one gap move of a SPARE gap west or east (R124). -/
def gapMove (b j : Nat) (gapB west : Bool) (s : State) : State :=
  let m := (s.basin b).row j
  let g := if gapB then m.bCol.toNat else m.aCol.toNat
  let st := (s.basin b).st.state
  if m.kindOf g ≠ some .spare ∨ (s.basin b).maint.move.isSome ∨ !(st = .serving ∨ st = .ready) then s
  else match m.nearest g west with
    | some q => s.startMove b j g q false
    | none => s

/-- GAP_MOVE. -/
def execGapMove (b : BasinId) (row : Fin 4) (gapB west : Bool) (s : State) : Host.Outcome State Fault Refusal :=
  .next (gapMove b row gapB west s)

/-- STATIC_COPY_COMPLETE: the static region and every dirty chunk are copied, and the hold is ordered (R124, steps 2 and 3);
the copy waits while q holds a bad static word (Table 6.11). -/
def staticCopyComplete (b j : Nat) (s : State) : State :=
  match (s.basin b).maint.move with
  | some m =>
    let t := tileNo b j m.2.2
    if m.1 ≠ j ∨ (s.basin b).maint.moveHeld ∨
        ((s.tile t).mem.parity.any fun e => e.space == .column && !e.transient && !s.inDynamic b (4 * e.word) 4) then s
    else (s.modTile t fun x => { x with maint := { x.maint with dirty := [] } }).modMaint b fun x => { x with moveHeld := true }
  | none => s

/-- STATIC_COPY_COMPLETE. -/
def execStaticCopyComplete (b : BasinId) (row : Fin 4) (s : State) : Host.Outcome State Fault Refusal :=
  .next (staticCopyComplete b row s)

/-- A tile under test or FAILED is out of generation: TIL_GEN 0 (R506). -/
def State.isStale (s : State) (t : Nat) : Bool := (s.tile t).gen != (s.basin (tileBasin t)).gen

/-- A queue flit of a tile of row `r` has row `row` on its way (R113). -/
def State.crosses (s : State) (r row : Nat) (f : QFlit) : Bool :=
  (s.flitQueue f).consumer != 0xFF && decide (min r f.flit.dstRow.toNat ≤ row) && decide (row ≤ max r f.flit.dstRow.toNat)

/-- No tile of row `row` holds a queue flit that is to leave, and no tile elsewhere one whose route crosses it (R124, step 4). -/
def State.rowQuiet (s : State) (row : Nat) : Bool :=
  s.tiles.all fun e =>
    let n := e.2.net
    match s.position e.1 with
    | none => true
    | some p => if p.1 = row then n.egress.isEmpty && n.transit.isEmpty
      else (n.egress ++ n.transit).all fun f => !s.crosses p.1 row f

/-- GAP_MOVE_HOLD_REACHED: every held pound has stopped, every egress buffer with a route across the row is empty and the tile at g is not stale; g
takes q's position, q is SPARE or, for a test, TEST, and the hold ends (R124, R495, R506). -/
def gapHoldReached (b j : Nat) (s : State) : State :=
  match (s.basin b).maint.move with
  | none => s
  | some m =>
    let quiet := (s.allPounds.all fun p => !s.moveHolds p.1 p.2 || !((s.basin p.1).pound p.2).running) && s.rowQuiet (4 * b + j)
    if m.1 ≠ j ∨ !(s.basin b).maint.moveHeld ∨ !quiet ∨ s.isStale (tileNo b j m.2.1) then s
    else
      let test := (s.basin b).maint.moveForTest
      (s.shiftTile b j m.2.1 m.2.2 (if test then .test else .spare)).modMaint b fun x =>
        { x with move := none, moveHeld := false, moveForTest := false,
                 bistState := if test then 2 else if x.bistState = 1 then 0 else x.bistState }

/-- GAP_MOVE_HOLD_REACHED. -/
def execGapMoveHoldReached (b : BasinId) (row : Fin 4) (s : State) : Host.Outcome State Fault Refusal :=
  .next (gapHoldReached b row s)

/-! ### Self-test (R495-R498) -/

namespace State

/-- The test under way in basin `b` ends with a result code, and its tile is being re-initialized (R495, R496, Table 14.7). -/
def endTest (s : State) (b code : Nat) : State :=
  let m := (s.basin b).maint
  let s1 := s.modTile (tileNo b m.bistRow.toNat m.bistCol.toNat) fun y =>
    { y with maint := { y.maint with lastTest := code, testTick := s.now, named := false } }
  s1.modMaint b fun x =>
    { x with bistState := 3, reinitAt := s.now, skipped := if code = 2 then satAdd x.skipped 1 else x.skipped }

/-- The tile that basin `b` was re-initializing rejoins: it is SPARE (R495 step 4, R505). -/
def endReinit (s : State) (b : Nat) : State :=
  let m := (s.basin b).maint
  let j := m.bistRow.toNat
  let c := m.bistCol.toNat
  if m.bistState ≠ 3 then s
  else if ((s.basin b).row j).kindOf c = some .test then
    ((s.modTile (tileNo b j c) fun x => x.reinit (s.basin b).gen).modRowMap b j fun r => r.setKind c .spare).modMaint b fun x =>
      { x with bistState := 0 }
  else s.modMaint b fun x => { x with bistState := 0 }

/-- A re-initialization ends 2,458 ticks, 24.58 µs, after its test (R499; log entry 192). -/
def reinitTick (s : State) (b : Nat) : State :=
  if (s.basin b).maint.reinitAt + 2458 ≤ s.now then s.endReinit b else s

/-- A test begins in place: kind TEST and TIL_GEN 0 (R495, R506), or it is skipped outside the limits (R496). -/
def beginTest (s : State) (b j c : Nat) (ok : Bool) : State :=
  let s1 := ((s.modRowMap b j fun m => m.setKind c .test).modTile (tileNo b j c) fun x => { x with gen := 0 }).modMaint b fun m =>
    { m with bistState := 2, bistRow := BitVec.ofNat 2 j, bistCol := BitVec.ofNat 6 c }
  if ok then s1 else s1.endTest b 2

/-- One test that takes tile (j, q) out of service: the gap move that brings the gap `g` there or one position nearer. -/
def moveForTest (s : State) (b j g q : Nat) (last : Bool) : State :=
  (s.startMove b j g q last).modMaint b fun m =>
    { m with bistState := 1, bistRow := BitVec.ofNat 2 j, bistCol := BitVec.ofNat 6 q }

/-- A tile that the ladder has named since its last test, in a row that still has a gap (R497). -/
def namedTile (s : State) (b : Nat) : Option (Nat × Nat) :=
  ((List.range 4).flatMap fun j => (List.range 34).map fun c => (j, c)).find? fun p =>
    let m := (s.basin b).row p.1
    (s.tile (tileNo b p.1 p.2)).maint.named && !m.spares.isEmpty && (m.kindOf p.2 = none || m.kindOf p.2 = some .spare)

/-- The gap of a row that the sweep moves: the one that it tested last, else one of the row's SPARE columns; which one is
open. -/
def sweepGap (s : State) (b j : Nat) : Option Nat × State :=
  let m := (s.basin b).row j
  let k := (s.basin b).maint
  let f := s.free
  if k.bistRow.toNat = j ∧ m.kindOf k.bistCol.toNat = some .spare ∧ 8 < k.nextTest then (some k.bistCol.toNat, s)
  else ((m.spares.drop (f.1 % max 1 m.spares.length)).head?, f.2)

/-- The next test of the pass from its position: first the SPARE columns in place, then one gap across each row in ascending
order; at the end the next pass goes the other way (R497). `fuel` bounds the search. -/
def nextTest : Nat → Nat → Bool → State → State
  | 0, _, _, s => s
  | n + 1, b, ok, s =>
    let k := (s.basin b).maint.nextTest
    let set := fun (t : State) (v : Nat) => t.modMaint b fun m => { m with nextTest := v }
    if k < 8 then
      let m := (s.basin b).row (k / 2)
      let c := if k % 2 = 0 then m.aCol.toNat else m.bCol.toNat
      if m.kindOf c = some .spare then (set s (k + 1)).beginTest b (k / 2) c ok else nextTest n b ok (set s (k + 1))
    else if k < 12 then
      let j := k - 8
      let p := s.sweepGap b j
      match p.1.bind fun g => ((s.basin b).row j).nearest g (s.basin b).maint.passWest |>.map fun q => (g, q) with
      | some (g, q) => p.2.moveForTest b j g q true
      | none => nextTest n b ok (set s (k + 1))
    else s.modMaint b fun m => { m with nextTest := 0, passWest := !m.passWest }

end State

/-- SELF_TEST_START: under BIST_POLICY the controller of an idle basin takes its next tile (R495-R497). -/
def selfTestStart (b : Nat) (ok : Bool) (s : State) : State :=
  let x := s.basin b
  if !s.mgmt.bistOn || x.maint.bistState != 0 || x.maint.move.isSome || !(x.st.state == .serving || x.st.state == .ready) then s
  else
    match if s.mgmt.bistOrder then s.namedTile b else none with
    | some (j, c) =>
      let m := x.row j
      if m.kindOf c = some .spare then s.beginTest b j c ok
      else match m.spares.head? with
        | some g =>
          let west := decide (c < g)
          match m.nearest g west with
          | some q => s.moveForTest b j g q (decide (q = c))
          | none => s
        | none => s
    | none => State.nextTest 13 b ok s

/-- SELF_TEST_START. -/
def execSelfTestStart (b : BasinId) (clockOk railOk : Bool) (s : State) : Host.Outcome State Fault Refusal :=
  .next (selfTestStart b (clockOk && railOk) s)

/-- SELF_TEST_LIMIT_CHECK: a test outside the limits of clock and rail is skipped (R496). -/
def execSelfTestLimitCheck (b : BasinId) (clockOk railOk : Bool) (s : State) : Host.Outcome State Fault Refusal :=
  .next (if (s.basin b).maint.bistState = 2 ∧ !(clockOk && railOk) then s.endTest b 2 else s)

/-! ### Failures (R499-R501) -/

/-- Moves that bring the gap `g` to column `c`, one position each. -/
def shiftTo : Nat → Nat → Nat → Nat → Nat → State → State
  | 0, _, _, _, _, s => s
  | n + 1, b, j, g, c, s =>
    if g = c then s
    else match ((s.basin b).row j).nearest g (decide (c < g)) with
      | some q => shiftTo n b j q c (s.shiftTile b j g q .spare)
      | none => s

/-- A failure of tile `t`, in its pass-through path or not: the tile leaves service by gap moves and is FAILED; the row's count
rises, and its third failure retires the basin under cause SPARES (R499-R501, Table 14.8). -/
def tileFailure (t : Nat) (pass : Bool) (s : State) : State :=
  let b := tileBasin t
  let j := t / 34 % 4
  let c := t % 34
  let m0 := (s.basin b).row j
  if m0.kindOf c = some .failed ∧ !pass then s
  else
    let n := if pass then 3 else m0.failures + 1
    let s1 := s.modRowMap b j fun m => { m with failures := n }
    if 3 ≤ n then
      let s2 := (s1.modBasin b fun x => { x with maint := { x.maint with excluded := x.maint.excluded ||| BitVec.ofNat 4 (2 ^ j) } }).noticeOpen 6 b
      s2.fence b .spares true
    else
      let k := (s1.basin b).maint
      let s2 := if k.bistState = 2 ∧ k.bistRow.toNat = j ∧ k.bistCol.toNat ≠ c then (s1.endTest b 2).endReinit b
        else if k.bistState = 3 ∧ k.bistRow.toNat = j then s1.endReinit b else s1
      let s3 := match k.move with
        | some mv => if mv.1 = j then s2.cancelMove b else s2
        | none => s2
      let m := (s3.basin b).row j
      let s4 := if (m.kindOf c).isSome then s3 else match m.spares.head? with
        | some g => shiftTo 34 b j g c s3
        | none => s3
      let s5 := (s4.modRowMap b j fun r => r.setKind c .failed).modTile t fun x => { x.reinit 0 with maint := { x.maint with named := false } }
      let s6 := s5.noticeOpen 4 (4 * b + j)
      if n = 2 then s6.noticeOpen 5 (4 * b + j) else s6

/-- TILE_FAILURE. -/
def execTileFailure (t : TileId) (passThrough : Bool) (s : State) : Host.Outcome State Fault Refusal :=
  .next (tileFailure t passThrough s)

/-- SELF_TEST_COMPLETE: the tile is re-initialized and SPARE, or it failed and counts as a failure (R495, R499). -/
def selfTestComplete (b : Nat) (pass : Bool) (s : State) : State :=
  let m := (s.basin b).maint
  if m.bistState ≠ 2 then s
  else if pass then s.endTest b 0
  else
    let t := tileNo b m.bistRow.toNat m.bistCol.toNat
    let s1 := (s.modMaint b fun x => { x with bistState := 0, failed := satAdd x.failed 1 }).modTile t fun x =>
      { x with maint := { x.maint with lastTest := 1, testTick := s.now, named := false } }
    tileFailure t false s1

/-- SELF_TEST_COMPLETE. -/
def execSelfTestComplete (b : BasinId) (pass : Bool) (s : State) : Host.Outcome State Fault Refusal :=
  .next (selfTestComplete b pass s)

end Sys2Proof.Machine
end

