-- ==== Sys2Proof/Machine/Ladder.lean ====
section
/-! DEFINITION. The replay ladder's repairs (R234, R248-R254, Table 6.10): LPDDR5X lines, static chunks, and the scrubber
(R220). -/

namespace Sys2Proof.Machine

/-! ### LPDDR5X lines (R228, R234, R235) -/

/-- LPDDR5X channel of line `line` of a page of basin `b` (R228). -/
def lineChan (b line : Nat) : Nat := 4 * b + line / 32 % 4

namespace State

/-- The contents of page `p` and its use move to a free page of the pool (R234): its lines with their parity, the KV lists that name it or stand in it,
and what else its context keeps there. -/
def movePage (s : State) (b p : Nat) : State :=
  let x := s.basin b
  match (x.nextPages 1).head? with
  | none => s
  | some q =>
    if s.poolPages ≤ q then s
    else
      let dl := s.basinLines
      let swap := fun (l : List Nat) => l.map fun i => if i = p then q else i
      s.modBasin b fun x0 =>
        let y := x0.flush dl fun _ l => Basin.ofPages dl [p] l.line
        let par := (List.range 512).foldl (fun t i => Tbl.set zeroParity (512 * q + i) (y.parOf (512 * p + i)) t) y.dram.par
        let z : Basin := { y with
          dram := { y.dram with
            mem := Memory.write y.dram.mem (q * 65536) (Memory.read y.dram.mem (p * 65536) 65536), par := par, used := swap y.dram.used }
          ctxs := y.ctxs.map fun (c : Nat × Ctx) => (c.1, { c.2 with
            dir := swap c.2.dir, spare := swap c.2.spare, logPages := c.2.logPages.map fun l => (l.1, swap l.2),
            areas := c.2.areas.map fun l => (l.1, swap l.2),
            kvDir := c.2.kvDir.map fun k => (k.1, { k.2 with pages := swap k.2.pages, lists := swap k.2.lists }),
            res := c.2.res.map fun r => { r with pages := swap r.pages } }) }
        z.ctxs.foldl (fun u c => c.2.kvDir.foldl (fun v k =>
          if k.2.pages.contains q || k.2.lists.contains q then v.storeKv dl c.1 k.1 else v) u) z

/-- Page `p` of basin `b` is retired for a row of channel `m`: one hard PPR of the row is queued for the basin's next pass
through INIT (R234, Table 6.8). -/
def retirePage (s : State) (b p m : Nat) : State :=
  if (s.basin b).dram.retired.contains p then s
  else
    let s1 := (s.modBasin b fun x => { x with dram := { x.dram with retired := x.dram.retired ++ [p], ppr := x.dram.ppr ++ [4 * p + m % 4] } }).movePage b p
    s1.modChan m fun c => { c with retired := satAdd c.retired 1, pprPending := satAdd c.pprPending 1 }

/-- The steps that run under context `c` in basin `b` read a line that cannot be repaired: they end as void (R245), or replay
when `repaired` (R244). -/
def taintContext (s : State) (b c : Nat) (repaired : Bool) : State :=
  s.allPounds.foldl (fun t p =>
    let q := (t.basin p.1).pound p.2
    if q.running && decide (q.ctx = c) && (t.poundBasins p.1 p.2).contains b then
      t.modPound p.1 p.2 fun y => { y with taint := true, unrepaired := y.unrepaired || !repaired }
    else t) s

/-- The steps that carry request `i` of this device's manifest read a KV line that is lost: every pound that runs one voids it (R245, R251). -/
def taintRequest (s : State) (i : Nat) : State :=
  (s.man.flights.filter fun f => f.started && !f.sealed && f.kind != 2 && f.rows.any fun r => r.entry == i).foldl (fun t f =>
    t.allPounds.foldl (fun u p =>
      let q := (u.basin p.1).pound p.2
      if q.running && q.step == f.step && s.onPath f p.1 p.2 then u.modPound p.1 p.2 fun y => { y with taint := true, unrepaired := true } else u) t) s

/-- A line or chunk reloaded from a copy (Table 6.13). The reload is a barge of basin firmware's own, in one of the 64 slots that no quota counts, and it is
charged to the context whose word it repairs (R309, R328, R621). DESIGN CHOICE: it starts and ends in the row that brings its result (log entry 169). -/
def countReload (s : State) (b c n : Nat) : State :=
  s.modBasin b fun x =>
    let y := (x.chargeParity c 1 1).chargeBarge c 0 1
    let z := if n < 512 then y.chargeBarge c 1 1 else y
    { z with par := { z.par with reload := satAdd z.par.reload 1 }
             eng := { z.eng with issued := satAdd z.eng.issued 1, small := if n < 512 then satAdd z.eng.small 1 else z.eng.small } }

/-- The 64 KiB that the model store's copy gives for LPDDR5X page `p` of context `c`: a chunk of a WARM copy, or of a HOT object's embeddings. -/
def pageChunk (s : State) (b c p : Nat) : Option (List Byte) :=
  ((s.basin b).ctx c).res.findSome? fun r =>
    match r.pages.idxOf? p with
    | some i => (s.laneChunkList r.model r.edition r.lane (!r.warm))[i]?
    | none => none

/-- A weight or embedding line is written again from the flash's copy of its page's chunk, with its parity, past the cache (Table 6.10). -/
def reloadLine (s : State) (b c page line : Nat) : State :=
  let n := 512 * page + line
  match s.pageChunk b c page with
  | some bs => s.modBasin b fun x => x.writeBytes s.basinLines c (128 * n) ((bs.drop (128 * line)).take 128) [] true
  | none => s.modBasin b fun x => x.mendLine s.basinLines n

/-- A word or line that passed its re-read (Table 6.13). -/
def countTransient (s : State) (b c : Nat) : State :=
  s.modBasin b fun x =>
    let y := x.chargeParity c 0 1
    { y with par := { y.par with transient := satAdd y.par.transient 1 } }

/-- The ladder of a model's data has run out (Table 6.10): the object that the context runs becomes NOT_READY. Which of its
shards holds the line is open where no chunk says it. -/
def ladderOut (s : State) (b c : Nat) (shard : Option Nat) : State :=
  match s.hotObject b c with
  | some (m, e) =>
    let f := s.free
    let n := ((s.object m e).map fun o => o.count).getD 0
    f.2.notReadyObject m e .flashUncorrectable 4 [shard.getD (f.1 % max 1 n)] true
  | none => s

end State

/-- LPDDR_REREAD: a line of page `page` failed its parity and is read once more (R226, R252): a stored error fails again, one that struck a single read
passes, and of a line that the model holds good the operand says it. A clean copy in the line cache is invalidated and fetched again from LPDDR5X; a dirty
one has no other copy and goes the way of its kind at once (Table 6.10). One that passes counts as transient; one that fails goes the way of Table 6.10 for
its kind. Barges to other devices that waited for the line send their grants (R252). DESIGN CHOICE: a KV, directory, scratch or mooring line that failed
counts as good again, as what is written there next makes it (log entry 53). -/
def lpddrReread (b c page line : Nat) (kind : LineKind) (l : LineLadder) (s0 : State) : State :=
  let n := 512 * page + line
  let m := lineChan b line
  let dl := s0.basinLines
  let way := (s0.basin b).cached c n
  let dirty := way.any fun w => ((s0.basin b).way (n % 4096) w).dirty
  let s := match way with
    | some w => if dirty then s0 else s0.modBasin b fun y => y.setWay (n % 4096) w LcLine.fresh
    | none => s0
  let x := s.basin b
  let stored := !(Basin.badWordsOf (x.lookLine dl c n)).isEmpty
  let ok := !stored && (x.dram.flaky.contains n || l.rereadOk)
  let mend := fun (t : State) => t.modBasin b fun y => y.mendLine dl n
  let t := if ok then ((s.modBasin b fun y => { y with dram := { y.dram with flaky := y.dram.flaky.filter (· != n) } }).modChan m fun h =>
      { h with transient := satAdd h.transient 1 }).countTransient b c
    else
      let s1 := if dirty then s else s.modChan m fun h => { h with stored := satAdd h.stored 1 }
      match kind with
      | .weight | .embedding =>
        if l.sourceOk then
          let s2 := (s1.reloadLine b c page line).countReload b c 128
          if l.readbackOk then s2 else s2.retirePage b page m
        else s1.ladderOut b c none
      | .kv i => kvFailure b i ((mend s1).taintRequest i)
      | .tokenLog i => if (s1.entry i).active then s1.endRequest i true .parityUnrecovered else s1
      | .kvDirectory =>
        let s2 := mend s1
        (if l.readbackOk then s2 else s2.retirePage b page m).taintContext b c true
      | .scratch | .mooring => (mend s1).taintContext b c true
  (List.range 8).foldl releaseRemote' t
where
  /-- The barges of one basin that waited go on. -/
  releaseRemote' (t : State) (i : Nat) : State := t.releaseRemote i

/-- LPDDR_REREAD. -/
def execLpddrReread (b : BasinId) (c : CtxId) (page : BitVec 19) (line : BitVec 9) (kind : LineKind) (l : LineLadder)
    (s : State) : Host.Outcome State Fault Refusal := .next (lpddrReread b c page.toNat line.toNat kind l s)

/-! ### Static chunks (R248, R249, R299) -/

namespace State

/-- Parts of a 64 KiB chunk of a tile's column are written, and the whole chunk holds good parity. -/
def writeChunk (s : State) (t chunk : Nat) (parts : List (Nat × List Byte)) : State :=
  s.modTile t fun x =>
    { x with
      mem := { x.mem with
        column := parts.foldl (fun m e => Memory.write m e.1 e.2) x.mem.column,
        parity := x.mem.parity.filter fun e => !(e.space == .column && decide (4 * e.word / 65536 = chunk)) },
      maint := { x.maint with named := true,
                              dirty := if x.maint.dirty.contains chunk then x.maint.dirty else x.maint.dirty ++ [chunk] } }

/-- A chunk of a tile reloaded from the source's copy of it; `data` where this device's store holds nothing of it. -/
def reloadChunk (s : State) (t c chunk : Nat) (data : List Byte) : State :=
  let b := tileBasin t
  let parts := s.storedParts b c t chunk
  (s.writeChunk t chunk (if parts.isEmpty then [(chunk * 65536, data.take 65536)] else parts)).countReload b c 65536

end State

/-- A chunk of context `c`'s static words in basin `b` waits for its reload. -/
def State.reloadDue (s : State) (b c : Nat) : Bool :=
  let r := s.shareRange b c
  (basinTiles b).any fun t => (s.tile t).mem.parity.any fun e => e.space == .column && e.seen && !e.transient &&
    decide (r.1 ≤ 4 * e.word) && decide (4 * e.word < r.1 + r.2) && !s.inDynamic b (4 * e.word) 4

/-- What a chunk that cannot be repaired does to the step that consumed it: the pound voids it (R245). -/
def State.unrepairable (s : State) (t : Nat) : State :=
  match s.poundOf t with
  | some hp => s.modPound hp.1 hp.2 fun q => if q.running && q.taint then { q with unrepaired := true } else q
  | none => s

/-- CHUNK_RELOAD: the chunk that holds a bad static or cut-store word is reloaded from the WARM copy, from flash or from the cut image, and read back; a stuck
cell takes the tile out of service with its contents (R249), and no good source makes the model NOT_READY (Table 6.10). -/
def chunkReload (t c chunk : Nat) (data : List Byte) (sourceOk readbackOk : Bool) (s : State) : State :=
  let b := tileBasin t
  if 96 ≤ chunk ∨ !((s.basin b).ctx c).exist then s
  else if sourceOk then
    let s1 := s.reloadChunk t c chunk data
    if readbackOk then s1 else tileFailure t false s1
  else ((s.unrepairable t).modTile t fun x => { x with maint := { x.maint with named := true } }).ladderOut b c (s.chunkShard b c t)

/-- CHUNK_RELOAD. -/
def execChunkReload (t : TileId) (c : CtxId) (chunk : BitVec 7) (data : List Byte) (sourceOk readbackOk : Bool) (s : State) :
    Host.Outcome State Fault Refusal := .next (chunkReload t c chunk.toNat data sourceOk readbackOk s)

/-! ### The scrubber (R220, R221) -/

/-- Ticks between the starts of two passes: 16 ms. -/
def scrubTicks : Nat := 1600000

/-- SCRUB_PASS: every 16 ms a pass starts; one that is still under way when the next is due is late and runs to its end. How
far a pass has come is timing (log entry 30), so whether it is late is open. -/
def scrubPass (t : Nat) (s : State) : State :=
  let x := s.tile t
  if s.now < x.maint.scrubDue then s
  else
    let f := s.free
    let late := x.maint.scrubbing && decide (f.1 % 2 = 1)
    let s1 := (if x.maint.scrubbing then f.2 else s).modTile t fun y =>
      { y with maint := { y.maint with scrubbing := true, scrubDue := s.now + scrubTicks } }
    if late then s1.modBasin (tileBasin t) fun y =>
      let z := match y.running with
        | some c => y.chargeParity c 7 1
        | none => y
      { z with par := { z.par with scrubLate := satAdd z.par.scrubLate 1 } }
    else s1

/-- SCRUB_PASS. -/
def execScrubPass (t : TileId) (s : State) : Host.Outcome State Fault Refusal := .next (scrubPass t s)

/-- The context whose share holds byte `a` of a column. -/
def State.shareOwner (s : State) (b a : Nat) : Option Nat :=
  (s.basin b).existing.find? fun c => let r := s.shareRange b c; decide (r.1 ≤ a) && decide (a < r.1 + r.2)

/-- SCRUB_ERROR: the scrubber finds a bad word of a static region; a re-read that passes counts as transient, else the word
waits for the reload of its chunk. No step is tainted (R221, R248). -/
def scrubError (t word : Nat) (rereadOk : Bool) (s : State) : State :=
  let b := tileBasin t
  match s.shareOwner b (4 * word) with
  | none => s
  | some c =>
    if s.inDynamic b (4 * word) 4 then s
    else
      let known := (s.tile t).mem.parity.find? fun e => e.space == .column && e.word == word
      let ok := match known with
        | some e => e.transient
        | none => rereadOk
      let rest := fun (m : TileMem) => m.parity.filter fun e => !(e.space == .column && e.word == word)
      if ok then (s.modTile t fun x => { x with mem := { x.mem with parity := rest x.mem } }).countTransient b c
      else s.modTile t fun x =>
        { x with mem := { x.mem with parity := rest x.mem ++ [{ space := .column, word := word, transient := false, seen := true }] },
                 maint := { x.maint with named := true } }

/-- SCRUB_ERROR. -/
def execScrubError (t : TileId) (word : BitVec 21) (rereadOk : Bool) (s : State) : Host.Outcome State Fault Refusal :=
  .next (scrubError t word.toNat rereadOk s)

end Sys2Proof.Machine
end

