-- ==== Sys2Proof/Machine/Dredge.lean ====
section
/-! DEFINITION. Dredge windows (R486-R491, Table 14.3), the digest re-check of HOT chunks (R298, R299), and the extra windows of
FORCE_DREDGE (R617). -/

namespace Sys2Proof.Machine

/-- Rack time lies in the scheduled window of basin `b` (R486). -/
def State.inWindow (s : State) (b : Nat) : Bool :=
  decide ((s.now + 200000 - 1000 * (s.basin b).maint.phase.toNat % 200000) % 200000 < 2000)

/-- The FORCE_DREDGE slot that opens an extra window of basin `b` now: at a multiple of 1,000 ticks outside the scheduled windows,
once, or once in each period (R617). `grants` of the slot holds the tick of its last window. -/
def State.extraWindow (s : State) (b : Nat) : Option Nat :=
  if s.now % 1000 ≠ 0 ∨ s.inWindow b then none
  else (List.range 16).find? fun i =>
    let p := s.perturb i
    p.active && decide (p.kind = 5) && decide (p.target.toNat % 8 = b) &&
      (decide (p.grants = 0) || (decide (p.amount ≠ 0) && decide (p.grants + p.amount.toNat ≤ s.now)))

namespace State

/-- The router test goes to the next tile in tile order that is neither under TEST nor FILLING, in a row without a gap move
(Tables 14.3, 14.14). -/
def routerTested (s : State) (b : Nat) : Option Nat :=
  let x := s.basin b
  let ok := fun (i : Nat) =>
    let j := i / 34
    let k := (x.row j).kindOf (i % 34)
    k != some .test && k != some .filling && !(x.maint.move.any fun m => m.1 == j)
  ((List.range 136).map fun i => (x.maint.routerTile + i) % 136).find? ok

/-- The rotation goes on behind the tile whose router the window tested; a test that fails, in a pass-through path or not, is a failure of that
tile (R499, Table 14.8). -/
def routerTest (s : State) (b : Nat) (fail : Option Bool) : State :=
  match s.routerTested b with
  | none => s
  | some i =>
    let s1 := s.modMaint b fun m => { m with routerTile := (i + 1) % 136 }
    match fail with
    | some pass => tileFailure (136 * b + i) pass s1
    | none => s1

/-- One channel of the basin is calibrated, in rotation: it grants no turns until its calibration is done (Table 14.4). -/
def calibrate (s : State) (b : Nat) : State :=
  let k := (s.basin b).maint.calChan
  let m := 4 * b + k
  let f := s.free
  let s1 := if (s.chan m).st = .open then f.2.modChan m fun h => { h with st := .closed } else f.2
  (s1.modMaint b fun x => { x with calChan := (k + 1) % 4 }).record b 8 0#8 (data48 m f.1 0)

/-- Chunk `j` of the image of a shard, padded, and its digest in the shard's list (R279, R281). -/
def chunkOf (img : List Byte) (j : Nat) : List Byte := ((shardPadded img).drop (65536 * j)).take 65536

/-- The digest of chunk `j` in the list of a shard's image. -/
def digestOf (img : List Byte) (j : Nat) : List Byte := (img.drop (128 + 32 * j)).take 32

/-- Tiles and column bytes at which chunk `j` of a shard's HOT copy in context `c` stands (R90, R217): a WEIGHT chunk in the column of its position, a CUT
chunk in the slot images of the cut store that it meets, with the place of each in the chunk. -/
def hotPlaces (s : State) (b c : Nat) (r : ResEntry) (i j : Nat) (img : List Byte) : List (Nat × Nat × Nat × Nat) :=
  if shardKind img = 0 then
    [(s.tileAt (4 * b + shardPos img / 32) (shardPos img % 32), s.staticBase b c r.model r.edition + 65536 * j, 0, 65536)]
  else
    let l := shardPayload img
    let cuts := (s.laneShards r.model r.edition r.lane).filter fun x => shardKind x.2 == 1
    let k := (cuts.findIdx? fun x => x.1 == i).getD 0
    (List.range 128).filterMap fun p => (imageOf l p).bind fun n =>
      let lo := max (65536 * j) (0x1000 + 32768 * n)
      let hi := min (65536 * j + 65536) (0x1000 + 32768 * n + 32768)
      if lo < hi then
        some (s.tileAt (4 * b + p / 32) (p % 32), (s.shareRange b c).1 + 32768 * (r.cutOff + k) + (lo - (0x1000 + 32768 * n)), lo - 65536 * j, hi - lo)
      else none

/-- Chunk `j` of a shard as its HOT copy holds it; what is nowhere in the columns is as stored. -/
def hotChunk (s : State) (b c : Nat) (r : ResEntry) (i j : Nat) (img : List Byte) : List Byte :=
  (s.hotPlaces b c r i j img).foldl (fun (l : List Byte) x =>
    l.take x.2.2.1 ++ Memory.read (s.tile x.1).mem.column x.2.1 x.2.2.2 ++ l.drop (x.2.2.1 + x.2.2.2)) (chunkOf img j)

/-- A chunk that re-checks take: context, residency entry, shard with its image, chunk, and the page of a WARM or AUX copy. -/
structure Recheck where
  ctx   : Nat
  entry : ResEntry
  shard : Nat
  image : List Byte
  chunk : Nat
  page  : Option Nat

/-- The chunks of basin `b` in the order of R298: those of its contexts' HOT objects in DIGEST mode, then those of their copies in LPDDR5X pages; a chunk
that is still LOADING is none of them (Table 7.14). -/
def recheckList (s : State) (b : Nat) : List Recheck :=
  let objs := (s.basin b).existing.flatMap fun c => ((((s.basin b).ctx c).res.filter fun r => r.state != .loading && r.state != .notReady &&
    (s.object r.model r.edition).any fun o => o.digestMode).map fun r => (c, r))
  let chunks := fun (r : ResEntry) (f : List Byte → Bool) => ((s.laneShards r.model r.edition r.lane).filter fun x => f x.2).flatMap fun x =>
    (List.range (shardChunks x.2)).map fun j => (x.1, x.2, j)
  let hot := (objs.filter fun x => x.2.state == .hot).flatMap fun x => (chunks x.2 fun i => shardKind i != 2).map fun y =>
    ({ ctx := x.1, entry := x.2, shard := y.1, image := y.2.1, chunk := y.2.2, page := none } : Recheck)
  let kept := objs.flatMap fun x => ((chunks x.2 fun i => x.2.warm || shardKind i == 2).zip x.2.pages).map fun y =>
    ({ ctx := x.1, entry := x.2, shard := y.1.1, image := y.1.2.1, chunk := y.1.2.2, page := some y.2 } : Recheck)
  hot ++ kept

/-- The bytes that a re-check sends to the crypto engine. -/
def recheckBytes (s : State) (b : Nat) (k : Recheck) : List Byte :=
  match k.page with
  | some p => (s.basin b).peek s.basinLines k.ctx (65536 * p) 65536
  | none => s.hotChunk b k.ctx k.entry k.shard k.chunk k.image

/-- A WARM copy, or the shard in flash, gives the chunk with its digest (R299). -/
def recheckSource (s : State) (b : Nat) (k : Recheck) : Bool :=
  let good := fun (l : List Byte) => sha256 l == digestOf k.image k.chunk
  let flash := (s.object k.entry.model k.entry.edition).any fun o => !(o.shard k.shard).damaged
  (flash && good (chunkOf k.image k.chunk)) || (s.recheckList b).any fun x =>
    x.ctx == k.ctx && x.shard == k.shard && x.chunk == k.chunk && x.entry.model == k.entry.model && x.entry.edition == k.entry.edition &&
      x.page.isSome && x.page != k.page && good (s.recheckBytes b x)

/-- The digest re-check of one chunk in each window (R298): a chunk that fails is reloaded from a source that passes its own digest, and the object's
context hears of it; without one its shard is damaged (R299). -/
def recheckChunk (s : State) (b : Nat) : State :=
  let l := s.recheckList b
  match l[(s.basin b).maint.recheck % max 1 l.length]? with
  | none => s
  | some k =>
    let s0 := s.modMaint b fun m => { m with recheck := (m.recheck + 1) % l.length }
    let m := k.entry.model
    let e := k.entry.edition
    if sha256 (s.recheckBytes b k) = digestOf k.image k.chunk then s0
    else if s.recheckSource b k then
      let s1 := match k.page with
        | some p => s0.layPages b k.ctx [p] [chunkOf k.image k.chunk]
        | none =>
          let l2 : List (Nat × Nat) :=
            ((s.hotPlaces b k.ctx k.entry k.shard k.chunk k.image).flatMap fun (x : Nat × Nat × Nat × Nat) =>
              [(x.1, x.2.1 / 65536), (x.1, (x.2.1 + x.2.2.2 - 1) / 65536)]).eraseDups
          l2.foldl (fun (t : State) (x : Nat × Nat) => t.reloadChunk x.1 k.ctx x.2 []) s0
      s1.noticeModel b k.ctx .digestMismatch m e 3 (s.residency b k.ctx m e).code (2 ^ b) [k.shard]
    else s0.damageShard m e k.shard .digestMismatch 1 (some (b, k.ctx)) false

/-- The state with a window of basin `b` open. -/
def openWindow (s : State) (b : Nat) (extra : Bool) : State :=
  s.modMaint b fun m => { m with open_ := true, openAt := s.now, extra := extra, windows := if extra then m.windows else m.windows + 1 }

end State

/-- DREDGE_WINDOW_OPEN: the pounds of the basin freeze (R108), and its work starts (Table 14.3). An extra window of FORCE_DREDGE
freezes only. -/
def dredgeOpen (b : Nat) (routerFail : Option Bool) (s : State) : State :=
  let x := s.basin b
  if s.inWindow b then
    if x.maint.open_ ∧ !x.maint.extra then s
    else
      let s1 := s.openWindow b false
      if !(x.st.state == .serving || x.st.state == .ready) then s1
      else
        ((s1.calibrate b).recheckChunk b).routerTest b routerFail
  else match s.extraWindow b with
    | some i =>
      if x.maint.open_ then s
      else (s.openWindow b true).setPerturb i { s.perturb i with grants := s.now }
    | none => s

/-- DREDGE_WINDOW_OPEN. -/
def execDredgeWindowOpen (b : BasinId) (routerFail : Option Bool) (s : State) : Host.Outcome State Fault Refusal :=
  .next (dredgeOpen b routerFail s)

/-- DREDGE_WINDOW_CLOSE: 2,000 ticks after its opening the window closes and the pounds issue again (R486). -/
def dredgeClose (b : Nat) (s : State) : State :=
  let m := (s.basin b).maint
  let over_ := if m.extra then decide (m.openAt + 2000 ≤ s.now) else !s.inWindow b
  if m.open_ && over_ then s.modMaint b fun k => { k with open_ := false, extra := false } else s

/-- DREDGE_WINDOW_CLOSE. -/
def execDredgeWindowClose (b : BasinId) (s : State) : Host.Outcome State Fault Refusal := .next (dredgeClose b s)

/-- LPDDR_CALIBRATION_DONE: the channel reopens, or a failed DQ training leaves it closed and fences its basin (R490). -/
def calibrationDone (m : Nat) (ok : Bool) (s : State) : State :=
  if (s.chan m).st ≠ .closed then s
  else if ok then s.modChan m fun h => { h with st := .open }
  else s.fence (m / 4) .channel false

/-- LPDDR_CALIBRATION_DONE. -/
def execLpddrCalibrationDone (m : ChanId) (ok : Bool) (s : State) : Host.Outcome State Fault Refusal := .next (calibrationDone m ok s)

end Sys2Proof.Machine
end

