-- ==== Sys2Proof/Machine/Shares.lean ====
section
/-! DEFINITION. Image shares of a cut (R93-R98, R150, R170, R178): their tables read from bytes, the loader's checks (R33,
R117, R171, R180, R217, R502, R626), and the copies of slot images into cut store and slots (R90, R130). -/

namespace Sys2Proof.Machine

/-! ### Tables of an image share, little-endian -/

/-- Ring descriptor at an offset (Table 4.1). -/
def parseRing (l : List Byte) (o : Nat) : Ring :=
  { shape := field l o 1, h := field l (o + 1) 1, w := field l (o + 2) 1, rings := field l (o + 3) 1, g := field l (o + 4) 1,
    sMax := field l (o + 5) 1, unit := field l (o + 6) 1, staticBase := field l (o + 8) 4, stageBytes := field l (o + 12) 4 }

/-- Pound-table entry at an offset (Table 3.3). -/
def parsePound (l : List Byte) (o : Nat) : Nat × PoundDef :=
  let fl := field l (o + 1) 1
  (field l o 1,
   { source := fl.testBit 0, sink := fl.testBit 1, splitK := fl.testBit 2, contNext := fl.testBit 3, contPrev := fl.testBit 4,
     top := field l (o + 2) 1, left := field l (o + 3) 1, height := field l (o + 4) 1, width := field l (o + 5) 1,
     firstLayer := field l (o + 6) 2, layers := field l (o + 8) 2, phrases := field l (o + 10) 1,
     inQ := (List.range 8).map fun i => field l (o + 12 + i) 1, outQ := (List.range 8).map fun i => field l (o + 20 + i) 1,
     stepCycles := field l (o + 28) 4, ring := parseRing l (o + 32) })

/-- Queue-table entry at an offset (Table 3.4). -/
def parseQueue (l : List Byte) (o : Nat) : Nat × Queue :=
  (field l o 1,
   { Queue.fresh with
     producer := field l (o + 1) 1, consumer := field l (o + 2) 1, skipped := field l (o + 3) 1, depth := field l (o + 4) 4,
     stepMax := field l (o + 8) 4, store := field l (o + 12) 4, launch := BitVec.ofNat 64 (field l (o + 16) 8),
     perBlock := field l (o + 24) 4, fixed := field l (o + 28) 4 })

/-- What firmware keeps of an image share (R93), without its route records. -/
def parseShare (model edition : Nat) (l : List Byte) : Share :=
  let pl := 0x0D00
  { model := model, edition := edition, cutId := field l 8 4, kind := field l 0x16 1, sliceBasins := field l 0x10 2,
    ordinal := field l 0x12 2, unit := field l 0x20 2, units := field l 0x22 2, dynKib := field l 0x18 2,
    statKib := field l 0x1A 2, maxRows := field l (pl + 4) 2, maxSeqs := field l (pl + 6) 2, maxLen := field l (pl + 8) 4,
    maxExpert := field l (pl + 12) 2, maxDraft := field l (pl + 14) 1, maxOps := field l (pl + 16) 4,
    drainTicks := field l (pl + 20) 4, kvBytes := field l (pl + 24) 4, alignLog2 := field l (pl + 15) 1,
    buffers := (List.range 8).map fun i =>
      (field l (pl + 32 + 16 * i) 1, field l (pl + 33 + 16 * i) 1, field l (pl + 36 + 16 * i) 8),
    routes := [],
    pounds := (List.range (min 16 (field l 0x14 1))).foldl (fun t i =>
      let e := parsePound l (0x100 + 64 * i)
      Tbl.set PoundDef.fresh (e.1 % 16) e.2 t) [],
    queues := (List.range (min 64 (field l 0x15 1))).foldl (fun t i =>
      let e := parseQueue l (0x500 + 32 * i)
      Tbl.set Queue.fresh e.1 e.2 t) [] }

/-- The header CRC matches, with the field taken as 0 (Table 3.2). -/
def headerCrcOk (l : List Byte) : Bool :=
  crc32 (l.take 0x1C ++ List.replicate 4 0#8 ++ (l.take 0x1000).drop 0x20) == BitVec.ofNat 32 (field l 0x1C 4)

/-- The CRC of a slot image matches, with its field taken as 0 (Table 3.5). -/
def slotCrcOk (i : List Byte) : Bool :=
  crc32 (i.take 0x10 ++ List.replicate 4 0#8 ++ i.drop 0x14) == BitVec.ofNat 32 (field i 0x10 4)

/-! ### Route records (Table 5.1) -/

/-- The route record at a byte offset of a static region. -/
def parseRoute (m : Memory) (base off : Nat) : RouteRec :=
  let r := Memory.read m (base + off) 32
  let e := field r 2 2
  let p := field r 7 1
  let fl := field r 6 1
  { layer := field r 0 2, experts := e, k := field r 4 1, score := field r 5 1, normalize := fl.testBit 0, bias := fl.testBit 1,
    peers := p, local_ := field r 8 1, dispatchFmt := field r 9 1, combineFmt := field r 10 1,
    gateScale := BitVec.ofNat 32 (field r 12 4),
    biases := Memory.words m (base + field r 0x10 4) (min e 256),
    peerOrd := (List.range (min p 64)).map fun i => leNat (Memory.read m (base + field r 0x14 4 + 2 * i) 2),
    self := field r 0x18 2 }

/-- The route records of a share, from the static regions of the basin's tiles (R178). -/
def State.shareRoutes (s : State) (b c : Nat) (h : Share) : Tbl RouteRec :=
  let base := s.staticBase b c h.model h.edition
  (List.range (min 32 (Config.routeCount h.cutId h.ordinal))).foldl (fun t r =>
    let p := Config.routePosition h.cutId h.ordinal r % 128
    let tile := s.tile (s.tileAt (4 * b + p / 32) (p % 32))
    Tbl.set RouteRec.fresh r (parseRoute tile.mem.column base (Config.routeOffset h.cutId h.ordinal r)) t) []

/-- A route record that the loader accepts in a slice of `n` basins (R180, Table 5.1). DESIGN CHOICE: a record whose k, E, P or L lies outside the ranges of
Table 5.1 is refused with PLAN_MISMATCH as well, which R180's list does not say (log entry 181). -/
def routeOk (n : Nat) (r : RouteRec) : Bool :=
  decide (r.score ≤ 2) && !(r.normalize && decide (r.score = 2)) && decide (1 ≤ r.k) && decide (r.k ≤ 8) &&
    decide (r.k ≤ r.experts) && decide (1 ≤ r.experts) && decide (r.experts ≤ 256) && decide (r.experts ≤ r.peers * r.local_) &&
    decide (1 ≤ r.peers) && decide (r.peers ≤ 64) && decide (1 ≤ r.local_) && decide (r.local_ ≤ 16) &&
    decide (r.self < r.peers) && r.peerOrd.all fun o => decide (o < n)

/-! ### Loader checks -/

/-- Both operands of a phrase's weight tiles are in formats that the row of the phrase's mode lists, and the weights in a structure of that mode; a phrase
that runs no matrix operation (0xFF for activations) has no pairing (R43, R44). -/
def pairOk (cut i k : Nat) : Bool :=
  decide (Config.phraseFormats cut i k % 256 = 0xFF) ||
    (formOf cut i k).any fun f => actOk f.mode f.act && weightOk f.mode f.wgt && sparsityOk f.mode f.sp

/-- Cycles that a beat of a phrase lasts at least: n x max(32g, 32), in BF mode n x 128g, n weight tiles a unit (R153). -/
def minBeat (r : Ring) (formats : Nat) : Nat :=
  let n := if r.unit = 1 then 5 else 1
  if formats / 256 % 256 = 7 then n * (128 * r.g) else n * max (32 * r.g) 32

/-- A ring descriptor that is legal for its pound, with every phrase of it (R43, R148, R153, Tables 4.1, 4.2, 4.7). -/
def ringOk (h : Share) (i : Nat) (d : PoundDef) : Bool :=
  let r := d.ring
  let range := decide (1 ≤ r.g) && decide (r.g ≤ 32) && decide (1 ≤ r.sMax) && decide (r.sMax ≤ 32) && decide (r.unit ≤ 1) &&
    decide (1 ≤ r.h) && decide (r.h ≤ 32) && decide (1 ≤ r.w) && decide (r.w ≤ 32)
  let cover := decide (d.height % max 1 r.h = 0) && decide (d.width % max 1 r.w = 0) &&
    decide (r.rings = d.height / max 1 r.h * (d.width / max 1 r.w)) && decide (1 ≤ r.rings) && decide (r.rings ≤ 16)
  let groups := ((h.maxRows + 31) / 32 + max 1 r.g - 1) / max 1 r.g
  let phrases := (List.range d.phrases).all fun k =>
    let f := Config.phraseFormats h.cutId i k
    let p := planOf h.cutId i k r
    pairOk h.cutId i k && decide (r.g * p.s ≤ 32) && decide (minBeat r f ≤ p.beat) && decide (p.unitBytes ≤ 63 * p.beat) &&
      (decide (r.shape = 0) || decide (r.rings * p.segs * groups ≤ h.maxOps))
  range && phrases && (match r.shape with
    | 0 => decide (r.h = 1) && decide (r.w = 1) && decide (r.rings = 1)
    | 1 => cover && ((decide (r.h % 2 = 0) && decide (2 ≤ r.w)) || (decide (r.h = 1) && decide (r.w = 2)))
    | 2 => cover && ((decide (r.w % 2 = 0) && decide (2 ≤ r.h)) || (decide (r.h = 2) && decide (r.w = 1)))
    | _ => false)

/-- Two pounds with their home basins share a tile of the device. -/
def overlap (x y : Nat × PoundDef) : Bool :=
  let a := x.2
  let b := y.2
  decide (4 * x.1 + a.top < 4 * y.1 + b.top + b.height) && decide (4 * y.1 + b.top < 4 * x.1 + a.top + a.height) &&
    decide (a.left < b.left + b.width) && decide (b.left < a.left + a.width)

/-- A pound of home basin `home` covers a logical position of the device. -/
def PoundDef.holds (d : PoundDef) (home r j : Nat) : Bool :=
  decide (4 * home + d.top ≤ r) && decide (r < 4 * home + d.top + d.height) && decide (d.left ≤ j) && decide (j < d.left + d.width)

/-- Words of a slot image by its header, at most 4,048 (R99, Table 3.5). -/
def imageWords (img : List Byte) : List (BitVec 64) :=
  (List.range (min 4048 (field img 8 2))).map fun i => BitVec.ofNat 64 (field img (0x180 + 8 * i) 8)

/-- Indices of the schedule words of phrase `k` in a slot image: from its first word to the next phrase's (R100). -/
def phraseWords (img : List Byte) (k : Nat) : List Nat :=
  let n := min 4048 (field img 8 2)
  let first := fun (j : Nat) => field img (0x40 + 8 * j) 8 / 2 ^ 52
  let next := (((List.range (min 24 (field img 7 1))).map first).filter fun a => decide (first k < a)).foldl min n
  (List.range next).drop (first k)

/-- The matrix-unit loads of a slot image, phrase by phrase, are in the mode and the structure of their phrase, whose formats the loader checks (R43). -/
def imageModesOk (cut i : Nat) (img : List Byte) : Bool :=
  let ws := imageWords img
  (List.range (min 24 (field img 7 1))).all fun k => (phraseWords img k).all fun j =>
    match (ws[j]?).bind decodeSched with
    | some (.muLoad _ _ m sp) => (formOf cut i k).any fun f => f.mode == m && f.sp == sp
    | _ => true

/-- A slot image has a ROUTE word that drives the output of a side. -/
def imageDrives (img : List Byte) (d : Side) : Bool :=
  (imageWords img).any fun w => match decodeSched w with
    | some (.route n e s v _ _) =>
      (match d with | .north => n | .east => e | .south => s | .west => v) != .none
    | _ => false

/-- Every field of the plan block is in range (Table 4.5). DESIGN CHOICE: its reserved fields, and those of buffer entries and ring descriptors, are not
looked at: what the loader does with a reserved field that is not 0 is open (log entry 178). -/
def planOk (l : List Byte) (h : Share) : Bool :=
  decide (field l 0x0D00 4 = 0x4E414C50) && decide (1 ≤ h.maxRows) && decide (h.maxRows ≤ 8192) && decide (1 ≤ h.maxSeqs) &&
    decide (h.maxSeqs ≤ 4096) && decide (1 ≤ h.maxLen) && decide (h.maxLen ≤ 1048576) && decide (h.maxDraft ≤ 8) &&
    decide (6 ≤ h.alignLog2) && decide (h.alignLog2 ≤ 16) && decide (1 ≤ h.maxOps) && decide (h.maxOps ≤ 4096) &&
    h.buffers.all fun e => decide (e.1 ≤ 5) && decide (e.2.1 ≤ 1)

namespace State

/-- The image share of a cut of an object for the lane of context `c` in basin `b`. -/
def cutPayload (s : State) (b c m e cut : Nat) : Option (List Byte) :=
  ((s.laneCuts m e (s.laneOfRes b c m e)).find? fun i => shardCut i == cut).map shardPayload

/-- The cut's shares in the other local basins of the slice, as far as the device holds the cut's lane for them in the context. -/
def otherShares (s : State) (b c : Nat) (h : Share) : List (Nat × Share) :=
  (s.sliceBasins b).filterMap fun y =>
    if y = b then none else (s.cutPayload y c h.model h.edition h.cutId).map fun l => (y, parseShare h.model h.edition l)

/-- The pounds of the cut on this device, with their home basins and indices. -/
def cutPounds (s : State) (b c : Nat) (h : Share) : List (Nat × Nat × PoundDef) :=
  ((b, h) :: s.otherShares b c h).flatMap fun e => e.2.pounds.map fun p => (e.1, p.1, p.2)

/-- The pound that a queue's producer or consumer byte names. -/
def queuePound (ps : List (Nat × Nat × PoundDef)) (q : Nat) : Option (Nat × PoundDef) :=
  if q = 0xFF then none else (ps.find? fun p => p.1 == q / 16 && p.2.1 == q % 16).map fun p => (p.1, p.2.2)

/-- Device rows that a pound covers. -/
def poundRows (home : Nat) (d : PoundDef) : List Nat := (List.range d.height).map fun i => 4 * home + d.top + i

/-- Device rows that a queue's flits cross: along the row of a producer tile and then along a column to the consumer's row (R113); of an end whose
share the device does not hold, its home's first row stands for it. -/
def queueRows (ps : List (Nat × Nat × PoundDef)) (q : Queue) : List Nat :=
  let rows := fun (e : Nat) => if e = 0xFF then [] else match queuePound ps e with
    | some p => poundRows p.1 p.2
    | none => [4 * (e / 16)]
  let all := rows q.producer ++ rows q.consumer
  let lo := all.foldl min 31
  let hi := all.foldl max 0
  (List.range 64).filter fun r => decide (lo ≤ r) && decide (r ≤ hi)

/-- A queue that the loader accepts (R117, R626). -/
def queueOk (s : State) (b : Nat) (ps : List (Nat × Nat × PoundDef)) (h : Share) (q : Queue) : Bool :=
  let slice := (s.basin b).sliceId.toNat
  let tiles := match queuePound ps q.consumer with
    | some c => max 1 (c.2.height * c.2.width)
    | none => 1
  decide (q.stepMax ≤ q.depth) && decide (q.stepMax = q.fixed + q.perBlock * ((h.maxRows + 31) / 32)) &&
    (decide (q.consumer = 0xFF) || decide (q.store + 64 * ((q.depth + tiles - 1) / tiles) ≤ h.dynKib * 1024)) &&
    !(s.oneDevice slice && (decide (q.producer = 0xFF) || decide (q.consumer = 0xFF)))

/-- Storage per tile of the queues that a pound consumes (R98). -/
def queueBytes (h : Share) (b i : Nat) (d : PoundDef) : Nat :=
  (h.queues.map fun q => if q.2.consumer = 16 * b + i then 64 * ((q.2.depth + d.height * d.width - 1) / max 1 (d.height * d.width)) else 0).foldl (· + ·) 0

/-- Pages that a share's mooring table area (4) and scratch buffer (5) in LPDDR5X need beyond those that the context has for them (R228, Table 4.6). -/
def areaNeed (x : Ctx) (h : Share) : List (Nat × Nat) :=
  [4, 5].map fun k =>
    let n := ((h.buffers.filter fun e => e.1 == k && e.2.1 == 1).map fun e => (e.2.2 + 65535) / 65536).foldl max 0
    (k, n - (Tbl.get [] k x.areas).length)

/-- The context takes the pages of a share's areas from its quota (R228, R236). DESIGN CHOICE: the cuts of a context use the same areas, and it keeps them
while it exists (log entry 31). -/
def takeAreas (s : State) (b c : Nat) (h : Share) : State :=
  (areaNeed ((s.basin b).ctx c) h).foldl (fun t k => t.modBasin b fun x =>
    let l := x.quotaPages c k.2
    (x.usePages c l).modCtx c fun z => { z with areas := Tbl.mod [] k.1 (· ++ l) z.areas }) s

/-- Every buffer of the plan fits the context's allocation in its tier and is aligned (Tables 4.6, 4.7). DESIGN CHOICE: the table gives no address, so
a buffer is aligned where its size is a multiple of 2^align_log2 bytes (log entry 54). -/
def buffersFit (s : State) (b c : Nat) (h : Share) : Bool :=
  let x := (s.basin b).ctx c
  decide (((areaNeed x h).map (·.2)).foldl (· + ·) 0 ≤ x.pagesFree) && h.buffers.all fun e =>
    decide (e.1 = 0) || (decide (e.2.2 % 2 ^ h.alignLog2 = 0) && if e.2.1 = 0 then decide (e.2.2 ≤ h.dynKib * 1024) else decide (e.2.2 ≤ x.pages * 65536))

/-- A tile-map entry names a pound that covers the position; one of a home whose share the device does not hold is taken as it is (R19, R28, R96). -/
def entryOk (s : State) (b : Nat) (ps : List (Nat × Nat × PoundDef)) (l : List Byte) (p : Nat) : Bool :=
  let e := mapEntry l p
  let up := e / 2 ^ 28
  decide (up ≤ b) && (s.sliceBasins b).contains (b - up) && match ps.find? fun x => x.1 == b - up && x.2.1 == e / 2 ^ 24 % 16 with
    | some x => x.2.2.holds x.1 (4 * b + p / 32) (p % 32)
    | none => !(ps.any fun x => x.1 == b - up)

/-- The routes of a slot image stay in basins of the slice (R33): a ROUTE word of the basin's top or bottom row that drives the link across its edge
needs the neighbour in the slice's member list. -/
def routesStay (s : State) (b p : Nat) (img : List Byte) : Bool :=
  let may := fun (x : Nat) => (s.sliceBasins b).contains x
  (decide (p / 32 ≠ 0) || decide (b = 0) || may (b - 1) || !imageDrives img .north) &&
    (decide (p / 32 ≠ 3) || decide (b = 7) || may (b + 1) || !imageDrives img .south)

/-- The loader's checks of a share for context `c` of basin `b` (Table 3.12, R19, R28, R33, R43, R91, R96, R117, R171, R180, R217, R502). -/
def shareOk (s : State) (b c : Nat) (l : List Byte) (h : Share) : Bool :=
  let x := s.basin b
  let id := x.sliceId.toNat
  let ps := s.cutPounds b c h
  let inSlice := fun (r : Nat) => decide (r < 32) && (s.localMembers id).contains (r / 4)
  let barred := fun (r : Nat) => (s.basin (r / 4)).maint.excluded.getLsbD (r % 4)
  let header := decide (field l 0 4 = 0x43545543) && decide (field l 4 2 = 1) && decide (field l 6 2 ≤ 128) &&
    decide (field l 0x0C 4 = h.model) && decide (field l 0x14 1 ≤ 16) && decide (field l 0x15 1 ≤ 64) && decide (h.kind ≤ 3) &&
    decide (h.sliceBasins = (s.membersOf id).length) && s.ordinal b == some h.ordinal &&
    decide (1 ≤ h.units) && decide (h.units ≤ h.sliceBasins) && decide (h.unit < h.units)
  let pounds := h.pounds.all fun p =>
    let d := p.2
    decide (d.top ≤ 3) && decide (d.left + d.width ≤ 32) && decide (1 ≤ d.height) && decide (1 ≤ d.width) && decide (1 ≤ d.phrases) &&
      decide (d.phrases ≤ 24) && (poundRows b d).all inSlice && ringOk h p.1 d &&
      decide (2 * d.ring.stageBytes + queueBytes h b p.1 d ≤ h.dynKib * 1024) &&
      ps.all fun q => (decide (q.1 = b) && decide (q.2.1 = p.1)) || !overlap (b, d) (q.1, q.2.2)
  let maps := (List.range 128).all fun p => match imageOf l p with
    | some i => decide (i < field l 6 2) && !barred (4 * b + p / 32) && s.entryOk b ps l p && s.routesStay b p (slotImage l i) &&
        imageModesOk h.cutId (mapEntry l p / 2 ^ 24 % 16) (slotImage l i)
    | none => !(h.pounds.any fun q => q.2.holds b (4 * b + p / 32) (p % 32))
  let queues := h.queues.all fun q =>
    s.queueOk b ps h q.2 && (queueRows ps q.2).all fun r => inSlice r && !barred r
  let sizes := decide (h.dynKib ≤ 1024) && decide (32 * (x.sramCtx c).store.toNat + h.statKib + h.dynKib ≤ 6144) &&
    decide (32 * (x.sramCtx c).store.toNat + h.statKib + h.dynKib ≤ 64 * (x.sramCtx c).size.toNat)
  header && planOk l h && pounds && maps && queues && sizes && s.buffersFit b c h &&
    (h.routes.all fun r => routeOk h.sliceBasins r.2)

end State

/-! ### Cut store, slots and static regions -/

namespace State

/-- The place of a cut's images in the context's cut store: its rank among the lane's CUT shards, after the object's first place (log
entry 31). -/
def storeRank (s : State) (b c m e : Nat) (cut : Nat) : Option Nat :=
  ((s.laneCuts m e (s.laneOfRes b c m e)).findIdx? fun i => shardCut i == cut).map (· + ((s.resOf b c m e).map (·.cutOff)).getD 0)

/-- Slot `k` of basin `b` takes the slot images of a share from the cut store of every tile that the tile map names, and the basin keeps where they
stand (R130). -/
def fillSlot (s : State) (b c k m e cut : Nat) (l : List Byte) : State :=
  match s.storeRank b c m e cut with
  | none => s
  | some r =>
    (List.range 128).foldl (fun t p => match imageOf l p with
      | some _ => t.reloadSlot (t.tileOfPos b p) k
      | none => t) (s.modBasin b fun x => x.modSlot k fun z => { z with place := r })

/-- Tiles of which a word of the cut's slot image fails its parity in the cut store, the re-read too: its chunk waits for a reload (R130, Table 6.10). -/
def badImages (s : State) (b c m e cut : Nat) (l : List Byte) : List Nat :=
  match s.storeRank b c m e cut with
  | none => []
  | some r =>
    let a := (s.shareRange b c).1 + 32768 * r
    (List.range 128).filterMap fun p => match imageOf l p with
      | some _ =>
        let t := s.tileOfPos b p
        if (s.tile t).mem.parity.any fun q => q.space == .column && !q.transient && decide (a / 4 ≤ q.word) && decide (q.word < a / 4 + 8192)
        then some t else none
      | none => none

/-- The slot images that stand in the cut store pass their CRC (R131). -/
def storedCrcOk (s : State) (b c m e cut : Nat) (l : List Byte) : Bool :=
  match s.storeRank b c m e cut with
  | none => false
  | some r =>
    let a := (s.shareRange b c).1 + 32768 * r
    (List.range 128).all fun p => match imageOf l p with
      | some _ => slotCrcOk (Memory.read (s.tile (s.tileOfPos b p)).mem.column a 32768)
      | none => true

/-- Firmware takes a share into its own memory, in place of an older one of the same cut (R93). -/
def keepShare (s : State) (b : Nat) (h : Share) : State :=
  s.modBasin b fun x => { x with
    shares := x.shares.filter (fun g => !(g.model == h.model && g.edition == h.edition && g.cutId == h.cutId)) ++ [h] }

end State

end Sys2Proof.Machine
end

