-- ==== Sys2Proof/Machine/StateWords.lean ====
section
/-! DEFINITION. The state words of the device: what each address holds (R4, R10), its reserved bits, and what a write of it does
by its class (R6-R12, Table 12.14). -/

namespace Sys2Proof.Machine

/-- A bit as a number. -/
def bit (x : Bool) : Nat := if x then 1 else 0

/-! ### Reading -/

/-- BSN_ROWMAP_j (Table 3.8). -/
def RowMap.word (m : RowMap) : Nat := m.bKind.code * 2 ^ 14 + m.bCol.toNat * 2 ^ 8 + m.aKind.code * 2 ^ 6 + m.aCol.toNat

/-- Eight bits of BSN_SLOTS (Table 3.11). -/
def Slot.bits (k : Slot) : Nat := bit k.valid * 128 + bit k.assigned * 64 + k.ctx.toNat * 16 + k.tag.toNat * 4

/-- Parity counter word `i` (Table 6.13). -/
def ParCnt.word (p : ParCnt) (i : Nat) : BitVec 32 :=
  match i with
  | 0 => p.transient | 1 => p.reload | 2 => p.replay | 3 => p.void | 4 => p.rebuild | 5 => p.unrec | 6 => p.link | _ => p.scrubLate

/-- Arithmetic counter word `i` (Table 2.11). -/
def TileCnt.word (c : TileCnt) (i : Nat) : BitVec 32 :=
  match i with
  | 0 => c.satNarrow | 1 => c.satArith | 2 => c.nanOut | 3 => c.badCode | 4 => c.skip | 5 => c.muActive | _ => c.muLoadWait

namespace State

/-- BSN_SLICE of basin `b` (Table 1.4), with its borders as the device last evaluated them (R34). -/
def sliceWord (s : State) (b : Nat) : Nat :=
  let x := s.basin b
  x.sliceId.toNat * 2 ^ 16 + 2 * bit x.openUp + bit x.openDown

/-- The word at an offset from the base of basin `b`; none where no word stands. -/
def basinWord (s : State) (b off : Nat) : Option Nat :=
  let x := s.basin b
  let i := off / 4 % 4
  match off / 16 with
  | 0x4 => some (match i with
    | 0 => s.sliceWord b
    | 1 => x.drops.toNat
    | 2 => x.cut.lockState.code * 2 ^ 24 + x.cut.epoch.toNat * 2 ^ 22 + x.cut.activeSlot.toNat * 2 ^ 20 +
        (s.keeperOrdinal b).getD 0
    | _ => x.cut.cutId.toNat)
  | 0x5 => some (x.row i).word
  | 0x6 => if i = 0 then some (((List.range 4).map fun k => (x.slot k).bits * 256 ^ k).foldl (· + ·) 0) else none
  | 0x7 => if i = 0 then some (x.cut.lateLock.toNat * 2 ^ 24 + x.cut.lateResume.toNat * 2 ^ 16 + x.cut.voided.toNat * 256 + x.cut.selfFence.toNat)
    else none
  | 0x8 => some (match i with
    | 0 => x.maint.phase.toNat
    | 1 => x.gen.toNat
    | 2 => x.maint.bistState.toNat * 2 ^ 30 + x.maint.bistRow.toNat * 2 ^ 28 + x.maint.bistCol.toNat * 2 ^ 22 +
        x.maint.skipped.toNat * 256 + x.maint.failed.toNat
    | _ => x.maint.excluded.toNat)
  | 0x9 => match i with
    | 0 => some (x.st.state.code * 2 ^ 29 + bit x.st.held * 2 ^ 28 + x.st.cause.code * 2 ^ 20)
    | 1 => some (x.st.window.toNat * 2 ^ 24 + x.st.total.toNat)
    | _ => none
  | 0x10 => some (x.cap i).toNat
  | 0x11 => some (match i with
    | 0 => x.sluice.drops.toNat | 1 => x.sluice.empty.toNat | 2 => x.sluice.nanTok.toNat | _ => x.sluice.degen.toNat)
  | 0x20 => let w := x.sramCtx i; some (w.store.toNat * 2 ^ 16 + w.size.toNat * 256 + w.base.toNat)
  | 0x21 => some (x.ways i).toNat
  | 0x22 => some (x.par.word i).toNat
  | 0x23 => some (x.par.word (4 + i)).toNat
  | 0x30 => let w := x.brgCtx i; some (w.inUse.toNat * 2 ^ 16 + w.quota.toNat)
  | 0x31 => some (match i with
    | 0 => x.eng.issued.toNat | 1 => x.eng.small.toNat | 2 => x.eng.late.toNat | _ => x.eng.stale.toNat)
  | 0x40 => let w := x.manCtx i; some (w.count.toNat * 2 ^ 16 + w.base.toNat)
  | _ => none

/-- The word at an offset from the base of tile `t`. -/
def tileWord (s : State) (t off : Nat) : Option Nat :=
  let x := s.tile t
  if 0x100 ≤ off ∧ off < 0x11C then some (x.cnt.word ((off - 0x100) / 4)).toNat
  else if off = 0x11C then some 0
  else if off = 0x120 then some x.gen.toNat
  else none

/-- Basins fenced for temperature (Table 17.8). -/
def thermalFenced (s : State) : BitVec 8 :=
  basinsMask ((List.range 8).filter fun b => (s.basin b).st.state == .fenced && (s.basin b).st.cause == .thermal)

/-- Words of the management base: time, power, start-up (Tables 17.3, 17.8, 18.7). -/
def mgmtWord (s : State) (off : Nat) : Option Nat :=
  match off with
  | 0x000 => some (s.time.source.toNat * 2 ^ 30 + bit s.time.locked * 2 ^ 29 + bit s.time.holdover * 2 ^ 28 +
      s.time.hops.toNat * 2 ^ 24 + s.time.slips.toNat * 2 ^ 16)
  | 0x004 => some s.time.missed.toNat
  | 0x008 => some (s.now % 2 ^ 32)
  | 0x00C => some s.time.latchHi.toNat
  | 0x100 => some (s.power.level.toNat * 2 ^ 25 + s.power.duty.toNat * 2 ^ 16 + s.power.tau.toNat * 2 ^ 9 + bit s.power.shed * 256 +
      bit s.power.rmLost * 128 + bit s.power.safe * 64 + bit s.power.inputLow * 32 + bit (decide (s.power.duty.toNat < 256)) * 16)
  | 0x104 => some (s.power.tj.toNat * 2 ^ 20 + s.thermalFenced.toNat * 2 ^ 12 + s.power.thermal.toNat * 2 ^ 10)
  | 0x108 => some (min 0xFFFFFFFF (s.power.overrun / 10000000000))
  | 0x110 => some (s.pins.step.toNat * 2 ^ 28 + s.pins.failed.toNat * 2 ^ 24 + s.pins.attempts.toNat * 2 ^ 16 + s.pins.ms.toNat)
  | _ => none

/-- Words of the fabric (Tables 10.11 to 10.14). -/
def fabWord (s : State) (off : Nat) : Option Nat :=
  if off = 0 then some (bit s.fab.valid * 128 + s.fab.position.toNat)
  else if off = 0x10 then some (s.fab.resent.toNat * 2 ^ 16 + s.fab.refused.toNat)
  else if 0x1000 ≤ off ∧ off < 0x1600 then
    let n := (off - 0x1000) / 16
    let l := s.link n
    match off % 16 with
    | 0 => some (l.st.code * 2 ^ 29 + bit (s.linkLive n) * 2 ^ 28 + l.attempts.toNat * 2 ^ 26 + bit l.partnerValid * 2 ^ 15 +
        l.partner.toNat * 256 + l.admin.toNat)
    | 4 => some (l.replays.toNat * 2 ^ 16 + l.uncorrectable.toNat)
    | 8 => some l.corrected.toNat
    | _ => none
  else none

/-- Words of the Ethernet port (Tables 11.1 to 11.5). -/
def ethWord (s : State) (off : Nat) : Option Nat :=
  match off with
  | 0x00 => some (s.eth.pfcB.toNat * 2 ^ 21 + s.eth.pfcA.toNat * 2 ^ 18 + bit s.eth.pfcEn * 2 ^ 17 + bit s.eth.vlanEn * 2 ^ 16 +
      s.eth.vlanId.toNat * 16 + s.eth.mode.toNat)
  | 0x04 => some (bit s.eth.portReset)
  | 0x08 => some (s.eth.st.toNat * 2 ^ 30 + s.eth.stMode.toNat * 2 ^ 28)
  | 0x10 => some s.eth.ip4.toNat
  | 0x14 => some (Tbl.get 0#32 0 s.eth.ip6).toNat
  | 0x18 => some (Tbl.get 0#32 1 s.eth.ip6).toNat
  | 0x1C => some (Tbl.get 0#32 2 s.eth.ip6).toNat
  | 0x20 => some (Tbl.get 0#32 3 s.eth.ip6).toNat
  | 0x24 => some (Config.macAddress % 2 ^ 32)
  | 0x28 => some (Config.macAddress / 2 ^ 32 % 2 ^ 16)
  | 0x30 => some (s.eth.format.toNat * 2 ^ 16 + s.eth.auth.toNat)
  | _ => none

/-- Words of the LPDDR5X controllers (Tables 6.3, 6.7, 6.8). -/
def memWord (s : State) (off : Nat) : Option Nat :=
  if off = 0 then some (s.memDev.density.toNat * 64 + s.memDev.ranks.toNat * 16 + s.memDev.speed.toNat)
  else if 0x100 ≤ off ∧ off < 0x200 then
    let c := s.chan ((off - 0x100) / 8)
    if off % 8 = 0 then some (c.transient.toNat * 2 ^ 16 + c.stored.toNat)
    else some (c.retired.toNat * 2 ^ 16 + c.pprPending.toNat * 256 + c.pprDone.toNat)
  else none

/-- Words of the FTL (Tables 7.2, 7.4). -/
def flsWord (s : State) (off : Nat) : Option Nat :=
  match off with
  | 0x00 => some (s.flash.luns.toNat * 1024 + s.flash.targets.toNat * 256 + s.flash.speed.toNat)
  | 0x04 => some s.flash.capacity.toNat
  | 0x08 => some (s.flash.opPct.toNat * 2 ^ 24 + s.flash.wearPct.toNat * 2 ^ 16 + s.flash.grownBad.toNat)
  | 0x10 => some s.flash.retry.toNat
  | 0x14 => some s.flash.uncorr.toNat
  | _ => none

/-- The operator slot of a session's debug authorization (R562). -/
def authOf (s : State) (n : Nat) : Option (Fin 4) := Tbl.get none n s.sec.auths

/-- Words of the perturbation block and of the debug authorization, as session `n` reads them (Tables 16.8, 19.4). -/
def ptbWord (s : State) (n off : Nat) : Option Nat :=
  if off < 0x100 then
    let p := s.perturb (off / 16)
    match off % 16 with
    | 0 => some (bit p.active * 2 ^ 31 + p.kind.toNat * 2 ^ 16 + p.session.toNat)
    | 4 => some p.target.toNat
    | 8 => some p.amount.toNat
    | _ => some (if p.left = 0xFFFFFFFF#32 then 0xFFFFFFFF else (p.left.toNat * 100000 - (s.now - p.since) + 99999) / 100000)
  else if off = 0xF000 then
    some (match s.authOf n with
      | some k => 2 ^ 31 + k.val * 2 ^ 29
      | none => 0)
  else if 0xF010 ≤ off ∧ off < 0xF030 then
    some (match Tbl.get none n s.sec.challenges with
      | some c => leNat ((c.1.drop (off - 0xF010)).take 4)
      | none => 0)
  else if 0xF100 ≤ off ∧ off < 0xF280 then some 0
  else none

/-- The word that stands at an address, in effect (R10), as session `n` reads it; a write-only field reads 0. -/
def word (s : State) (n a : Nat) : Option Nat :=
  if a % 4 ≠ 0 then none
  else if 0x00080000 ≤ a ∧ a < 0x00100000 then
    some (leNat (((s.entry ((a - 0x00080000) / 128)).bytes.drop (a % 128)).take 4))
  else if 0x00100000 ≤ a ∧ a < 0x00110000 then s.mgmtWord (a - 0x00100000)
  else if 0x01000000 ≤ a ∧ a < 0x01800000 then s.basinWord ((a - 0x01000000) / 0x100000) (a % 0x100000)
  else if 0x02000000 ≤ a ∧ a < 0x02010000 then s.fabWord (a - 0x02000000)
  else if 0x03000000 ≤ a ∧ a < 0x03010000 then s.ethWord (a - 0x03000000)
  else if 0x04000000 ≤ a ∧ a < 0x04010000 then s.memWord (a - 0x04000000)
  else if 0x05000000 ≤ a ∧ a < 0x05010000 then s.flsWord (a - 0x05000000)
  else if 0x06000000 ≤ a ∧ a < 0x06000000 + 1088 * 0x1000 then s.tileWord ((a - 0x06000000) / 0x1000) (a % 0x1000)
  else if 0x0F000000 ≤ a ∧ a < 0x0F010000 then s.ptbWord n (a - 0x0F000000)
  else none

/-- A read of one word by session `n`: 0 where no word stands (R438); a read of TIM_NOW_LO latches TIM_NOW_HI (R575). -/
def readWord (s : State) (n a : Nat) : BitVec 32 × State :=
  let v := BitVec.ofNat 32 ((s.word n a).getD 0)
  if a = 0x00100008 then (v, { s with time := { s.time with latchHi := BitVec.ofNat 32 (s.now / 2 ^ 32) } }) else (v, s)

/-- `k` words from address `a`. -/
def readWords (s : State) (n a : Nat) : Nat → List (BitVec 32) × State
  | 0 => ([], s)
  | k + 1 =>
    let r := s.readWord n a
    let q := r.2.readWords n (a + 4) k
    (r.1 :: q.1, q.2)

/-! ### Writing -/

/-- The bits of the word at an address that are not reserved. -/
def usedBits (a : Nat) : Nat :=
  if 0x00100000 ≤ a ∧ a < 0x00110000 then
    match a - 0x00100000 with
    | 0x000 => 0xFFFF0000 | 0x100 => 0xFFFFFFF0 | 0x104 => 0xFFFFFC00 | _ => 0xFFFFFFFF
  else if 0x01000000 ≤ a ∧ a < 0x01800000 then
    let off := a % 0x100000
    match off / 16 with
    | 0x4 => if off = 0x40 then 0xFFFF0003 else if off = 0x48 then 0x0FF0FFFF else 0xFFFFFFFF
    | 0x5 => 0xFFFF
    | 0x6 => 0xFCFCFCFC
    | 0x8 => if off = 0x80 then 0xFF else if off = 0x84 then 0xFFFF else if off = 0x88 then 0xFFC0FFFF else 0xF
    | 0x9 => if off = 0x90 then 0xF0F00000 else 0xFF00FFFF
    | 0x10 => 0xFFFF
    | 0x20 => 0xFFFFFF
    | 0x21 => 0xFFFF
    | 0x30 => 0x07FF07FF
    | 0x40 => 0x1FFF0FFF
    | _ => 0xFFFFFFFF
  else if 0x02000000 ≤ a ∧ a < 0x02010000 then
    if a = 0x02000000 then 0xFF else if 0x02001000 ≤ a ∧ a % 16 = 0 then 0xFC00FF03 else 0xFFFFFFFF
  else if 0x03000000 ≤ a ∧ a < 0x03010000 then
    match a - 0x03000000 with
    | 0x00 => 0xFFFFF3 | 0x04 => 1 | 0x08 => 0xF0000000 | 0x28 => 0xFFFF | _ => 0xFFFFFFFF
  else if a = 0x04000000 then 0xF3
  else if a = 0x05000000 then 0xF07
  else if a = 0x05000004 then 0x1FFFFF
  else if 0x06000000 ≤ a ∧ a < 0x06000000 + 1088 * 0x1000 then
    if a % 0x1000 = 0x11C then 1 else if a % 0x1000 = 0x120 then 0xFFFF else 0xFFFFFFFF
  else if 0x0F000000 ≤ a ∧ a < 0x0F000100 then (if a % 16 = 0 then 0x80FFFFFF else 0xFFFFFFFF)
  else if a = 0x0F00F000 then 0xE0000003
  else 0xFFFFFFFF

/-- A write carries a non-zero bit in a reserved field (R7). -/
def reservedSet (a : Nat) (v : BitVec 32) : Bool := (v &&& ~~~(BitVec.ofNat 32 (usedBits a))) != 0#32

/-- A class L write, held for the next rack tick (Table 0.2). -/
def queueLive (s : State) (n a : Nat) (v : BitVec 32) : State := { s with live := s.live ++ [(a, v, n)] }

/-- A basin leaves its slice: slice_id 0, its staged words take effect at the next tick, and the member list forgets it on this
device (R451, R622). -/
def leaveSlice (s : State) (b : Nat) : State :=
  let id := (s.basin b).sliceId.toNat
  let me := s.fab.position.toNat
  let s1 := s.modBasin b fun x => { x with sliceId := 0, keeper := Keeper.fresh, part := LockPart.fresh }
  { s1 with fab := { s1.fab with members := s1.fab.members.map fun m =>
    if m.1 = id then (m.1, m.2.filter fun e => !(e.1 == me && e.2 == b)) else m } }

/-- The ranges of manifest entries that contexts other than (b, c) hold. -/
def otherRanges (s : State) (b c : Nat) : List (Nat × Nat) :=
  (List.range 8).flatMap fun i => ((s.basin i).existing.filter fun k => !(i == b && k == c)).map fun k =>
    (((s.basin i).manCtx k).base.toNat, ((s.basin i).manCtx k).count.toNat)

/-- A range of manifest entries meets another one (R467, R468). -/
def rangeMeets (base count : Nat) (l : List (Nat × Nat)) : Bool :=
  l.any fun r => decide (base < r.1 + r.2) && decide (r.1 < base + count)

/-- A write of BSN_MAN_CTX_c (R468). -/
def writeManCtx (s : State) (n a b c : Nat) (v : BitVec 32) : Status × State :=
  let count := v.toNat / 2 ^ 16
  let base := v.toNat % 2 ^ 12
  if 4096 < base + count ∨ (0 < count ∧ rangeMeets base count (s.otherRanges b c)) then (.badParam, s)
  else if s.man.entries.any fun e => e.2.st != .free && e.2.basin == b && e.2.ctx == c && !(decide (base ≤ e.1) && decide (e.1 < base + count)) then
    (.wrongState, s)
  else (.ok, s.queueLive n a v)

/-- A staged word of a basin: DEFERRED, in effect at the slice's next lockage, or at the next tick in no slice (Table 0.2). The keeper
hears of the item (R138). -/
def stageWord (s : State) (b off : Nat) (v : BitVec 32) : Status × State :=
  (.deferred, (s.modBasin b fun x => stage x off v s.now).itemPending b none)

/-- The mooring capacity of a context may be `v`: not above max_expert_rows of a loaded cut with a grouped phrase (R197). -/
def capOk (s : State) (b c v : Nat) : Bool :=
  ((s.basin b).loaded c).all fun h => decide (h.maxExpert = 0) || decide (v ≤ h.maxExpert)

/-- The ways of a context as they would stand with pending values (R233). -/
def pendingWays (x : Basin) (c : Nat) : BitVec 16 :=
  match (x.armed ++ x.staged).reverse.find? fun w => w.off == 0x210 + 4 * c with
  | some w => w.value.setWidth 16
  | none => x.ways c

/-- A write of BSN_LC_WAYS_c gives no way to two contexts, counting pending values. -/
def waysOk (s : State) (b c : Nat) (v : BitVec 32) : Bool :=
  (List.range 4).all fun k => decide (k = c) || decide (pendingWays (s.basin b) k &&& v.setWidth 16 = 0#16)

/-- A write of a word of basin `b`, its reserved bits being 0. -/
def writeBasin (s : State) (n a b off : Nat) (v : BitVec 32) : Status × State :=
  let x := s.basin b
  let c := off / 4 % 4
  match off / 16 with
  | 0x4 =>
    if off ≠ 0x40 then (.ok, s)
    else if !x.stopped then (.busyLocked, s)
    else if v.toNat / 2 ^ 16 = 0 then (.ok, s.leaveSlice b)
    else (.ok, s.modBasin b fun y => { y with sliceId := BitVec.ofNat 16 (v.toNat / 2 ^ 16) })
  | 0x8 => if off = 0x80 then (if 198 < v.toNat then (.badParam, s) else s.stageWord b off v) else (.ok, s)
  | 0x9 => if off = 0x94 then (.ok, s.queueLive n a v) else (.ok, s)
  | 0x10 => if !(x.ctx c).exist then (.badParam, s) else if s.capOk b c v.toNat then s.stageWord b off v else (.planMismatch, s)
  | 0x20 => if (x.ctx c).exist then (.ok, s) else (.badParam, s)
  | 0x21 => if !(x.ctx c).exist ∨ !s.waysOk b c v then (.badParam, s) else s.stageWord b off v
  | 0x30 => if (x.ctx c).exist then (.ok, s) else (.badParam, s)
  | 0x40 => if (x.ctx c).exist then s.writeManCtx n a b c v else (.badParam, s)
  | _ => (.ok, s)

/-- A write of a word of the Ethernet port: its locked words need the port in reset (R399); Tables 11.1 and 11.2 bound their
fields. DESIGN CHOICE: a value out of range answers BAD_PARAM before a running block answers BUSY_LOCKED (log entry 55). -/
def writeEth (s : State) (n a : Nat) (v : BitVec 32) : Status × State :=
  let off := a - 0x03000000
  match off with
  | 0x00 =>
    let w := v.toNat
    if w / 2 ^ 18 % 8 = w / 2 ^ 21 % 8 ∨ (w.testBit 16 ∧ (w / 16 % 4096 = 0 ∨ w / 16 % 4096 = 4095)) ∨ w % 4 = 3 then (.badParam, s)
    else if !s.eth.portReset then (.busyLocked, s)
    else (.ok, { s with eth := { s.eth with
      pfcB := BitVec.ofNat 3 (w / 2 ^ 21), pfcA := BitVec.ofNat 3 (w / 2 ^ 18), pfcEn := w.testBit 17, vlanEn := w.testBit 16,
      vlanId := BitVec.ofNat 12 (w / 16), mode := BitVec.ofNat 2 w } })
  | 0x04 => (.ok, s.queueLive n a v)
  | 0x10 => if s.eth.portReset then (.ok, { s with eth := { s.eth with ip4 := v } }) else (.busyLocked, s)
  | _ =>
    if 0x14 ≤ off ∧ off < 0x24 then
      if s.eth.portReset then (.ok, { s with eth := { s.eth with ip6 := Tbl.set 0#32 ((off - 0x14) / 4) v s.eth.ip6 } }) else (.busyLocked, s)
    else (.ok, s)

/-- Every perturbation slot that session `n` set clears (R563). -/
def clearPerturbs (s : State) (n : Nat) : State :=
  let s1 := { s with ptbNext := s.ptbNext.filter fun p => !(p.2.active && p.2.session.toNat == n) }
  (List.range 16).foldl (fun t i =>
    if (t.perturb i).active && (t.perturb i).session.toNat == n then t.setPerturb i Perturb.fresh else t) s1

/-- The debug authorization of session `n` ends, with its perturbations, its challenge and its response words (R563, Table 16.9). -/
def endAuth (s : State) (n : Nat) : State :=
  if (s.authOf n).isSome then
    ({ s with sec := { s.sec with auths := Tbl.set none n none s.sec.auths, challenges := Tbl.set none n none s.sec.challenges,
                                  resp := Tbl.clear (96 * n) 96 s.sec.resp } }).clearPerturbs n
  else s

/-- The central DRBG's entropy source gives `n` bytes; no rule fixes them (log entry 4). -/
def entropy (s : State) (n : Nat) : List Byte × State := (natLe n s.free.1, s.free.2)

/-- `n` bytes from the central DRBG (R560). -/
def draw (s : State) (n : Nat) : List Byte × State :=
  let r := s.sec.drbg.draw n
  (r.1, { s with sec := { s.sec with drbg := r.2 } })

/-- A new challenge of 32 bytes from the DRBG, bound to session `n` for 60 s (Table 16.8). -/
def drawChallenge (s : State) (n : Nat) : State :=
  let f := s.draw 32
  let f2 := f.2
  { f2 with sec := { f2.sec with challenges := Tbl.set none n (some (f.1, s.now)) f2.sec.challenges } }

/-- An operator slot that is programmed, not revoked, and holds its modulus (R552, R553, R562). -/
def opSlotOk (s : State) (k : Nat) : Bool :=
  s.sec.opProg.getLsbD k && !s.sec.opRev.getLsbD k && !(Tbl.get [] k s.sec.opStored).isEmpty

/-- SHA-256 of the identity key's modulus, the report's identity field (R555). -/
def identityDigest (s : State) : List Byte := sha256 (natBe 384 s.sec.identity.1)

/-- The operator slot, programmed and not revoked, under whose stored modulus `sig` signs `m` (R410, R544, R562). -/
def signer (s : State) (sig m : List Byte) : Option (Fin 4) :=
  [0, 1, 2, 3].find? fun (k : Fin 4) => s.opSlotOk k.val && rsaVerify (Tbl.get [] k.val s.sec.opStored) sig m

/-- A response of session `n` is verified: within 60 s of the challenge, a signature by an operator slot over the challenge, the session
number and the identity field (R562; DEDUCED: the SHA-256 is that of RSASSA-PSS, log entry 57). -/
def verifyAuth (s : State) (n : Nat) (sig : List Byte) : Status × State :=
  let void : Status × State := (.notPermitted, { s with sec := { s.sec with challenges := Tbl.set none n none s.sec.challenges } })
  match Tbl.get none n s.sec.challenges with
  | some c =>
    if s.now ≤ c.2 + 6000000000 then
      match s.signer sig (c.1 ++ natBe 2 n ++ s.identityDigest) with
      | some k => (.ok, { s with sec := { s.sec with auths := Tbl.set none n (some k) s.sec.auths } })
      | none => void
    else void
  | none => void

/-- The signature that the response words of session `n` hold, byte 0 in the low byte of the first (Table 16.8). -/
def respBytes (s : State) (n : Nat) : List Byte :=
  (List.range 96).flatMap fun j => natLe 4 (Tbl.get 0#32 (96 * n + j) s.sec.resp).toNat

/-- A write of a word of the perturbation block or of the debug authorization (R561, R562, R618): the control word acts at the next tick, a
response word at the write, whose status is the verdict. -/
def writePtb (s : State) (n off : Nat) (v : BitVec 32) : Status × State :=
  if off = 0xF000 then (.ok, s.queueLive n (0x0F000000 + off) v)
  else if 0xF100 ≤ off ∧ off < 0xF280 then
    let s1 := { s with sec := { s.sec with resp := Tbl.set 0#32 (96 * n + (off - 0xF100) / 4) v s.sec.resp } }
    if off = 0xF27C then ((s1.verifyAuth n (s1.respBytes n)).1, s1.queueLive n (0x0F000000 + off) v) else (.ok, s1)
  else (.ok, s)

/-- A device-level block held in reset (R11): the LPDDR5X controllers while RESET_n is low, the FTL and the fabric before their step
of Table 18.6. -/
def blockStopped (s : State) (a : Nat) : Bool :=
  if a / 2 ^ 24 = 4 then s.pins.lpddrReset else if a / 2 ^ 24 = 5 then decide (s.pins.step.toNat < 6) else decide (s.pins.step.toNat < 7)

/-- A write of one word by an OPERATOR session `n`, or of BSN_SLC_CAP_c by a tenant. DESIGN CHOICE: for MEM_CFG and FLS_CFG too a value out of
range answers BAD_PARAM before a running block answers BUSY_LOCKED (log entry 55). -/
def writeWord (s : State) (n a : Nat) (v : BitVec 32) : Status × State :=
  if 0x00080000 ≤ a ∧ a < 0x00100000 then (.notPermitted, s)
  else if (s.word n a).isNone ∨ reservedSet a v then (.badParam, s)
  else if 0x01000000 ≤ a ∧ a < 0x01800000 then s.writeBasin n a ((a - 0x01000000) / 0x100000) (a % 0x100000) v
  else if a = 0x02000000 then
    if s.blockStopped a then (.ok, { s with fab := { s.fab with valid := v.getLsbD 7, position := v.setWidth 7 } }) else (.busyLocked, s)
  else if 0x02001000 ≤ a ∧ a < 0x02001600 ∧ a % 16 = 0 then (.ok, s.queueLive n a v)
  else if 0x03000000 ≤ a ∧ a < 0x03010000 then s.writeEth n a v
  else if a = 0x04000000 then
    let r := v.toNat / 16 % 4
    if r = 0 ∨ r = 3 then (.badParam, s)
    else if s.blockStopped a then
      (.ok, { s with memDev := { s.memDev with density := BitVec.ofNat 2 (v.toNat / 64), ranks := BitVec.ofNat 2 r, speed := v.setWidth 2 } })
    else (.busyLocked, s)
  else if a = 0x05000000 then
    if v.toNat % 8 = 7 then (.badParam, s)
    else if s.blockStopped a then
      (.ok, { s with flash := { s.flash with luns := BitVec.ofNat 2 (v.toNat / 1024), targets := BitVec.ofNat 2 (v.toNat / 256), speed := v.setWidth 3 } })
    else (.busyLocked, s)
  else if a = 0x05000010 ∨ a = 0x05000014 then (.ok, s.queueLive n a v)
  else if 0x06000000 ≤ a ∧ a < 0x06000000 + 1088 * 0x1000 ∧ a % 0x1000 = 0x11C then (.ok, s.queueLive n a v)
  else if 0x0F000000 ≤ a then s.writePtb n (a - 0x0F000000) v
  else (.ok, s)

/-- Words written in ascending address, with the status of each (R12). -/
def writeWords (s : State) (n a : Nat) : List (BitVec 32) → List Status × State
  | [] => ([], s)
  | v :: vs =>
    let r := s.writeWord n a v
    let q := r.2.writeWords n (a + 4) vs
    (r.1 :: q.1, q.2)

/-! ### Effects of class L writes at the next rack tick -/

/-- A write of FAB_LINK_n's admin field (Table 10.12): held DOWN, recalibrate now under R380, retrain, or automatic. -/
def linkAdmin (s : State) (l v : Nat) : State :=
  let s1 := s.modLink l fun k => { k with admin := BitVec.ofNat 2 v }
  match v % 4 with
  | 1 => s1.setLink l .down
  | 2 => if (s.link l).st ≠ .active then s1
    else if s.removable l then s1.removeLink l
    else s1.modLink l fun k => { k with adminDue := true }
  | 3 => (s1.modLink l fun k => { k with attempts := 0 }).setLink l .training
  | _ => if (s.link l).st = .down ∧ (s.link l).admin = 1 then s1.setLink l .training else s1

/-- ETH_CTL: a write of 1 holds the port in reset, a write of 0 releases it and it trains (Table 11.2, R493). -/
def portReset (s : State) (on : Bool) : State :=
  if on then { s with eth := { s.eth with portReset := true, st := 0, xoff := [], paused := [] } }
  else if s.eth.portReset then { s with eth := { s.eth with portReset := false, st := 1 } }
  else s

/-- One class L write takes effect. DESIGN CHOICE: TIL_ARITH_CLEAR zeroes the last sample with the counters, so counts since then are charged to
nobody (R87; log entry 56). -/
def applyLive (s : State) (w : Nat × BitVec 32 × Nat) : State :=
  let a := w.1
  let v := w.2.1
  if 0x01000000 ≤ a ∧ a < 0x01800000 then
    let b := (a - 0x01000000) / 0x100000
    let off := a % 0x100000
    if off = 0x94 then s.modBasin b fun x => { x with st := { x.st with window := BitVec.ofNat 8 (v.toNat / 2 ^ 24), total := v.setWidth 16 } }
    else if off / 16 = 0x40 then s.modBasin b fun x => { x with
      man := Tbl.set ManCtx.fresh (off / 4 % 4) { count := BitVec.ofNat 13 (v.toNat / 2 ^ 16), base := v.setWidth 12 } x.man }
    else s
  else if 0x02001000 ≤ a ∧ a < 0x02001600 then s.linkAdmin ((a - 0x02001000) / 16) (v.toNat % 4)
  else if a = 0x03000004 then s.portReset (v.getLsbD 0)
  else if a = 0x05000010 then { s with flash := { s.flash with retry := v } }
  else if a = 0x05000014 then { s with flash := { s.flash with uncorr := v } }
  else if 0x06000000 ≤ a ∧ a < 0x06000000 + 1088 * 0x1000 then
    if v.getLsbD 0 then s.modTile ((a - 0x06000000) / 0x1000) fun x => { x with cnt := TileCnt.zero, base := TileCnt.zero } else s
  else if a = 0x0F00F000 then
    let s1 := if v.getLsbD 1 then s.endAuth w.2.2 else s
    if v.getLsbD 0 then s1.drawChallenge w.2.2 else s1
  else if a = 0x0F00F27C then (s.verifyAuth w.2.2 (s.respBytes w.2.2)).2
  else s

end State

end Sys2Proof.Machine
end

