-- ==== Sys2Proof/Machine/Recovery.lean ====
section
/-! DEFINITION. Recovery (chapter 15): crash dumps (R529-R532), basin reset and restoration (R524-R526), escalation (R533-R535),
re-admission (R537), failover (R510), and the generations (R503, R505, R506). -/

namespace Sys2Proof.Machine

/-! ### Generations -/

/-- The generation after `g`: one more, skipping 0 (R503). -/
def nextGen (g : BitVec 16) : BitVec 16 := if g + 1 = 0 then 1 else g + 1

namespace State

/-- The generation of basin `b` advances: every tile that held the old one takes the new one in the same tick (R506), and GEN goes
to the slice (R505). -/
def advanceGen (s : State) (b : Nat) : State :=
  let g := (s.basin b).gen
  let n := nextGen g
  let s1 := (basinTiles b).foldl (fun t i => if (t.tile i).gen = g then t.modTile i fun x => { x with gen := n } else t) s
  let s2 := s1.modBasin b fun x => { x with gen := n }
  match s2.ordinal b with
  | some o => s2.sendSlice b (.gen o n.toNat)
  | none => s2

/-! ### Crash dumps -/

/-- Bytes of free content. -/
def freeBytes (s : State) (n : Nat) : List Byte × State := (natLe n s.free.1, s.free.2)

/-- A list of bytes cut or filled with zeros to `n`. -/
def padTo (n : Nat) (l : List Byte) : List Byte := l.take n ++ List.replicate (n - l.length) 0#8

/-- A flit's payload in bytes. -/
def flitBytes (f : Flit) : List Byte := padTo 64 (f.payload.flatMap fun w => natLe 4 w.toNat)

/-- A trace record in bytes (R611). -/
def traceBytes (r : TraceRec) : List Byte := natLe 8 r.tick ++ [r.source, r.ctx] ++ natLe 6 r.data.toNat

/-- Bytes of a unit's image that Table 19.2 sizes. DESIGN CHOICE: the sizes of the others are the implementation's (log entry 32). -/
def unitBytes (kind : Nat) : Nat :=
  match kind with
  | 0x01 => 18432 | 0x02 => 4096 | 0x03 => 4096 | 0x05 => 16384 | 0x06 => 32768 | 0x07 => 256 | 0x08 => 256 | 0x09 => 1048576
  | 0x12 => 0
  | k => Config.boardConfig (16 + k) % 65536

/-- The image of a unit at the time of the dump (Table 19.2): state words, flits, accumulator blocks, barge headers and trace records as they
stand, in the order of the table's text, and free bytes where the spec gives no layout (log entry 32). -/
def unitImage (s : State) (kind index : Nat) : List Byte × State :=
  let f := s.freeBytes (unitBytes kind)
  match kind with
  | 0x01 =>
    let x := s.tile index
    let words := (List.range 256).flatMap fun i => natLe 4 ((s.tileWord index (4 * i)).getD 0)
    let acc := (List.range 2048).flatMap fun i => natLe 4 (Tbl.get 0#32 i x.mem.acc).toNat
    let inputs := (List.range 4).flatMap fun d => padTo 128 ((Tbl.get [] d x.net.inq).flatMap fun e => flitBytes e.2)
    (words ++ inputs ++ f.1.take 512 ++ padTo 8192 (x.net.egress.flatMap fun f => flitBytes f.flit) ++ acc, f.2)
  | 0x03 => ((List.range 1024).flatMap fun i => natLe 4 ((s.basinWord index (4 * i)).getD 0), s)
  | 0x06 => ((List.range 1024).flatMap fun i => hdrImage (Tbl.get BargeSlot.fresh i (s.basin index).eng.slots).hdr, s)
  | 0x07 => (f.1.take 252 ++ natLe 4 ((s.memWord (0x100 + 8 * index)).getD 0), f.2)
  | 0x09 => (padTo 1048576 ((Tbl.get [] index s.trace.buf).flatMap traceBytes), s)
  | 0x12 => ([], s)
  | _ => f

/-- Units of a basin dump (R615). -/
def basinUnits (b : Nat) (full : Bool) : List (Nat × Nat) :=
  (if full then (basinTiles b).map fun t => (0x01, t) else []) ++ ((List.range 16).map fun p => (0x02, 16 * b + p)) ++
    [(0x03, b), (0x04, 2 * b), (0x04, 2 * b + 1), (0x05, b), (0x06, b)] ++ ((List.range 4).map fun i => (0x07, 4 * b + i)) ++
    ((List.range 4).map fun i => (0x08, 4 * b + i)) ++ (if full then [(0x09, b)] else [])

/-- Units of a device dump (R615). -/
def deviceUnits : List (Nat × Nat) :=
  [(0x10, 0), (0x10, 1), (0x11, 0), (0x12, 0)] ++ (List.range 8).flatMap fun b => basinUnits b false

/-- The engine reads the units of a scope; a unit that does not answer is marked, with what was read before (R530). -/
def readUnits (s : State) (bad : List (Nat × Nat)) : List (Nat × Nat) → List ((Nat × Nat × Nat × Nat) × List Byte) × State
  | [] => ([], s)
  | u :: us =>
    let i := s.unitImage u.1 u.2
    if bad.contains u then
      let f := i.2.free
      let k := f.1 % max 1 (i.1.length / 4)
      let r := f.2.readUnits bad us
      (((u.1, u.2, k, 1), i.1.take (4 * k)) :: r.1, r.2)
    else
      let r := i.2.readUnits bad us
      (((u.1, u.2, i.1.length / 4, 0), i.1) :: r.1, r.2)

end State

/-- Bytes of a dump record with its header and directory (Table 15.4). -/
def Dump.bytes (d : Dump) : Nat := 64 + 12 * d.units.length + (d.images.map List.length).foldl (· + ·) 0

/-- The directory of a record; the offsets of the images follow one another. -/
def Dump.directory : Nat → List (Nat × Nat × Nat × Nat) → List (List Byte) → List Byte
  | o, u :: us, i :: is =>
    natLe 2 u.1 ++ natLe 2 u.2.1 ++ natLe 4 o ++ natLe 2 u.2.2.1 ++ natLe 1 u.2.2.2 ++ natLe 1 0 ++ Dump.directory (o + i.length) us is
  | _, _, _ => []

/-- A dump record as DUMP_READ returns it (Table 15.4). -/
def Dump.encode (d : Dump) : List Byte :=
  let n := d.units.length
  natLe 4 0x504D5544 ++ natLe 1 1 ++ natLe 1 d.cause.code ++ natLe 1 d.basins.toNat ++ natLe 1 (bit d.device + 2 * bit d.failover) ++
    natLe 8 d.tick ++ natLe 4 d.bytes ++ natLe 2 n ++ natLe 2 (d.units.filter fun u => u.2.2.2 == 1).length ++ natLe 40 0 ++
    Dump.directory (64 + 12 * n) d.units d.images ++ d.images.flatten

namespace State

/-- The engine's record is whole: into the retention SRAM where its 16 MiB have room beside the records that flash does not hold
yet, else into the next flash slot (R531). -/
def closeDump (s : State) : State :=
  match s.dumps.current with
  | none => s
  | some d =>
    let keep := s.dumps.retention.filter fun r => !s.dumps.flash.contains r
    if (keep.map Dump.bytes).foldl (· + ·) 0 + d.bytes ≤ 16 * 2 ^ 20 then
      { s with dumps := { s.dumps with current := none, retention := d :: keep } }
    else { s with dumps := { s.dumps with current := none, flash := (d :: s.dumps.flash).take 64 } }

/-- A dump of the given scope begins (R529, R530). -/
def takeDump (s : State) (cause : Cause) (mask : BitVec 8) (device failover : Bool) (tick : Nat) (bad units : List (Nat × Nat)) : State :=
  let s0 := s.closeDump
  let r := s0.readUnits bad units
  let d : Dump := { cause := cause, basins := mask, device := device, failover := failover, tick := tick, units := r.1.map (·.1), images := r.1.map (·.2) }
  let t := r.2
  { t with dumps := { t.dumps with current := some d } }

end State

/-- Causes whose fence takes a dump (R529). -/
def dumpCause : Cause → Bool
  | .commandTimeout | .stepTimeout | .lockDrain | .channel | .spares => true
  | _ => false

/-- CRASH_DUMP: at a fence of cause 1, 2, 3, 4 or 7, before the reset, the engine dumps the basin (R529, R530). -/
def crashDump (b : Nat) (bad : List (Nat × Nat)) (s : State) : State :=
  let x := (s.basin b).st
  if x.state ≠ .fenced ∨ x.draining ∨ !x.resetDue ∨ x.dumped ∨ !dumpCause x.cause then s
  else (s.takeDump x.cause (basinsMask [b]) false false x.fenceAt bad (State.basinUnits b true)).modBasin b fun y =>
    { y with st := { y.st with dumped := true } }

/-- CRASH_DUMP. -/
def execCrashDump (b : BasinId) (unresponsive : List (BitVec 16 × BitVec 16)) (s : State) : Host.Outcome State Fault Refusal :=
  .next (crashDump b (unresponsive.map fun u => (u.1.toNat, u.2.toNat)) s)

/-- One unit of a record is unresponsive: `k` of its words were read (R530). -/
def markUnit (kind index k : Nat) : List (Nat × Nat × Nat × Nat) → List (List Byte) → List (Nat × Nat × Nat × Nat) × List (List Byte)
  | u :: us, i :: is =>
    let r := markUnit kind index k us is
    if u.1 = kind ∧ u.2.1 = index ∧ u.2.2.2 = 0 then ((u.1, u.2.1, k % max 1 u.2.2.1, 1) :: r.1, i.take (4 * (k % max 1 u.2.2.1)) :: r.2)
    else (u :: r.1, i :: r.2)
  | us, is => (us, is)

/-- DUMP_READ_TIMEOUT: a read of 10 us does not return; the engine marks the unit and goes on (R530). -/
def dumpReadTimeout (kind index : Nat) (s : State) : State :=
  match s.dumps.current with
  | none => s
  | some d =>
    let f := s.free
    let r := markUnit kind index f.1 d.units d.images
    let f2 := f.2
    { f2 with dumps := { f2.dumps with current := some { d with units := r.1, images := r.2 } } }

/-- DUMP_READ_TIMEOUT. -/
def execDumpReadTimeout (kind index : BitVec 16) (s : State) : Host.Outcome State Fault Refusal :=
  .next (dumpReadTimeout kind.toNat index.toNat s)

/-- DUMP_COPY: management firmware copies the records of the retention SRAM to the crash-dump area, 64 slots in rotation (R531). -/
def dumpCopy (s : State) : State :=
  let s1 := s.closeDump
  let new := s1.dumps.retention.filter fun r => !s1.dumps.flash.contains r
  { s1 with dumps := { s1.dumps with flash := (new ++ s1.dumps.flash).take 64 } }

/-- DUMP_COPY. -/
def execDumpCopy (s : State) : Host.Outcome State Fault Refusal := .next (dumpCopy s)

/-- DUMP_EXPORT: while W5 is ACTIVE with a wharf endpoint, which holds no rack position, flash dumps go out on VC 41 (R532). -/
def dumpExport (s : State) : State :=
  let l := s.link 95
  if l.st ≠ .active ∨ l.partnerValid then s
  else
    let new := (s.dumps.flash.filter fun d => !s.dumps.exported.contains d).reverse
    let s1 := new.foldl (fun (t : State) (d : Dump) => t.send 0 (.link 95) (.dump d.tick)) s
    { s1 with dumps := { s1.dumps with exported := s1.dumps.exported ++ new } }

/-- DUMP_EXPORT. -/
def execDumpExport (s : State) : Host.Outcome State Fault Refusal := .next (dumpExport s)

/-! ### Escalation (R533-R535) -/

namespace State

/-- A notice to every OPERATOR session on both carriages (R535), over Ethernet to its target's address or that of its latest accepted command (R424). -/
def noticeBoth (s : State) (opcode : Nat) (st : Status) (body : List Byte) : State :=
  (s.sessionsWhere fun x => x.role == .operator).foldl (fun t n =>
    [Carriage.ethernet, Carriage.i3c].foldl (fun (u : State) (c : Carriage) =>
      match u.session n with
      | some x => (u.modSession n fun y => { y with noticeSeq := y.noticeSeq + 1 }).emitFrom n
          (s.noticePkt n (x.noticeSeq + 1) opcode c ((x.target.map (·.peer)).getD x.peer) st body)
      | none => u) t) s

/-- The device becomes OUT_OF_SERVICE: three basins RETIRED at once, or two unplanned failovers within an hour (R535). PG_RUN is
held low (Table 18.4). -/
def checkService (s : State) : State :=
  let retired := ((List.range 8).filter fun b => (s.basin b).st.state == .retired).length
  let recent := s.mgmt.failovers.filter fun t => decide (s.now < t + 360000000000)
  if s.mgmt.oos ∨ (retired < 3 ∧ recent.length < 2) then s
  else
    let f := s.free
    ({ f.2 with mgmt := { f.2.mgmt with oos := true }, pins := { f.2.pins with pgRun := false } }).noticeBoth 0x1006 .outOfService
      (natBe 2 7 ++ natBe 2 0 ++ natBe 4 0 ++ natBe 4 (f.1 % 2 ^ 32))

/-- RESET_BASIN and READMIT end in a basin once it serves, is RETIRED, or stays in READY (R502, R524, R526, R533). -/
def settleRecovery (s : State) (b : Nat) : State :=
  s.basinDoneAll (fun r => match r.cmd with | .resetBasin | .readmit _ => true | _ => false) b .ok

/-- A basin is RETIRED (R501, R533). -/
def retire (s : State) (b : Nat) (cause : Cause) : State :=
  let s1 := (s.modBasin b fun x => { x with st := { x.st with cause := cause, held := true, restoring := false, retireDue := false } }).setBState b .retired
  (s1.settleRecovery b).checkService

/-! ### Basin reset (R524, Table 15.2) -/

/-- An entry after the reset of its basin: what was HOT loads again, and the WARM copies of lost pages are COLD, with no page left (R524,
R525). -/
def resetEntry (lost : Bool) (r : ResEntry) : ResEntry :=
  let warm := r.warm && !lost
  let base : Residency := if warm then .warm else .cold
  let r1 := { r with warm := warm, replace := false, armed := false, pages := if lost then [] else r.pages }
  match r.state with
    | .hot => { r1 with state := .loading, target := .hot, prev := base, prevWarm := warm }
    | .warm => { r1 with state := base }
    | _ => r1

/-- A context after the reset of its basin (Table 15.2, R450, R466). -/
def resetCtx (lost : Bool) (y : Ctx) : Ctx :=
  { y with
    sems := [], skip := [], routes := [], arith := [], sluice := [], parity := [], barges := [],
    res := (y.res.map (resetEntry lost)).filter fun r => r.state != .cold }

/-- The LPDDR5X pages of a context are lost: zeroed, with what its requests had there; those of its objects return to the quota, and the
directory stands again with every slot to be rebuilt (R525). -/
def loseContext (s : State) (b c : Nat) : State :=
  let y := (s.basin b).ctx c
  let dl := s.basinLines
  let s1 := s.modBasin b fun x =>
    let z := ((x.zeroPages dl y.allPages).givePages c (y.res.flatMap (·.pages))).modCtx c fun u => { u with
      kvDir := u.kvDir.map fun k => (k.1, { k.2 with rebuild := true }), res := u.res.map fun r => { r with pages := [] } }
    y.kvDir.foldl (fun v k => v.storeKv dl c k.1) z
  s1.man.entries.foldl (fun t e =>
    if e.2.ctx = c ∧ e.2.active then
      if e.2.basin = b then t.endRequest e.1 true .parityUnrecovered
      else if (t.servingBasins e.2).contains b then kvFailure b e.1 t
      else t
    else t) s1

/-- Hard PPR of the rows queued in basin `b` (R234): one that the DRAM reports as complete returns its page to the pool. -/
def runPpr (s : State) (b : Nat) (ok : List Nat) : State :=
  let q := (s.basin b).dram.ppr
  let s1 := q.foldl (fun (t : State) (r : Nat) =>
    let good := ok.contains (r / 4)
    t.modChan (4 * b + r % 4) fun h => { h with
      pprPending := h.pprPending - 1, pprDone := if good then satAdd h.pprDone 1 else h.pprDone,
      retired := if good then h.retired - 1 else h.retired }) s
  let mended := (q.map (· / 4)).filter fun p => ok.contains p
  (s1.modBasin b fun x => x.zeroPages s.basinLines mended).modBasin b fun x => { x with dram := { x.dram with
    ppr := [], retired := x.dram.retired.filter fun p => !(ok.contains p && q.any fun r => r / 4 == p) } }

/-- The basin's DRBG, instantiated from the central one (R560): 48 bytes, entropy and nonce. -/
def seedBasin (s : State) (b : Nat) : State :=
  let f := s.draw 48
  f.2.modBasin b fun x => { x with drbg := Drbg.instantiate f.1 }

/-- Steps 2 to 4 of R524 in basin `b`: what Table 15.2 does not keep is at its reset value (R6), every memory of its tiles zero, every cut
slot invalid, its NAND channel controllers sound with no command queued (R276). A slot that was valid is to be filled again, which `filling`
says. DESIGN CHOICE: BSN_DREDGE.phase, RW and in no row of Table 15.2, is kept (log entry 173). -/
def resetUnits (s : State) (b : Nat) (lost : List Nat) : State :=
  let x := s.basin b
  let kind := fun (k : ColKind) => if k = .failed then ColKind.failed else ColKind.spare
  let tested : Option Nat := if x.maint.bistState = 2 then some (tileNo b x.maint.bistRow.toNat x.maint.bistCol.toNat) else none
  let s1 := (basinTiles b).foldl (fun t i => t.modTile i fun y =>
    { Tile.fresh with
      gen := if ((x.row (i / 34 % 4)).kindOf (i % 34)) = some .failed then 0 else x.gen,
      maint := { y.maint with dirty := [], scrubbing := false, lastTest := if tested = some i then 2 else y.maint.lastTest,
                              testTick := if tested = some i then s.now else y.maint.testTick } }) s
  s1.modBasin b fun y => { y with
    drops := 0
    rowmap := y.rowmap.map fun m => (m.1, { m.2 with aKind := kind m.2.aKind, bKind := kind m.2.bKind })
    slots := y.slots.map fun k => (k.1, { k.2 with valid := false, filling := k.2.valid })
    cut := { y.cut with lateLock := 0, lateResume := 0, voided := 0, selfFence := 0 }
    part := LockPart.fresh
    keeper := Keeper.fresh
    sluice := Sluice.fresh
    par := ParCnt.fresh
    brg := y.brg.map fun c => (c.1, { c.2 with inUse := 0 })
    eng := BargeEng.fresh
    dram := { y.dram with cache := [], clock := 0, moving := 0, flaky := [] }
    nandFault := 0
    maint := { y.maint with bistState := 0, bistRow := 0, bistCol := 0, skipped := 0, failed := 0, move := none, moveHeld := false,
                            moveForTest := false }
    ctxs := y.ctxs.map fun c => (c.1, resetCtx (lost.contains c.1) c.2)
    pounds := []
    queues := []
    imageDue := if y.imageArmed then some 0 else y.imageDue
    imageArmed := false }

/-- The rate at which every channel of a set trains (R224): a failure at one rate lowers it, down to 6,400 MT/s. -/
def trainedRate (fails : List (Nat × Nat)) : Nat → Nat
  | 0 => 0
  | r + 1 => if fails.any fun f => f.2 == r + 1 then trainedRate fails r else r + 1

/-- Channels train (R224): all at the next lower rate while one fails, with the change recorded in MEM_CFG. DESIGN CHOICE: the training of a
basin's reset lowers MEM_CFG for the device (log entry 58). -/
def train (s : State) (fails : List (Nat × Nat)) : State :=
  { s with memDev := { s.memDev with speed := BitVec.ofNat 2 (trainedRate fails s.memDev.speed.toNat) } }

/-- A channel fails at 6,400 MT/s, which keeps its basin OFFLINE (R224). -/
def untrained (s : State) (fails : List (Nat × Nat)) (m : Nat) : Bool :=
  decide (trainedRate fails s.memDev.speed.toNat = 0) && fails.any fun f => f.1 == m && f.2 == 0

/-- Steps 1 to 4 of R524: the basin stands in RESETTING with its units reset and its memories zero. -/
def resetDown (s : State) (b : Nat) (selfRefreshOk : Bool) : State :=
  let s1 := (s.voidSlice b).setBState b .resetting
  let lost := if selfRefreshOk then (s1.basin b).st.lost else ((s1.basin b).ctxs.map (·.1))
  let s2 := lost.foldl (fun t c => t.loseContext b c) s1
  let s3 := s2.resetUnits b lost
  let s4 := { s3 with trace := { s3.trace with recording := Tbl.set false b false s3.trace.recording,
                                               basins := s3.trace.basins &&& ~~~(basinsMask [b]) } }
  s4.modBasin b fun x => { x with st := { x.st with lost := [], resetDue := false, dumped := false } }

/-- Step 5 of R524: the basin enters INIT with its channels retrained, its PPRs run, its DRBG instantiated and a new generation; a channel that
fails at the lowest rate leaves it OFFLINE (R224). `s0` holds the rate at which the training began. -/
def resetUp (s0 : State) (b : Nat) (pprOk : List Nat) (fails : List (Nat × Nat)) (s4 : State) : State :=
  let s5 := (List.range 4).foldl (fun t i => t.modChan (4 * b + i) fun h => { h with
    st := if s0.untrained fails (4 * b + i) then .untrained else .open }) s4
  let s6 := s5.runPpr b pprOk
  if (List.range 4).any fun i => s0.untrained fails (4 * b + i) then s6.setBState b .offline
  else (((s6.modBasin b fun x => { x with st := { x.st with restoring := true } }).seedBasin b).advanceGen b).setBState b .init

/-- Steps 1 to 5 of R524. -/
def resetCore (s : State) (b : Nat) (selfRefreshOk : Bool) (pprOk : List Nat) (fails : List (Nat × Nat)) : State :=
  let d := s.resetDown b selfRefreshOk
  d.resetUp b pprOk fails (d.train fails)

end State

/-- BASIN_RESET: after the drain, and after the dump where one is due, and with MEM_PG high (Table 18.10), the basin resets without touching its neighbours (R524); the
fourth reset within 15 minutes and a row's third failure leave it RETIRED (R501, R533), and a thermal fence during the reset
leaves it FENCED (Table 15.9). -/
def basinReset (b : Nat) (selfRefreshOk : Bool) (pprOk : List Nat) (fails : List (Nat × Nat)) (s : State) : State :=
  let x := (s.basin b).st
  if x.state ≠ .fenced ∨ x.draining ∨ !x.resetDue ∨ (dumpCause x.cause ∧ !x.dumped) ∨ !s.pins.memPg then s
  else
    let s1 := (s.closeDump.resetCore b selfRefreshOk pprOk fails).modBasin b fun y => { y with st := { y.st with
      window := satAdd y.st.window 1, total := satAdd y.st.total 1, resets := y.st.resets ++ [s.now] } }
    if x.retireDue then s1.retire b x.cause
    else if 4 ≤ (s1.basin b).st.window.toNat then (s1.retire b .escalation).noticeOpen 6 b
    else if x.thermalDue then
      (s1.modBasin b fun y => { y with st := { y.st with cause := .thermal, thermalDue := false, fenceAt := s.now, released := false } }).setBState b .fenced
    else if (s1.basin b).st.state = .offline then s1.settleRecovery b
    else s1

/-- BASIN_RESET. -/
def execBasinReset (b : BasinId) (selfRefreshOk : Bool) (pprOk : List (BitVec 19)) (trainFailed : List (Fin 4 × BitVec 2)) (s : State) :
    Host.Outcome State Fault Refusal :=
  .next (basinReset b selfRefreshOk (pprOk.map BitVec.toNat) (trainFailed.map fun f => (4 * b.val + f.1.val, f.2.toNat)) s)

/-- RESET_WINDOW_DECAY: resets older than 15 minutes leave the window (R533). -/
def resetWindowDecay (b : Nat) (s : State) : State :=
  let x := (s.basin b).st
  let old := (x.resets.filter fun t => decide (t + 90000000000 ≤ s.now)).length
  s.modBasin b fun y => { y with st := { y.st with
    resets := y.st.resets.filter fun t => decide (s.now < t + 90000000000),
    window := BitVec.ofNat 8 (y.st.window.toNat - old) } }

/-- RESET_WINDOW_DECAY. -/
def execResetWindowDecay (b : BasinId) (s : State) : Host.Outcome State Fault Refusal := .next (resetWindowDecay b s)

/-! ### Restoration (R524 steps 6 and 7, R526) -/

namespace State

/-- A restored basin of a slice enters SERVING: it reports DRAINED to its keeper, which resumes the slice by a lockage (R137, R521,
R524 step 7). DEDUCED (log entry 43): a basin in no slice has no keeper to report to and stays in READY, so that SET_ROUTES, which
R381 gives to installation, meets no basin in SERVING. The commands that waited for it end. -/
def enterServing (s : State) (b : Nat) : State :=
  if (s.ordinal b).isNone then
    ((s.modBasin b fun x => { x with st := { x.st with held := false, restoring := false } }).setBState b .ready).settleRecovery b
  else
    let s1 := (s.modBasin b fun x => { x with
      st := { x.st with held := true, restoring := false },
      cut := { x.cut with lockState := if x.cut.hasSlot then .drained else .idle },
      part := { x.part with reported := true },
      pounds := x.pounds.map fun p => (p.1, { p.2 with held := true }) }).setBState b .serving
    let s2 := s1.toKeeper b (.drained ((s1.ordinal b).getD 0) (s1.unsyncOf b))
    lockageStart b [] (s2.settleRecovery b)

/-- The objects of basin `b` whose restoration is under way, as (context, model, edition). -/
def restores (s : State) (b : Nat) : List (Nat × Nat × Nat) :=
  (s.basin b).ctxs.flatMap fun c => (c.2.res.filter fun r => r.state == .loading && r.target == .hot).map fun r => (c.1, r.model, r.edition)

/-- An object whose pages were lost takes pages again, for its embeddings or its WARM copy (R228, R525, R607). -/
def regainPages (s : State) (b c m e : Nat) : State :=
  match s.resOf b c m e, s.object m e with
  | some r, some o =>
    if r.pages.isEmpty then
      let l := (s.basin b).quotaPages c (o.lanePages r.lane (r.target == .hot))
      s.modBasin b fun x => (x.usePages c l).modCtx c fun y => y.modRes m e fun q => { q with pages := l }
    else s
  | _, _ => s

/-- An object is HOT in context `c` of basin `b`: weights and cut images in SRAM, embeddings in its pages (R283, R285). -/
def setHot (s0 : State) (b c m e : Nat) : State :=
  let s1 := s0.regainPages b c m e
  let s := match s1.resOf b c m e with
    | some r => if r.warm then s1 else s1.layPages b c r.pages (s1.laneChunkList m e r.lane true)
    | none => s1
  let lane := s.laneOfRes b c m e
  let most := (((s.laneShards m e lane).filter fun i => shardKind i.2 == 0).map fun i => shardChunks i.2).foldl max 0
  ((s.placeLane b c m e lane).modBasin b fun x => x.modCtx c fun y => y.modRes m e fun r => { r with state := .hot, chunks := most }).noticeResidency b c m e

/-- Slot `k` of basin `b` is filled again from the cut store and tagged with the slice's epoch, unless R502 refuses its share. -/
def refillSlot (s : State) (b k : Nat) : State :=
  let z := (s.basin b).slot k
  let c := z.ctx.toNat
  match s.cutPayload b c z.model z.edition z.cutId.toNat with
  | some l =>
    let h := { parseShare z.model z.edition l with routes := s.shareRoutes b c (parseShare z.model z.edition l) }
    if (s.basin b).maint.excluded = 0 ∨ s.shareOk b c l h then
      (s.fillSlot b c k z.model z.edition z.cutId.toNat l).modBasin b fun x => x.modSlot k fun y =>
        { y with valid := true, filling := false, tag := x.cut.epoch }
    else s.modBasin b fun x => x.modSlot k fun y => { y with filling := false }
  | none => s.modBasin b fun x => x.modSlot k fun y => { y with filling := false }

/-- The active slot's cut stands as at its start: sequencers, queues, link-slot maps and route records (Table 3.13). -/
def restartCut (s : State) (b : Nat) : State :=
  let x := s.basin b
  match x.activeSlot.bind fun k => (x.shareOf k).map fun h => (k, h) with
  | none => s.modBasin b fun y => { y with cut := { y.cut with hasSlot := false, lockState := .idle, cutId := 0 } }
  | some (k, h) =>
    let c := (x.slot k).ctx.toNat
    let s1 := s.modBasin b fun y => (y.modCtx c fun z => { z with routes := h.routes })
    let s2 := s1.modBasin b fun y => { y with queues := h.queues }
    let depth := fun q => (s2.queueOf b q).depth
    let s3 := s2.modBasin b fun y => { y with pounds := loadPounds h c depth }
    (basinTiles b).foldl (fun t i => t.modTile i (switchTile k false (h.queues.map (·.1)))) s3

/-- A basin that a failed restoration left in READY serves again (R526): its active slot is filled anew where it is not valid, and the cut stands as at
its start. -/
def rejoin (s : State) (b : Nat) : State :=
  let s1 := match (s.basin b).activeSlot with
    | some k => if ((s.basin b).slot k).valid then s else s.refillSlot b k
    | none => s
  (s1.restartCut b).enterServing b

/-- Start-up has reached step 12 once no basin waits for its restoration (Table 18.6). -/
def startDone (s : State) : State :=
  if s.pins.step = 11 ∧ !((List.range 8).any fun b => (s.basin b).st.restoring) then { s with pins := { s.pins with step := 12 } } else s

/-- Steps 6 and 7 of R524 in a basin that stands in INIT. -/
def restore (s : State) (b : Nat) (ok : Bool) : State :=
  let objs := s.restores b
  let slots := (List.range 4).filter fun k => ((s.basin b).slot k).filling
  let s0 := (s.modBasin b fun x => { x with st := { x.st with restoring := false } }).setBState b .ready
  if ok then
    let s1 := objs.foldl (fun t o => t.setHot b o.1 o.2.1 o.2.2) s0
    let s2 := (slots.foldl (fun t k => t.refillSlot b k) s1).restartCut b
    let degraded := (s2.basin b).maint.excluded ≠ 0
    let holds := (List.range 4).any fun k => ((s2.basin b).slot k).valid
    if degraded ∧ !holds then s2.settleRecovery b else s2.enterServing b
  else
    let s1 := objs.foldl (fun t o => (t.modBasin b fun x => x.modCtx o.1 fun y => y.modRes o.2.1 o.2.2 fun r => { r with state := .notReady }).noticeModel
      b o.1 .flashUncorrectable o.2.1 o.2.2 0 Residency.notReady.code (2 ^ b) []) s0
    let s2 := slots.foldl (fun t k => t.modBasin b fun x => x.modSlot k fun y => { y with filling := false }) s1
    (s2.modBasin b fun x => { x with st := { x.st with held := (s2.ordinal b).isSome } }).settleRecovery b

end State

/-- RESTORATION_COMPLETE: the objects that were HOT are HOT again and the slots filled, and the basin serves; a restoration that fails
leaves the object NOT_READY and the basin in READY with its slice held (R524, R526). PPRs that were queued when the basin entered INIT have run in this
pass, and `pprOk` names the pages whose repair the DRAM reports (R234). -/
def restorationComplete (b : Nat) (ok : Bool) (pprOk : List Nat) (s : State) : State :=
  let x := (s.basin b).st
  if (x.state = .init ∨ x.state = .ready) ∧ x.restoring then ((s.runPpr b pprOk).restore b ok).startDone else s

/-- RESTORATION_COMPLETE. -/
def execRestorationComplete (b : BasinId) (ok : Bool) (pprOk : List (BitVec 19)) (s : State) : Host.Outcome State Fault Refusal :=
  .next (restorationComplete b ok (pprOk.map BitVec.toNat) s)

/-! ### Re-admission (R537, Table 15.5) -/

namespace State

/-- READMIT of one basin in a state that Table 15.5 serves: a fence of the operator or of temperature ends without a reset; a basin
whose restoration was cut short restores first, and one that was RETIRED, whose reset is complete (R533), enters READY and restores there. -/
def readmitBasin (s : State) (b : Nat) : State :=
  let x := (s.basin b).st
  if x.state = .retired ∨ x.restoring then
    let s1 := s.modBasin b fun y => { y with st := { y.st with
      window := if x.state = .retired then 0 else y.st.window, resets := if x.state = .retired then [] else y.st.resets,
      restoring := true, resetDue := false } }
    let s2 := (s1.advanceGen b).setBState b .init
    if x.state = .retired then s2.setBState b .ready else s2
  else
    let s1 := (s.basin b).pounds.foldl (fun t p => t.haltPound b p.1) (s.voidSlice b)
    (s1.advanceGen b).enterServing b

end State

/-! ### Failover (R510, R511) -/

namespace State

/-- An activation of the management or flash-controller image that a device stop cuts off leaves the image staged (log entry 33); so
does a power loss for the basin image. -/
def cutActivation (s : State) (basins : Bool) : State :=
  let undo := fun (t : State) (i : Nat) => t.modImage i fun x => if x.st = .activating then { x with st := .verified } else x
  let s1 := if s.mgmt.activating then undo s 1 else s
  let s2 := undo s1 3
  if basins then undo s2 2 else s2

/-- A pause of the endpoint begins: packets that arrive are dropped and what leaves is held, for at most `bound` ticks (R511). How
long within the bound is open. -/
def beginPause (s : State) (bound : Nat) : State :=
  let f := s.free
  let f2 := f.2
  { f2 with ep := { f2.ep with pause := true, pauseEnd := s.now + 1 + f.1 % bound } }

/-- A TOKENS delivery that a pause held reaches the Ethernet MAC now: its delivery tick, and the deadline after it, are those of this tick (R347, R349). -/
def redate (s : State) (p : Pkt) : State :=
  let i := beNat (p.body.take 2)
  let e := s.entry i
  if p.opcode = 0x0604 ∧ e.st ≠ .free ∧ e.turnSeq = p.seq ∧ e.tLast = p.tick ∧ p.tick ≠ 0 then
    s.putEntry i { e with
      tFirst := if e.tFirst = p.tick then s.now else e.tFirst
      tLast := s.now
      maxTbt := if e.tPrev = 0 then e.maxTbt else min 0xFFFFFFFF (max e.maxTbt (s.now - e.tPrev))
      deadline := if e.deadline = deadlineOf p.tick e.nextBudget then deadlineOf s.now e.nextBudget else e.deadline }
  else s

/-- The pause ends: what was held goes to its carriage (R511). -/
def endPause (s : State) : State :=
  let w := s.ep.waiting
  let s1 := if s.fab.maskDue then ({ s with fab := { s.fab with maskDue := false } }).sendMask else s
  w.foldl (fun t p => (t.redate p).emit p) { s1 with ep := { s1.ep with pause := false, waiting := [] } }

end State

/-- WATCHDOG_FAILOVER: the active core stops answering for 10 ms; the standby takes over within a further 10 ms, the failed core is
dumped, and the failover counts toward OUT_OF_SERVICE (R510, R529, R535). -/
def watchdogFailover (s : State) : State :=
  let c := s.mgmt.core
  let s1 := s.beginPause 1000000
  let s2 := s1.takeDump .none 0 false true s.now [] [(0x10, c)]
  let s3 := { s2 with
    mgmt := { s2.mgmt with core := 1 - c, failovers := (s2.mgmt.failovers.filter fun t => decide (s.now < t + 360000000000)) ++ [s.now] },
    sec := { s2.sec with failoverSeen := true } }
  (s3.noticeOpen 8 c).checkService

/-- WATCHDOG_FAILOVER. -/
def execWatchdogFailover (s : State) : Host.Outcome State Fault Refusal := .next (watchdogFailover s)

end Sys2Proof.Machine
end

