-- ==== Sys2Proof/Machine/Clockwork.lean ====
section
/-! DEFINITION. Rack time (R566-R575): frames of the time port, the towpath copy, holdover and slips, and what acts at a tick
or at a jump. -/

namespace Sys2Proof.Machine

/-- One bit of the CRC-8 of Table 17.1: polynomial 0x07, most significant bit first. -/
def crc8Bit (c : BitVec 8) (x : Bool) : BitVec 8 :=
  if c.msb != x then (c <<< 1) ^^^ 7#8 else c <<< 1

/-- CRC-8 over the 64 bits of V, initial value 0 (Table 17.1). -/
def crc8 (v : BitVec 64) : BitVec 8 := (List.range 64).foldl (fun (c : BitVec 8) (i : Nat) => crc8Bit c (v.getLsbD (63 - i))) 0#8

/-- A frame passes its preamble and its CRC (R566, R568). -/
def frameOk (preamble : Byte) (v : BitVec 64) (crc : Byte) : Bool := preamble == 0xA5#8 && crc == crc8 v

namespace State

/-- The fields of rack time changed by `f`. -/
def modTime (s : State) (f : Time → Time) : State := { s with time := f s.time }

/-- A change of level or duty goes to the trace of every basin (Table 19.1). -/
def tracePower (s old : State) : State :=
  if s.power.level = old.power.level ∧ s.power.duty = old.power.duty then s
  else (List.range 8).foldl (fun (t : State) (b : Nat) => t.record b 7 0#8 (data48 t.power.level.toNat t.power.duty.toNat 0)) s

/-- A duty that waits acts when the counter reaches or passes a multiple of 256 (R582). -/
def dutyTick (s : State) (old : Nat) : State :=
  match s.power.nextDuty with
  | some n => if s.now % 256 = 0 ∨ old / 256 < s.now / 256 then
      State.tracePower { s with power := { s.power with duty := n, nextDuty := none } } s
    else s
  | none => s

/-- At a marker a device that holds rack time sends TIME on every ACTIVE towpath link (R570). DEDUCED (log entry 194): one in holdover sends it too, with the
hop count 15 that says it holds no time. -/
def sendTime (s : State) : State :=
  if !s.time.locked ∧ !s.time.holdover then s
  else ((List.range 6).map (84 + ·)).foldl (fun t n =>
    if (t.link n).st = .active then t.sendFrom 0 none (.link n) (.time t.now t.time.hops.toNat t.time.source.toNat) else t) s

/-- The counter takes a value: what waits for a skipped tick acts at the jump, and a marker is one for the towpath (R568). -/
def loadTime (s : State) (v : BitVec 64) : State :=
  let old := s.now
  let s1 := (s.modTime fun t => { t with now := v }).dutyTick old
  if s1.now % 2 ^ 20 = 0 then s1.sendTime else s1

/-- The towpath neighbour with the lowest hop count below 15, ties to the lowest link (R571): link and hop count. -/
def towpathSource (s : State) : Option (Nat × Nat) :=
  let live := ((List.range 6).map (84 + ·)).filterMap fun n =>
    let h := Tbl.get 15 n s.time.peers
    if (s.link n).st = .active ∧ h < 15 then some (n, h) else none
  live.foldl (fun best x => match best with
    | some y => if x.2 < y.2 then some x else some y
    | none => some x) none

/-- The time port has failed: the towpath copy, or holdover where no neighbour has time (R571, R572). -/
def leavePort (s : State) : State :=
  match s.towpathSource with
  | some (n, h) => s.modTime fun t => { t with
      source := 2, locked := true, holdover := false, hops := BitVec.ofNat 4 (h + 1), lockedTo := some n, unsync := false }
  | none =>
    if s.time.locked then s.modTime fun t => { t with source := 0, locked := false, holdover := true, hops := 15, lockedTo := none, lostAt := s.now }
    else s

/-- The time port is the source. -/
def onPort (s : State) : Bool := s.time.source == 1 && s.time.locked

end State

/-- A missed marker (R568, R571): it counts once the device has acquired rack time, and the fourth in a row loses the port. -/
def missMarker (s : State) : State :=
  let held := s.time.locked || s.time.holdover
  let s1 := s.modTime fun t => { t with
    missed := if held then satAdd t.missed 1 else t.missed, missRun := t.missRun + 1, frame := none }
  if s1.time.missRun ≥ 4 ∧ s1.time.source ≠ 2 ∧ (s1.onPort ∨ !held) then s1.leavePort else s1

/-- TSYNC_FRAME: the marker of a frame, one that TSYNC did not carry among them (its preamble is then 0). Locked to the port, the
device compares, and loads with a slip; otherwise the second of two valid frames 2^20 apart acquires rack time (R567, R568,
R571). -/
def tsyncFrame (preamble : Byte) (v : BitVec 64) (crc : Byte) (s : State) : State :=
  if !frameOk preamble v crc then missMarker s
  else if s.onPort then
    let s1 := s.modTime fun t => { t with missRun := 0 }
    if v = s1.time.now then s1 else (s1.modTime fun t => { t with slips := satAdd t.slips 1 }).loadTime v
  else if s.time.frame = some (v - 0x100000#64).toNat then
    let had := s.time.locked || s.time.holdover
    let s1 := s.modTime fun t => { t with
      source := 1, locked := true, holdover := false, hops := 0, frame := none, missRun := 0, lockedTo := none, unsync := false }
    if v = s1.time.now then s1
    else if had then (s1.modTime fun t => { t with slips := satAdd t.slips 1 }).loadTime v
    else s1.loadTime v
  else s.modTime fun t => { t with frame := some v.toNat }

/-- TSYNC_FRAME. -/
def execTsyncFrame (preamble : Byte) (v : BitVec 64) (crc : Byte) (s : State) : Host.Outcome State Fault Refusal :=
  .next (tsyncFrame preamble v crc s)

/-- TCLK_LOSS: TCLK shows no edge for 100 ns (R571). -/
def tclkLoss (s : State) : State :=
  let s1 := s.modTime fun t => { t with missRun := max t.missRun 4, frame := none }
  if s1.time.source = 2 then s1 else s1.leavePort

/-- TCLK_LOSS. -/
def execTclkLoss (s : State) : Host.Outcome State Fault Refusal := .next (tclkLoss s)

/-- TIME: a towpath neighbour gives its time. A device locked to that link loads V at the tick of arrival less the link delay; one
whose time port has failed locks to its best neighbour; a source that holds no time any more is left (R570, R571). -/
def timeMsg (n : Nat) (v : BitVec 64) (hops delay : Nat) (s : State) : State :=
  if n < 84 ∨ 90 ≤ n then s
  else
    let s1 := s.modTime fun t => { t with peers := Tbl.set 15 n hops t.peers }
    let s2 :=
      if s1.time.source = 2 then
        if s1.time.lockedTo = some n then
          (if hops < 15 then s1.modTime fun t => { t with hops := BitVec.ofNat 4 (hops + 1) } else s1.leavePort)
        else s1
      else if s1.onPort ∨ s1.time.missRun < 4 then s1 else s1.leavePort
    let at_ := v + BitVec.ofNat 64 delay
    if s2.time.source = 2 ∧ s2.time.lockedTo = some n ∧ hops < 15 ∧ at_ ≠ s2.time.now then s2.loadTime at_ else s2

/-- TIME. -/
def execTime (n : LinkId) (v : BitVec 64) (hops : BitVec 4) (delayTicks : Nat) (s : State) : Host.Outcome State Fault Refusal :=
  .next (timeMsg n v hops.toNat delayTicks s)

/-- HOLDOVER: after 1 s without a source, LOCK_ACK and DRAINED of basins in slices that span devices go out unsynchronized (R572). -/
def holdover (s : State) : State :=
  if s.time.holdover ∧ s.time.lostAt + 100000000 ≤ s.now then s.modTime fun t => { t with unsync := true } else s

/-- HOLDOVER. -/
def execHoldover (s : State) : Host.Outcome State Fault Refusal := .next (holdover s)

end Sys2Proof.Machine
end

