-- ==== Sys2Proof/Machine/Pins.lean ====
section
/-! DEFINITION. Pins and supplies (R598-R603, R610): rails off, MEM_PG, SYS_RST_N, EXTEST, loss of the standby supply, the I3C
address, and the Ethernet link. -/

namespace Sys2Proof.Machine

/-! ### Rails off (R591, R599, Table 17.7) -/

/-- A residency entry as start-up finds it in the configuration record (R604, R607): HOT loads again, WARM loads again after it, the
rest is COLD. -/
def coldEntry (r : ResEntry) : ResEntry :=
  let was := if r.state = .loading then r.prev else r.state
  let r1 := { r with
    warm := false, prev := .cold, prevWarm := false, replace := false, armed := false, pages := [] }
  match was with
  | .hot => { r1 with state := .loading, target := .hot }
  | .warm => { r1 with state := .loading, target := .warm }
  | _ => { r1 with state := .cold }

/-- A context as the configuration record holds it: its definition, key and residency (R604); firmware keeps the pages of its KV directory. -/
def coldCtx (x : Ctx) : Ctx :=
  if x.exist then { Ctx.fresh with
    exist := true, slots := x.slots, pages := x.pages, key := x.key, dir := x.dir, res := (x.res.map coldEntry).filter fun r => r.state != .cold }
  else Ctx.fresh

/-- A row map as the repair log restores it (R121): its FAILED columns. DESIGN CHOICE: the second out-of-service column of a row with one FAILED
column keeps its last place, as SPARE (log entry 59). -/
def coldRow (m : RowMap) : RowMap :=
  if m.aKind = .failed ∨ m.bKind = .failed then
    { m with aKind := if m.aKind = .failed then .failed else .spare, bKind := if m.bKind = .failed then .failed else .spare }
  else { RowMap.fresh with failures := m.failures }

/-- Basin `b` without its rails: what the configuration record, the repair log and the standby supply keep (R121, R501, R604,
Table 0.1). -/
def coldBasin (b : Nat) (x : Basin) : Basin :=
  { Basin.fresh b with
    st := { (Basin.fresh b).st with window := x.st.window, resets := x.st.resets, total := x.st.total }
    sliceId := x.sliceId
    rowmap := x.rowmap.map fun m => (m.1, coldRow m.2)
    slots := x.slots.map fun k => (k.1, { k.2 with valid := false, tag := 0, filling := k.2.valid })
    sram := x.sram
    brg := x.brg.map fun c => (c.1, { c.2 with inUse := 0 })
    man := x.man
    dram := { (Basin.fresh b).dram with
      used := (x.ctxs.flatMap fun (c : Nat × Ctx) => if c.2.exist then c.2.dir else []), retired := x.dram.retired, ppr := x.dram.ppr,
      ways := x.dram.ways }
    maint := { (Basin.fresh b).maint with phase := x.maint.phase, excluded := x.maint.excluded, passWest := x.maint.passWest }
    ctxs := x.ctxs.map fun c => (c.1, coldCtx c.2)
    image := x.image }

namespace State

/-- The policy of the last BIST_POLICY comes into force (Table 12.14). -/
def bistTick (s : State) : State :=
  match s.mgmt.bistNext with
  | some (on, order, period, words) => { s with mgmt := { s.mgmt with
      bistOn := on, bistOrder := order, bistPeriod := period, bistParams := words, bistNext := none } }
  | none => s

/-! ### Pin states (R603, Table 18.5) -/

/-- The transmitters of fabric link `n`: off until step 7 begins for a towpath or wharf link, and step 9 for a switch link. -/
def linkDrive (s : State) (n : Nat) : PinDrive :=
  if s.pins.rails ∧ (if n < 84 then 8 else 6) ≤ s.pins.step.toNat then .driven else .highZ

/-- The Ethernet transmitters: off until step 10 begins. -/
def ethDrive (s : State) : PinDrive := if s.pins.rails ∧ 9 ≤ s.pins.step.toNat then .driven else .highZ

/-- NAND CE_n and WP_n: the supervisor holds a target deselected and write-protected until step 5 begins, and while the board's supplies are not good the pins
float. -/
def nandDrive (s : State) : PinDrive × PinDrive :=
  if !s.pins.rails ∧ !s.pins.vinOk then (.highZ, .highZ)
  else if s.pins.rails ∧ 4 ≤ s.pins.step.toNat then (.driven, .driven) else (.high, .low)

/-- The I3C pair: off before step 6, when the target answers its address (R601). -/
def i3cDrive (s : State) : PinDrive := if s.pins.rails ∧ (6 ≤ s.pins.step.toNat ∨ s.pins.recovery) then .driven else .highZ

/-- The supervisor turns the logic rails off: a device stop (R484). What stays is what flash, fuses and the standby supply keep; E starts again
at the safe cap, at most 300 W while SHED_N is low (Table 18.10). -/
def railsOff (s0 : State) : State :=
  let s := (s0.cutActivation true).bistTick
  { State.reset with
    pending := s.pending
    freeCtr := s.freeCtr
    time := { s.time with latchHi := 0 }
    flash := s.flash
    store := { s.store with forward := [] }
    fab := { State.reset.fab with valid := s.fab.valid, position := s.fab.position, devTable := s.fab.devTable, members := s.fab.members }
    eth := { State.reset.eth with
      pfcB := s.eth.pfcB, pfcA := s.eth.pfcA, pfcEn := s.eth.pfcEn, vlanEn := s.eth.vlanEn, vlanId := s.eth.vlanId, mode := s.eth.mode }
    memDev := { s.memDev with chans := s.memDev.chans.map fun c => (c.1, { MemChan.fresh with
      retired := c.2.retired, pprPending := c.2.pprPending, pprDone := c.2.pprDone }) }
    sec := { State.reset.sec with
      vendorHash := s.sec.vendorHash, identity := s.sec.identity, attestation := s.sec.attestation, drbg := { key := [], value := [], requests := 0 },
      vendorRev := s.sec.vendorRev, opProg := s.sec.opProg, opRev := s.sec.opRev, opHash := s.sec.opHash,
      opStored := s.sec.opStored, enforce := s.sec.enforce, images := s.sec.images }
    dumps := { s.dumps with current := none }
    mgmt := { State.reset.mgmt with
      bistOn := s.mgmt.bistOn, bistOrder := s.mgmt.bistOrder, bistPeriod := s.mgmt.bistPeriod, bistParams := s.mgmt.bistParams,
      logsSaved := s.mgmt.logsSaved, mem := s.mgmt.mem, bootFails := s.mgmt.bootFails }
    pins := { State.reset.pins with
      vinOk := s.pins.vinOk, memPg := s.pins.memPg, sysRst := s.pins.sysRst, rails := false, pgRail := false, alertN := true,
      step := 0, attempts := s.pins.attempts }
    power := { State.reset.power with
      shed := s.power.shed, boundary := s.power.boundary
      capE := if s.power.shed then 30000000 else State.reset.power.capE
      level := if s.power.shed then 25 else State.reset.power.level
      lowestLevel := if s.power.shed then 25 else State.reset.power.lowestLevel }
    basins := s.basins.map fun e => (e.1, coldBasin e.1 e.2) }

/-- The device takes work: its rails are on and start-up has passed step 6 (R600, R606). -/
def inService (s : State) : Bool := s.pins.rails && decide (6 ≤ s.pins.step.toNat)

end State

/-- SYS_RST_FALL: SYS_RST_N low for 10 us (R599). -/
def sysRstFall (s : State) : State :=
  let s1 := s.railsOff
  { s1 with pins := { s1.pins with sysRst := true } }

/-- SYS_RST_FALL. -/
def execSysRstFall (s : State) : Host.Outcome State Fault Refusal := .next (sysRstFall s)

/-- INPUT_COLLAPSE: VIN below 34 V turns the rails off; the standby supply keeps the logs (R591). -/
def inputCollapse (s : State) : State :=
  let s1 := s.railsOff
  { s1 with pins := { s1.pins with vinOk := false } }

/-- INPUT_COLLAPSE. -/
def execInputCollapse (s : State) : Host.Outcome State Fault Refusal := .next (inputCollapse s)

/-- STANDBY_SUPPLY_LOSS: with VIN and VSTBY both lost, every RWS field, the rack-time counter and the retention SRAM are clear (Table 0.1,
R580), and the FTL's counts fall back to their last saved values; the configuration record keeps its copies of the words (R604). -/
def standbyLoss (s : State) : State :=
  let s1 := s.railsOff
  let words := (List.range 8).map fun b => (b, (s.basin b).sliceId.toNat, (s.basin b).st.total.toNat)
  let put := fun (k v : Nat) (t : Tbl Nat) => if v = 0 then t else Tbl.set 0 k v t
  let rec1 := words.foldl (fun t w => put (16 + w.1) w.2.2 (put w.1 w.2.1 t)) s1.flash.record
  let s2 := { s1 with
    time := State.reset.time
    power := State.reset.power
    flash := { s1.flash with
      record := put 8 (if s1.fab.valid then 128 + s1.fab.position.toNat else s1.fab.position.toNat) (Tbl.set 0 24 1 rec1),
      retry := 0, uncorr := 0 }
    fab := { s1.fab with valid := false, position := 0 }
    dumps := { s1.dumps with retention := [] }
    mgmt := { s1.mgmt with logsSaved := false }
    pins := { s1.pins with vinOk := false, attempts := 0 } }
  (List.range 8).foldl (fun (t : State) (b : Nat) => t.modBasin b fun x => { x with
    sliceId := 0, st := { x.st with window := 0, resets := [], total := 0 } }) s2

/-- STANDBY_SUPPLY_LOSS. -/
def execStandbySupplyLoss (s : State) : Host.Outcome State Fault Refusal := .next (standbyLoss s)

/-! ### MEM_PG (Table 18.10) -/

/-- MEM_PG_FALL: after step 3 every basin is fenced with cause CHANNEL and LPDDR5X RESET_n is held low, which leaves nothing in the
channels' self-refresh (R525). -/
def memPgFall (s : State) : State :=
  let s1 := { s with pins := { s.pins with memPg := false } }
  if !s1.pins.rails then s1
  else
    let s2 := (List.range 8).foldl (fun (t : State) (b : Nat) =>
      if (t.basin b).st.state = .offline then t else
      (t.fence b .channel false).modBasin b fun x => { x with st := { x.st with lost := x.ctxs.map (·.1) } }) s1
    { s2 with pins := { s2.pins with lpddrReset := true } }

/-- MEM_PG_FALL. -/
def execMemPgFall (s : State) : Host.Outcome State Fault Refusal := .next (memPgFall s)

/-- MEM_PG_RISE: the supplies are good again; the basins' resets may run (Table 18.10). -/
def memPgRise (s : State) : State :=
  { s with pins := { s.pins with memPg := true, lpddrReset := if 11 ≤ s.pins.step.toNat then false else s.pins.lpddrReset } }

/-- MEM_PG_RISE. -/
def execMemPgRise (s : State) : Host.Outcome State Fault Refusal := .next (memPgRise s)

/-! ### Debug port, I3C address, Ethernet link -/

/-- EXTEST: unclaimed, or under the debug port's authorization, every basin is fenced with cause OPERATOR before a pin is driven
(R602). -/
def extest (s : State) : State :=
  if s.sec.opProg ≠ 0 ∧ s.authOf 0xFFFF = none then s
  else
    let s1 := (List.range 8).foldl (fun (t : State) (b : Nat) => if (t.basin b).st.state = .offline then t else t.fence b .operator false) s
    { s1 with pins := { s1.pins with extest := true } }

/-- EXTEST. -/
def execExtest (s : State) : Host.Outcome State Fault Refusal := .next (extest s)

/-- I3C_DYNAMIC_ADDRESS: the target answers from start-up step 6 on (R601). -/
def i3cAddress (a : BitVec 7) (s : State) : State :=
  if s.inService ∨ s.pins.recovery then { s with pins := { s.pins with i3cAddr := some a } } else s

/-- I3C_DYNAMIC_ADDRESS. -/
def execI3cDynamicAddress (address : BitVec 7) (s : State) : Host.Outcome State Fault Refusal := .next (i3cAddress address s)

/-- ETH_LINK_LOSS: packets in flight are lost and a full retrain starts (R427, R493). -/
def ethLinkLoss (s : State) : State :=
  if s.eth.st ≠ 2 then s
  else { s with
    eth := { s.eth with st := 1, xoff := [], paused := [], levels := [] }
    ep := { s.ep with waiting := if s.ep.pause then s.ep.waiting else s.ep.waiting.filter fun p => p.carriage == .i3c } }

/-- ETH_LINK_LOSS. -/
def execEthLinkLoss (s : State) : Host.Outcome State Fault Refusal := .next (ethLinkLoss s)

/-- ETH_TRAINING_COMPLETE: the port is UP in the mode that ETH_CFG selects (R394). -/
def ethTrained (mode : BitVec 2) (s : State) : State :=
  if s.eth.st = 1 ∧ !s.eth.portReset ∧ mode = s.eth.mode then { s with eth := { s.eth with st := 2, stMode := mode } } else s

/-- ETH_TRAINING_COMPLETE. -/
def execEthTrainingComplete (mode : BitVec 2) (s : State) : Host.Outcome State Fault Refusal := .next (ethTrained mode s)

end Sys2Proof.Machine
end

