-- ==== Sys2Proof/Machine/Power.lean ====
section
/-! DEFINITION. Power and temperature (R581-R593): the commanded and the effective cap, level and duty, fast shed, loss of the rack
manager, thermal thresholds and low input. Caps are in units of 10 uW (R585 moves them by whole units a tick). -/

namespace Sys2Proof.Machine

/-- A cap in W as units of 10 uW. -/
def wattUnits (w : Nat) : Nat := w * 100000

/-- A plan step comes into force at tick `t` (R585): C moves from its value there. While rm_lost is set C takes no rise, and while safe
is set a step above the safe cap leaves C falling to it (R589). -/
def Power.takeStep (p : Power) (t : Nat) (k : PlanStep) : Power :=
  let c := p.capAtTick t
  let safe := p.safe && decide (p.safeCap ≤ k.cap)
  let target := if safe then min c p.safeCap else if p.rmLost then min c k.cap else k.cap
  { p with capC := c, capAt := t, target := target, slew := if safe then 40 else k.slew, planSlew := k.slew }

/-- The lowest value of C in the ticks from `a` to `b` that is known at `a` (R586): C moves on straight lines, so its least value lies
at an end of one. -/
def lowestCap : List PlanStep → Power → Nat → Nat → Nat
  | [], p, a, b => min (p.capAtTick a) (p.capAtTick b)
  | k :: ks, p, a, b =>
    if k.start ≤ a then lowestCap ks (p.takeStep a k) a b
    else if k.start ≤ b then min (min (p.capAtTick a) (p.capAtTick k.start)) (lowestCap ks (p.takeStep k.start k) k.start b)
    else min (p.capAtTick a) (p.capAtTick b)

/-- E for the coming millisecond (R586): E' is the value before, m the lowest C; while rm_lost is set it takes no rise (R589). -/
def nextCap (e m slewUp : Nat) (noRise : Bool) : Nat :=
  if e ≤ m then (if noRise then e else min m (e + slewUp * 100000)) else max m (e - wattUnits 400)

/-- The power level (R581): the lower of E / 12 W and tau. -/
def levelOf (e tau : Nat) : Nat := min (e / wattUnits 12) tau

/-- The duty at a level (R581). -/
def dutyOf (l : Nat) : Nat := if 100 ≤ l then 256 else 256 * (12 * l - 230) / 970

namespace State

/-- The power state changed by `f`. -/
def modPower (s : State) (f : Power → Power) : State := { s with power := f s.power }

/-- The duty becomes `n`: at once in a tick that is a multiple of 256, else at the next (R582). -/
def setDuty (s : State) (n : Nat) : State :=
  if s.now % 256 = 0 then s.modPower fun p => { p with duty := BitVec.ofNat 9 n, nextDuty := none }
  else s.modPower fun p => { p with nextDuty := some (BitVec.ofNat 9 n) }

/-- Level and duty follow E and tau; in low input the rows stay gated (R581, R591). -/
def setLevel (s : State) : State :=
  let l := levelOf s.power.capE s.power.tau.toNat
  let s1 := s.modPower fun p => { p with level := BitVec.ofNat 7 l, lowestLevel := if l < p.lowestLevel.toNat then BitVec.ofNat 7 l else p.lowestLevel }
  (if s1.power.inputLow then s1 else s1.setDuty (dutyOf l)).tracePower s

/-- E takes a value. -/
def setCapE (s : State) (e : Nat) : State := (s.modPower fun p => { p with capE := e }).setLevel

/-- An overrun ends once E <= C: its energy in mJ goes out with NOTICE_POWER event 1 (R587). -/
def endEpisode (s : State) : State :=
  if s.power.inEpisode ∧ s.power.capE ≤ s.power.capAtTick s.now then
    let mj := s.power.episode / 10000000000
    (s.modPower fun p => { p with episode := 0, inEpisode := false }).noticePower 1 (mj % 2 ^ 32)
  else s

/-- One tick of overrun (R587): the energy of E above C. -/
def overrunTick (s : State) : State :=
  let c := s.power.capAtTick s.now
  if s.power.capE ≤ c then s.endEpisode
  else s.modPower fun p => { p with episode := p.episode + (p.capE - c), overrun := p.overrun + (p.capE - c), inEpisode := true }

/-- C settled at the present tick: its later motion starts here. -/
def settleCap (s : State) : State := s.modPower fun p => { p with capC := p.capAtTick s.now, capAt := s.now }

/-- What SET_CAP asked for acts at the next tick (R585): a fall at once, a rise at its slew. -/
def capTick (s : State) : State :=
  match s.power.capNext with
  | some (c, r) => s.modPower fun p => { p with capC := min c (p.capAtTick s.now), capAt := s.now, target := c, slew := r, capNext := none }
  | none => s

/-- A command of class 0x09 from an OPERATOR session is a heartbeat: it clears rm_lost and safe (R589). -/
def heartbeat (s : State) : State :=
  let was := s.power.rmLost || s.power.safe
  let s1 := s.settleCap.modPower fun p => { p with heartbeat := s.now, rmLost := false, safe := false }
  if was then s1.noticePower 6 0 else s1

end State

/-! ### Boundaries and plans -/

/-- POWER_BOUNDARY: at each tick that is a multiple of 100,000, or at a jump over one, tau and E are set for the coming millisecond
(R581, R586, R590, Table 17.10). -/
def powerBoundary (s : State) : State :=
  let k := s.now / 100000
  if k ≤ s.power.boundary then s
  else
    let tj := s.power.tj.toInt
    let tau := s.power.tau.toNat
    let hot := decide (s.power.thermal = 2) || (decide (s.power.thermal = 3) && decide (970 ≤ tj))
    let tau1 := if 1000 ≤ tj then max 25 (tau - 5) else if hot then tau else min 100 (tau + 1)
    let m := lowestCap s.power.plan s.power s.now (s.now + 100000)
    let e := nextCap s.power.capE m s.power.slew s.power.rmLost
    let e1 := if s.power.shed then min e (wattUnits 300) else e
    let s1 := s.modPower fun p => { p with boundary := k, tau := BitVec.ofNat 7 tau1, lowestLevel := BitVec.ofNat 7 (levelOf e1 tau1) }
    (s1.setCapE e1).endEpisode

/-- POWER_BOUNDARY. -/
def execPowerBoundary (s : State) : Host.Outcome State Fault Refusal := .next (powerBoundary s)

/-- PLAN_STEP: the plan steps whose start tick has come act in their order, with NOTICE_POWER event 0 (R585). -/
def planStep (s : State) : State :=
  let due := s.power.plan.filter fun k => decide (k.start ≤ s.now)
  let s1 := s.modPower fun p => { p with plan := p.plan.filter fun k => !decide (k.start ≤ s.now) }
  due.foldl (fun t k => (t.modPower fun p => p.takeStep t.now k).noticePower 0 0) s1

/-- PLAN_STEP. -/
def execPlanStep (s : State) : Host.Outcome State Fault Refusal := .next (planStep s)

/-! ### Fast shed (R588) -/

/-- SHED_FALL: E is at most 300 W at once. -/
def shedFall (s : State) : State :=
  if s.power.shed then s
  else
    let s1 := (s.modPower fun p => { p with shed := true }).setCapE (min s.power.capE (wattUnits 300))
    (s1.noticePower 2 0).endEpisode

/-- SHED_FALL. -/
def execShedFall (s : State) : Host.Outcome State Fault Refusal := .next (shedFall s)

/-- SHED_RISE: E rises again from the next boundary; one that falls in this tick still holds E at 300 W (Tables 17.2, 17.9). -/
def shedRise (s : State) : State :=
  if s.power.shed then ((powerBoundary s).modPower fun p => { p with shed := false }).noticePower 6 0 else s

/-- SHED_RISE. -/
def execShedRise (s : State) : Host.Outcome State Fault Refusal := .next (shedRise s)

/-! ### Loss of the rack manager (R589) -/

/-- RM_LOST: 1 s without a heartbeat. -/
def rmLost (s : State) : State :=
  if s.inService ∧ !s.power.rmLost ∧ s.power.heartbeat + 100000000 ≤ s.now then
    (s.settleCap.modPower fun p => { p with rmLost := true, target := min p.capC p.target }).noticePower 3 0
  else s

/-- RM_LOST. -/
def execRmLost (s : State) : Host.Outcome State Fault Refusal := .next (rmLost s)

/-- SAFE_CAP: 60 s without a heartbeat bring C down to the safe cap at 40 W/ms. -/
def safeCap (s : State) : State :=
  if s.inService ∧ !s.power.safe ∧ s.power.heartbeat + 6000000000 ≤ s.now then
    let s1 := s.settleCap
    let s2 := s1.modPower fun p => if p.safeCap < p.capC then { p with safe := true, target := min p.target p.safeCap, slew := 40 } else { p with safe := true }
    s2.noticePower 4 0
  else s

/-- SAFE_CAP. -/
def execSafeCap (s : State) : Host.Outcome State Fault Refusal := .next (safeCap s)

/-! ### Temperature (R590) -/

namespace State

/-- NOTICE_THERMAL of the level in force (Table 12.16). -/
def noticeThermal (s : State) : State :=
  let l := s.power.thermal.toNat
  s.noticeOps 0x1003 (if 2 ≤ l then .thermalLimited else .ok)
    (natBe 1 l ++ natBe 1 (if l = 3 then s.thermalFenced.toNat else 0xFF) ++ natBe 2 (s.power.tj.signExtend 16).toNat ++ natBe 4 0)

/-- Basins that stand fenced for temperature and are not released. -/
def hotBasins (s : State) : List Nat :=
  (List.range 8).filter fun b => (s.basin b).st.state == .fenced && (s.basin b).st.cause == .thermal && !(s.basin b).st.released

/-- The level of Table 17.7, with its hysteresis. -/
def thermalLevel (s : State) : Nat :=
  let tj := s.power.tj.toInt
  let was := s.power.thermal.toNat
  if s.hotBasins ≠ [] then 3
  else if 1000 ≤ tj ∨ (2 ≤ was ∧ 970 ≤ tj) then 2
  else if 950 ≤ tj ∨ (1 ≤ was ∧ 920 ≤ tj) then 1
  else 0

/-- The level is set, with a notice at each change. -/
def setThermal (s : State) : State :=
  let l := s.thermalLevel
  if l = s.power.thermal.toNat then s else (s.modPower fun p => { p with thermal := BitVec.ofNat 2 l }).noticeThermal

end State

/-- THERMAL_SAMPLE: one reading of every sensor, in 0.1 degC, the highest of each basin and of the management complex. At 120 degC the
supervisor turns the rails off; a basin at 110 degC is fenced (R590). -/
def thermalSample (basins : List Int) (management : Int) (s : State) : State :=
  let hot := basins.foldl max management
  if 1200 ≤ hot then s.railsOff
  else
    let temps := (List.range 8).map fun b => (b, (basins[b]?).getD management)
    let s1 := s.modPower fun p => { p with
      tj := BitVec.ofInt 12 hot, mgmtTemp := management,
      basinTemp := temps.foldl (fun t x => Tbl.set 0 x.1 x.2 t) p.basinTemp,
      coolSince := temps.foldl (fun t x =>
        if x.2 < 950 then (if Tbl.get 0 x.1 t = 0 then Tbl.set 0 x.1 (s.now + 1) t else t) else Tbl.set 0 x.1 0 t) p.coolSince }
    let s2 := temps.foldl (fun (t : State) (x : Nat × Int) =>
      if 1100 ≤ x.2 ∧ (t.basin x.1).st.state ≠ .offline then t.fence x.1 .thermal false else t) s1
    s2.setThermal

/-- THERMAL_SAMPLE. -/
def execThermalSample (basins : List Int) (management : Int) (s : State) : Host.Outcome State Fault Refusal :=
  .next (thermalSample basins management s)

/-- THERMAL_RELEASE: every sensor of a fenced basin below 95 degC for 1 s releases it; it stays FENCED until READMIT (R590). -/
def thermalRelease (b : Nat) (s : State) : State :=
  let x := (s.basin b).st
  let c := Tbl.get 0 b s.power.coolSince
  if x.state = .fenced ∧ x.cause = .thermal ∧ !x.released ∧ c ≠ 0 ∧ c - 1 + 100000000 ≤ s.now then
    (s.modBasin b fun y => { y with st := { y.st with released := true } }).setThermal
  else s

/-- THERMAL_RELEASE. -/
def execThermalRelease (b : BasinId) (s : State) : Host.Outcome State Fault Refusal := .next (thermalRelease b s)

/-! ### Low input (R591) -/

/-- INPUT_LOW: VIN below 40 V for more than 5 ms. Before step 6 the rails go off (Table 18.10); after it the rows stop, the channels
enter self-refresh, the logs are written, and limits and timeouts pause. -/
def inputLow (s : State) : State :=
  if !s.pins.rails ∨ s.power.inputLow then s
  else if s.pins.step.toNat < 6 then
    let s1 := s.railsOff
    { s1 with pins := { s1.pins with vinOk := false } }
  else
    let s1 := (s.modPower fun p => { p with inputLow := true, lowSince := s.now, duty := 0, nextDuty := none }).tracePower s
    let s2 := (List.range 32).foldl (fun (t : State) (m : Nat) =>
      t.modChan m fun c => if c.st = .untrained then c else { c with st := .selfRefresh }) s1
    ({ s2 with mgmt := { s2.mgmt with logsSaved := true }, pins := { s2.pins with vinOk := false } }).noticePower 5 0

/-- INPUT_LOW. -/
def execInputLow (s : State) : Host.Outcome State Fault Refusal := .next (inputLow s)

namespace State

/-- Step limits and command timeouts go on where they stood, `d` ticks later (R591). -/
def shiftLimits (s : State) (d : Nat) : State :=
  let s1 := (List.range 8).foldl (fun (t : State) (b : Nat) => t.modBasin b fun x => { x with
    pounds := x.pounds.map fun p => (p.1, if p.2.running then { p.2 with startTick := p.2.startTick + d } else p.2) }) s
  { s1 with ep := { s1.ep with running := s1.ep.running.map fun r => { r with
    deadline := r.deadline + d, shortDeadline := r.shortDeadline.map (· + d) } } }

end State

/-- INPUT_RESTORED: VIN at or above 42 V for 10 ms. The channels leave self-refresh, the rows resume, and E rises from 260 W (R591).
Before step 6 the supply is good again for start-up (Table 18.10). -/
def inputRestored (s : State) : State :=
  let s0 := { s with pins := { s.pins with vinOk := true } }
  if !s0.power.inputLow then s0
  else
    let s1 := (List.range 32).foldl (fun (t : State) (m : Nat) =>
      t.modChan m fun c => if c.st = .selfRefresh then { c with st := .open } else c) s0
    let s2 := (s1.shiftLimits (s.now - s.power.lowSince)).modPower fun p => { p with inputLow := false }
    ((s2.setCapE (wattUnits 260)).noticePower 6 0).endEpisode

/-- INPUT_RESTORED. -/
def execInputRestored (s : State) : Host.Outcome State Fault Refusal := .next (inputRestored s)

end Sys2Proof.Machine
end

