-- ==== Sys2Proof/Machine/Store.lean ====
section
/-! DEFINITION. The model store (R278-R302): STORE_BEGIN to STORE_VERIFY, intake over the weight chain, and residency (R283-R286,
R301). -/

namespace Sys2Proof.Machine

/-! ### Extents (R263, R265, R271) -/

/-- Bytes of an extent (R263). -/
def extentBytes : Nat := 16777216

/-- Extents that the objects of the store hold. -/
def State.usedExtents (s : State) : List Nat := s.store.objects.flatMap (·.extents)

/-- The first `n` numbers below `cap` that are not taken, from `k` upward. -/
def freeNumbers (taken : List Nat) (cap : Nat) : Nat → Nat → Nat → List Nat
  | 0, _, _ => []
  | _, 0, _ => []
  | f + 1, n + 1, k =>
    if cap ≤ k then [] else if taken.contains k then freeNumbers taken cap f (n + 1) (k + 1) else k :: freeNumbers taken cap f n (k + 1)

/-- Extents of a superblock: 512 KiB of each takes a place in each of its blocks (R263). -/
def State.superExtents (s : State) : Nat := s.flash.blockBytes / 524288

namespace State

/-- Extents that lie in a superblock. -/
def extentsIn (s : State) (k : Nat) : List Nat := (s.flash.map.filter fun e => e.2 != 0 && (e.2 - 1) / 65536 == k).map (·.1)

/-- Every block of a superblock is good; one with a bad block that no spare replaces takes no extents any more (R268). -/
def superGood (s : State) (k : Nat) : Bool := (List.range 32).all fun ch => !(s.block ch (s.blockIn ch k)).bad

/-- The highest erase count as a percentage of the rated endurance of the board configuration (Table 7.6). -/
def setWear (s : State) : State :=
  let most := (s.flash.blocks.map fun e => e.2.erases).foldl max 0
  { s with flash := { s.flash with wearPct := BitVec.ofNat 8 (min 255 (100 * most / max 1 (Config.boardConfig 1))) } }

/-- A change of the extent map, the superblock table or the catalog: one journal record before the reply (R264). -/
def journal (s : State) : State := { s with flash := { s.flash with journal := s.flash.journal + 1 } }

/-- Erases of the 32 blocks of a superblock together, which order superblocks as the mean does. -/
def superErases (s : State) (k : Nat) : Nat :=
  ((List.range 32).map fun ch => (s.block ch (s.blockIn ch k)).erases).foldl (· + ·) 0

/-- The first of some superblocks that no other of them is below in the measure `f`. -/
def leastOf (f : Nat → Nat) (l : List Nat) : Option Nat :=
  l.foldl (fun a k => match a with
    | none => some k
    | some j => if f k < f j then some k else some j) none

/-- The superblock that new extents go to next (R271): the free one with the lowest mean erase count. DESIGN CHOICE: among equals the lowest number,
and with no free one that which holds the fewest extents (log entry 63). -/
def nextSuper (s : State) (but : Option Nat) : Option Nat :=
  let all := (List.range s.flash.supers).filter fun k => s.flash.openSuper.map (·.1) != some k && but != some k && s.superGood k
  let free := all.filter fun k => (s.extentsIn k).isEmpty
  match leastOf s.superErases free with
  | some k => some k
  | none => leastOf (fun k => (s.extentsIn k).length) (all.filter fun k => (s.extentsIn k).length < s.superExtents)

/-- The map entry of an extent names a place (R263, R264). -/
def putExtent (s : State) (x k n : Nat) : State := { s with flash := { s.flash with map := Tbl.set 0 x (65536 * k + n + 1) s.flash.map } }

/-- Superblock `k` is erased and opened for new extents; extents that still lie in it are written back at its start. DESIGN CHOICE: blocks are erased when
their superblock is opened again (log entry 63). -/
def openAt (s : State) (k : Nat) : State :=
  let l := s.extentsIn k
  let s1 := (List.range 32).foldl (fun (t : State) (ch : Nat) => t.modBlock ch (t.blockIn ch k) fun y =>
    { y with reads := 0, page := 0, erases := y.erases + 1 }) s
  let s2 := (List.range l.length).foldl (fun (t : State) (n : Nat) => t.putExtent ((l[n]?).getD 0) k n) s1
  let s3 := ({ s2 with flash := { s2.flash with openSuper := some (k, l.length) } }).setWear
  if l.isEmpty then s3 else s3.journal

/-- The open superblock with a place left, opened where none is (R271). -/
def readyOpen (s : State) (but : Option Nat) : State :=
  let full := match s.flash.openSuper with
    | some o => decide (s.superExtents ≤ o.2) || but == some o.1 || !s.superGood o.1
    | none => true
  if full then
    let s1 := { s with flash := { s.flash with openSuper := none } }
    match s1.nextSuper but with
    | some k => s1.openAt k
    | none => s1
  else s

/-- An extent is written into a place of the open superblock, not of superblock `but`; its map entry goes to the journal (R264, R271). -/
def mapBut (s : State) (but : Option Nat) (x : Nat) : State :=
  let s1 := s.readyOpen but
  match s1.flash.openSuper with
  | some o => ((({ s1 with flash := { s1.flash with openSuper := some (o.1, o.2 + 1), patrolled := Tbl.set 0 x s.now s1.flash.patrolled } })).putExtent x
      o.1 o.2).journal
  | none => s1

/-- An extent is written. -/
def mapExtent (s : State) (x : Nat) : State := s.mapBut none x

/-- A copy of an extent that fails its check leaves its place unused until the superblock is erased. -/
def spoilPlace (s : State) (but : Option Nat) : State :=
  let s1 := s.readyOpen but
  { s1 with flash := { s1.flash with openSuper := s1.flash.openSuper.map fun o => (o.1, o.2 + 1) } }

end State

/-! ### STORE_BEGIN, STORE_DELETE, STORE_LIST -/

/-- STORE_BEGIN (R270, R289). -/
def runStoreBegin (p : StoreBeginP) (s : State) : Run :=
  let m := p.model.toNat
  let e := p.edition.toNat
  let need := max 1 ((p.bytes.toNat + extentBytes - 1) / extentBytes)
  let used := s.usedExtents
  if 1 < p.mode.toNat ∨ p.shards.toNat = 0 ∨ 16384 < p.shards.toNat ∨ (p.mode = 0 ∧ p.digest ≠ 0) ∨ (s.object m e).isSome then refuse s .badParam
  else if s.flash.opPct.toNat < 12 ∨ s.flash.capacity.toNat < used.length + need then refuse s .capacity
  else
    let xs := freeNumbers used s.flash.capacity.toNat (need + used.length) need 0
    let o : StoreObj := {
      model := m, edition := e, mode := p.mode.toNat, count := p.shards.toNat,
      intakeMs := if p.intakeMs = 0 then 600000 else p.intakeMs.toNat, opened := s.now, bytes := p.bytes.toNat,
      digest := p.digest, committed := false, damagedCommit := false, extents := xs, shards := [],
      upstream := 0xFF, downstream := 0xFF, source := 0, timedOut := false }
    let s1 := { s with store := { s.store with objects := s.store.objects ++ [o] } }
    took (xs.foldl State.mapExtent s1).journal (natBe 4 xs.length)

/-- STORE_DELETE (R302). -/
def runStoreDelete (m e : Nat) (s : State) : Run :=
  match s.object m e with
  | none => refuse s .wrongState
  | some o =>
    if (s.residents m e).any fun x => x.2.2.state == .hot || x.2.2.state == .warm || x.2.2.state == .loading then refuse s .wrongState
    else
      let s1 := (s.residents m e).foldl (fun (t : State) (x : Nat × Nat × ResEntry) => (t.freeRes x.1 x.2.1 x.2.2).modBasin x.1 fun y =>
        y.modCtx x.2.1 fun z => { z with res := z.res.filter fun r => !(r.model == m && r.edition == e) }) s
      took ({ s1 with
        store := { objects := s1.store.objects.filter fun q => !(q.model == m && q.edition == e),
                   forward := s1.store.forward.filter fun f => !(f.1 == m && f.2.1 == e) }
        flash := { s1.flash with
          map := o.extents.foldl (fun t x => Tbl.set 0 x 0 t) s1.flash.map,
          badExtents := s1.flash.badExtents.filter fun x => !o.extents.contains x } }).journal []

/-- A catalog entry of STORE_LIST (R440). -/
def StoreObj.listing (o : StoreObj) : List Byte :=
  natBe 4 o.model ++ natBe 2 o.edition ++ natBe 1 o.mode ++ natBe 1 (if o.committed then 1 else 0) ++ natBe 4 o.count ++
    natBe 4 o.damaged.length ++ natBe 4 o.missing.length ++ natBe 8 o.bytes ++ natBe 4 o.extents.length

/-- STORE_LIST (R440). -/
def runStoreList (first count : Nat) (s : State) : Run :=
  if count = 0 ∨ 256 < count then refuse s .badParam
  else
    let l := (s.store.objects.drop first).take count
    let more := if first + count < s.store.objects.length then 1 else 0
    .done { st := s, status := .ok, committed := l.length, touched := l.length,
            body := natBe 2 l.length ++ natBe 2 more ++ natBe 4 0 ++ l.flatMap StoreObj.listing }

/-! ### Intake (R279, R290, R439) -/

/-- Bytes of a shard image by its first piece: header, chunk-digest list and payload (R279, Table 7.8). -/
def imageBytes (first : List Byte) : Nat := shardHead first + shardField first 0x1C 4

/-- Pieces of a shard image (R439). -/
def imagePieces (first : List Byte) : Nat := (imageBytes first + 8191) / 8192

/-- A header that belongs to shard `i` of an object, with every field at a value of Table 7.8. -/
def headerOk (o : StoreObj) (i : Nat) (img : List Byte) : Bool :=
  decide (shardField img 0 4 = 0x44524853) && decide (shardField img 4 4 = o.model) && decide (shardField img 8 2 = o.edition) &&
    decide (shardKind img ≤ 2) && decide (shardField img 0x0B 1 = o.mode) && decide (shardField img 0x0C 4 = i) &&
    decide (shardField img 0x10 4 = o.count) && decide (shardLane img ≤ 7) &&
    (if shardKind img = 0 then decide (shardPos img ≤ 127) else decide (shardPos img = 0xFF)) &&
    decide (shardField img 0x1C 4 ≤ 65536 * shardChunks img) && (decide (shardKind img = 1) || decide (shardCut img = 0)) &&
    (o.digestMode || decide (shardField img 0x20 32 = 0)) && decide (shardField img 0x40 64 = 0)

/-- A whole image passes the checks of its object's mode (R281, R290): in CODES_ONLY mode every one that came with clean fabric codes (R293). -/
def intakeOk (o : StoreObj) (img : List Byte) : Bool := !o.digestMode || shardDigestsOk img

/-- The image that a table of pieces holds, in piece order. -/
def joinPieces (n : Nat) (t : Tbl (List Byte)) : List Byte := (List.range n).flatMap fun i => Tbl.get [] i t

/-- Extents that hold uncorrectable codewords are written anew once no shard of their object is damaged any more. -/
def State.mendExtents (s : State) (m e : Nat) : State :=
  match s.object m e with
  | none => s
  | some o =>
    let bad := if o.damaged.isEmpty then o.extents.filter fun x => s.flash.badExtents.contains x else []
    bad.foldl State.mapExtent { s with flash := { s.flash with badExtents := s.flash.badExtents.filter fun x => !bad.contains x } }

/-- A shard is acknowledged (R290): its image stands in the store, after the journal record. -/
def State.acknowledge (s : State) (m e i : Nat) (img : List Byte) : State :=
  ((s.modObject m e fun o => o.modShard i fun h =>
    { h with pieces := [], acked := true, damaged := false, image := img, off := o.placeFor i img.length, rerequests := 0 }).mendExtents m e).journal

/-- Bytes of the images of an object's acknowledged shards other than shard `i`. -/
def StoreObj.bytesBut (o : StoreObj) (i : Nat) : Nat :=
  (((List.range o.count).filter fun k => k != i && (o.shard k).acked).map fun k => imageBytes (o.shard k).image).foldl (· + ·) 0

/-- STORE_SHARD (R290, R292, R439): one piece of a shard image. DESIGN CHOICE: CAPACITY answers a shard that, beside the acknowledged ones, does not
fit the extents that STORE_BEGIN reserved (log entry 64). -/
def runStoreShard (m e i piece : Nat) (data : List Byte) (s : State) : Run :=
  match s.object m e with
  | none => refuse s .wrongState
  | some o =>
    let h := o.shard i
    if data.isEmpty ∨ 8192 < data.length ∨ o.count ≤ i then refuse s .badParam
    else if o.committed ∧ !h.damaged then refuse s .wrongState
    else if h.acked ∧ !h.damaged then
      .done { st := s, status := .ok, committed := imagePieces h.image, touched := imagePieces h.image, body := natBe 1 1 ++ natBe 7 0 }
    else
      let held := Tbl.get [] piece h.pieces
      let pieces := Tbl.set [] piece data h.pieces
      let first := Tbl.get [] 0 pieces
      let known := !first.isEmpty && decide (shardHead first ≤ 4194304)
      let n := imagePieces first
      let size := fun p => if p + 1 < n then 8192 else imageBytes first - 8192 * (n - 1)
      let fits := pieces.all fun p => decide (p.1 < n) && decide (p.2.length = size p.1)
      if (!held.isEmpty ∧ held ≠ data) ∨ (!known ∧ data.length < 8192) ∨ (known ∧ (!fits ∨ (o.digestMode ∧ !headerOk o i first))) then refuse s .badParam
      else if known ∧ extentBytes * o.extents.length < max (o.bytesBut i) (o.placeFor i (imageBytes first)) + imageBytes first then refuse s .capacity
      else
        let s1 := s.modObject m e fun q => q.modShard i fun g => { g with pieces := pieces }
        if !known ∨ pieces.length < n then
          .done { st := s1, status := .ok, committed := pieces.length, touched := pieces.length, body := natBe 1 0 ++ natBe 7 0 }
        else
          let img := joinPieces n pieces
          if intakeOk o img then
            let s2 := s.acknowledge m e i img
            .done { st := s2, status := .ok, committed := n, touched := n, body := natBe 1 1 ++ natBe 7 0 }
          else
            let s2 := s.modObject m e fun q => q.modShard i fun g => { g with pieces := [] }
            .done { st := s2, status := .digestMismatch, committed := 0, touched := n, body := natBe 1 2 ++ natBe 7 0 }

/-- Bits by index, least significant first in each byte. -/
def bitBytes (n : Nat) (f : Nat → Bool) : List Byte :=
  (List.range ((n + 7) / 8)).map fun j => BitVec.ofNat 8 (((List.range 8).map fun k =>
    if decide (8 * j + k < n) && f (8 * j + k) then 2 ^ k else 0).foldl (· + ·) 0)

/-- The object digest matches (R281). -/
def objectDigestOk (o : StoreObj) : Bool :=
  !o.digestMode || shaNum (o.images.flatMap fun i => (i.drop 0x20).take 32) == o.digest

/-- STORE_COMMIT (R295): the object becomes COLD; one with an acknowledged shard that is damaged stays NOT_READY until it is stored again and verified
(Tables 7.11, 7.12). -/
def runStoreCommit (m e : Nat) (s : State) : Run :=
  match s.object m e with
  | none => refuse s .wrongState
  | some o =>
    if o.committed then refuse s .wrongState
    else
      let got := o.count - o.missing.length
      let body := natBe 4 o.count ++ bitBytes o.count fun i => (o.shard i).acked
      let fail := fun (st : Status) => Run.done { st := s, status := st, committed := got, touched := got, body := body }
      if o.missing ≠ [] then fail .shardMissing
      else if !objectDigestOk o then fail .digestMismatch
      else .done { st := (s.modObject m e fun q => { q with committed := true, damagedCommit := !q.damaged.isEmpty }).journal, status := .ok, committed := got, touched := got, body := body }

/-- STORE_VERIFY (R284, R300, R441): every shard is read from flash, and in DIGEST mode every digest is checked, the object's own too; a committed object
whose damaged shards have all been stored again, and one that a failed load left NOT_READY, is COLD again. The device keeps the whole image of a shard
(R290), so what it reads is that image unless the shard is damaged. -/
def runStoreVerify (m e : Nat) (s0 : State) : Run :=
  match s0.object m e with
  | none => refuse s0 .wrongState
  | some o =>
    let s := ((List.range o.count).filter fun i => (o.shard i).acked).foldl (fun t i => t.readShard o i) s0
    let still := fun i => (o.shard i).damaged || !intakeOk o (o.shard i).image
    let code := fun i => if !(o.shard i).acked then 2 else if still i then 1 else 0
    let bytes := (List.range ((o.count + 3) / 4)).map fun j => BitVec.ofNat 8 (((List.range 4).map fun k =>
      if 4 * j + k < o.count then code (4 * j + k) * 4 ^ k else 0).foldl (· + ·) 0)
    let damaged := (List.range o.count).any fun i => (o.shard i).acked && still i
    let st : Status := if o.missing ≠ [] then .shardMissing else if damaged ∨ !objectDigestOk o then (if o.digestMode then .digestMismatch else .flashUncorrectable) else .ok
    let good := o.committed && st == .ok
    let s1 := if good then
        (s.residents m e).foldl (fun (t : State) (x : Nat × Nat × ResEntry) =>
          if x.2.2.state = .notReady then
            ((t.freeRes x.1 x.2.1 x.2.2).modBasin x.1 fun y => y.modCtx x.2.1 fun z => { z with res := z.res.filter fun r => !(r.model == m && r.edition == e) }).noticeModel
              x.1 x.2.1 .ok m e 0 Residency.cold.code (2 ^ x.1) []
          else t) (s.modObject m e fun q => { q with damagedCommit := false })
      else s
    .done { st := s1, status := st, committed := o.count - o.missing.length, touched := o.count, body := natBe 4 o.count ++ bytes }

/-! ### The weight chain (R291-R294) -/

namespace State

/-- A message over the device's wharf link of a chain; 0xFF at an end of the chain. -/
def wharf (s : State) (w : Nat) (m : Msg) : State := if w < 6 then s.send 0 (.link (90 + w)) m else s

/-- Device ordinal of this device in the slice of its first basin that is in one (R383); 0 in none. -/
def ownOrdinal (s : State) : Nat :=
  let id := (((List.range 8).map fun b => (s.basin b).sliceId.toNat).find? (· != 0)).getD 0
  s.deviceOrdinal id

/-- A shard that failed its digest at intake is asked for again: three times upstream, three times at the wharf source; after the sixth
failure the contexts are told (R292). -/
def rerequest (s : State) (o : StoreObj) (i : Nat) : State :=
  let k := (o.shard i).rerequests
  if 6 ≤ k then
    (List.range 8).foldl (fun (t : State) (b : Nat) => (t.basin b).existing.foldl (fun u c =>
      u.noticeModel b c .digestMismatch o.model o.edition 1 Residency.notReady.code (2 ^ b) [i]) t) s
  else
    (s.modObject o.model o.edition fun q => q.modShard i fun h => { h with rerequests := k + 1 }).wharf o.upstream
      (.shardRequest o.model o.edition s.ownOrdinal i (if k < 3 then none else some o.source))

/-- A forwarded shard joins the forward buffer, the last 256 MiB of them (R291). -/
def keepForward (s : State) (m e d i : Nat) (img : List Byte) : State :=
  let add := s.store.forward ++ [(m, e, d, i, img)]
  let trim := fun (l : List (Nat × Nat × Nat × Nat × List Byte)) => (l.reverse.foldl (fun (a : Nat × List (Nat × Nat × Nat × Nat × List Byte)) x =>
    if a.1 + x.2.2.2.2.length ≤ 268435456 then (a.1 + x.2.2.2.2.length, x :: a.2) else (268435457, a.2)) (0, [])).2
  { s with store := { s.store with forward := trim add } }

end State

/-- A shard of the chain: one addressed to this device's ordinal is stored, or asked for again; another goes downstream (R290-R293). -/
def chainShard (m e dev i : Nat) (img : List Byte) (s : State) : State :=
  match s.object m e with
  | none => s
  | some o =>
    if dev ≠ s.ownOrdinal then (s.wharf o.downstream (.shardForward m e dev i img)).keepForward m e dev i img
    else if o.committed ∨ o.count ≤ i ∨ (o.shard i).acked then s
    else if (!o.digestMode || headerOk o i img) && intakeOk o img then s.acknowledge m e i img
    else s.rerequest o i

/-- A request from downstream: one for the upstream device is met from the forward buffer, or passed on; one for the wharf source goes on upstream (R292,
R452). -/
def chainRequest (m e dev i : Nat) (source : Option Nat) (s : State) : State :=
  match s.object m e with
  | none => s
  | some o =>
    match source, s.store.forward.reverse.find? fun f => f.1 == m && f.2.1 == e && f.2.2.1 == dev && f.2.2.2.1 == i with
    | none, some f => s.wharf o.downstream (.shardForward m e dev i f.2.2.2.2)
    | _, _ => s.wharf o.upstream (.shardRequest m e dev i source)

/-- CHAIN_SHARD. -/
def execChainShard (model : BitVec 32) (edition : BitVec 16) (deviceOrdinal : BitVec 7) (shard : BitVec 32) (what : ChainMsg) (s : State) :
    Host.Outcome State Fault Refusal :=
  .next (match what with
    | .shard img => chainShard model.toNat edition.toNat deviceOrdinal.toNat shard.toNat img s
    | .request src => chainRequest model.toNat edition.toNat deviceOrdinal.toNat shard.toNat src s)

/-- INTAKE_TIMEOUT: the contexts learn which shards are missing; the object stays open (R294). -/
def intakeTimeout (m e : Nat) (s : State) : State :=
  match s.object m e with
  | none => s
  | some o =>
    if o.committed ∨ o.timedOut ∨ s.now < o.opened + 100000 * o.intakeMs ∨ o.missing = [] then s
    else
      let s1 := s.modObject m e fun q => { q with timedOut := true }
      (List.range 8).foldl (fun (t : State) (b : Nat) => (t.basin b).existing.foldl (fun u c =>
        u.noticeModel b c .shardMissing m e 2 Residency.notReady.code (2 ^ b) o.missing) t) s1

/-- INTAKE_TIMEOUT. -/
def execIntakeTimeout (model : BitVec 32) (edition : BitVec 16) (s : State) : Host.Outcome State Fault Refusal :=
  .next (intakeTimeout model.toNat edition.toNat s)

/-- SET_CHAIN (R291, R452). -/
def runSetChain (m e up down source : Nat) (s : State) : Run :=
  if !(up < 6 ∨ up = 0xFF) ∨ !(down < 6 ∨ down = 0xFF) then refuse s .badParam
  else match s.object m e with
  | none => refuse s .wrongState
  | some o => if o.committed then refuse s .wrongState else
    took (s.modObject m e fun q => { q with upstream := up, downstream := down, source := source }) []

/-! ### Residency commands (R280, R283-R286, R301) -/

/-- Chunks of the lane's largest WEIGHT position (R285). -/
def StoreObj.laneChunks (o : StoreObj) (lane : Nat) : Nat :=
  ((o.images.filter fun i => shardKind i == 0 && shardLane i == lane).map shardChunks).foldl max 0

/-- CUT shards of a lane. -/
def StoreObj.laneCutCount (o : StoreObj) (lane : Nat) : Nat :=
  (o.images.filter fun i => shardKind i == 1 && shardLane i == lane).length

/-- The lowest start of a run of `n` units below `cap` that no range of `taken` meets. -/
def lowestRun (taken : List (Nat × Nat)) (n cap : Nat) : Option Nat :=
  (List.range (cap + 1)).find? fun k => decide (k + n ≤ cap) && !(taken.any fun r => decide (k < r.1 + r.2) && decide (r.1 < k + n))

namespace State

/-- Entries of context `c` that hold or load a HOT copy, but for those that a replacement displaces. -/
def hotEntries (s : State) (b c m e : Nat) (replace : Bool) : List ResEntry :=
  ((s.basin b).ctx c).res.filter fun r =>
    !(r.model == m && r.edition == e) && !(replace && r.model == m) && (r.state == .hot || (r.state == .loading && r.target == .hot))

/-- Where a lane becomes HOT: its first chunk of the static region and its first place of the cut store, if it fits (R217, R285); a cut image that a
slot of the context was filled from keeps its place (R125). -/
def hotPlace (s : State) (b c : Nat) (o : StoreObj) (lane : Nat) (replace : Bool) : Option (Nat × Nat) :=
  let x := (s.basin b).sramCtx c
  let es := s.hotEntries b c o.model o.edition replace
  let room := (2 * x.size.toNat - x.store.toNat) / 2
  let kept := (List.range 4).filterMap fun k =>
    let z := (s.basin b).slot k
    if z.valid ∧ z.ctx.toNat = c then some (z.place, 1) else none
  let cuts := kept ++ es.map fun r => (r.cutOff, ((s.object r.model r.edition).map fun q => q.laneCutCount r.lane).getD 0)
  match lowestRun (es.map fun r => (r.off, r.chunks)) (o.laneChunks lane) room, lowestRun cuts (o.laneCutCount lane) x.store.toNat with
  | some a, some k => some (a, k)
  | _, _ => none

/-- A load begins in a basin (Table 7.12): it takes the pages that it needs. One that replaces an edition waits for a lockage, of which the keeper
hears (R138, R301). -/
def startLoad (s : State) (b c : Nat) (o : StoreObj) (lane : Nat) (target : Residency) (replace : Bool) (place : Nat × Nat) : State :=
  let old := s.resOf b c o.model o.edition
  let warm := (old.map (·.warm)).getD false
  let new := if warm then [] else (s.basin b).quotaPages c (o.lanePages lane (target == .hot))
  let r : ResEntry := {
    model := o.model, edition := o.edition, state := .loading, warm := warm && target == .hot,
    prev := if warm then .warm else .cold, prevWarm := warm, target := target,
    chunks := if target = .hot then o.laneChunks lane else 0,
    pages := if warm then (old.map (·.pages)).getD [] else new,
    lane := lane, replace := replace, askedAt := s.now, armed := replace && (s.basin b).sliceId == 0, off := place.1, cutOff := place.2 }
  let s1 := (s.modBasin b fun x => (x.usePages c new).modCtx c fun z =>
    { z with res := (z.res.filter fun q => !(q.model == o.model && q.edition == o.edition)) ++ [r] }).noticeResidency b c o.model o.edition
  if replace then s1.itemPending b none else s1

/-- Another edition of the model is HOT in a context: the replace flag has an effect (R301). -/
def replaces (s : State) (b c m e : Nat) : Bool :=
  ((s.basin b).ctx c).res.any fun r => r.model == m && r.edition != e && r.state == .hot

end State

/-- MAKE_WARM and MAKE_HOT (R280, R284, R285, R301): checked in every named basin before a load begins in any. -/
def runMake (h : Hdr) (m e : Nat) (hot replace : Bool) (s : State) : Run :=
  let c := h.context.toNat
  let bs := maskBasins h.mask
  match s.object m e with
  | none => refuse s .wrongState
  | some o =>
    let okState := fun b =>
      let st := s.residency b c m e
      ((s.basin b).ctx c).exist && (st == .cold || (hot && st == .warm))
    let lanes := (List.range bs.length).map fun i => (((bs[i]?).getD 0), i)
    let rep := fun b => hot && replace && s.replaces b c m e
    let place := fun (x : Nat × Nat) => if hot then s.hotPlace x.1 c o x.2 (rep x.1) else some (0, 0)
    let warm := fun b => ((s.resOf b c m e).map (·.warm)).getD false
    let pagesOk := fun (x : Nat × Nat) => warm x.1 || decide (o.lanePages x.2 hot ≤ ((s.basin x.1).ctx c).pagesFree)
    if bs = [] then refuse s .badParam
    else if !bs.all okState then refuse s .wrongState
    else if o.lanes ≠ bs.length then refuse s .badParam
    else if !lanes.all fun x => (place x).isSome && pagesOk x then refuse s .capacity
    else .later (lanes.foldl (fun t x =>
      t.startLoad x.1 c o x.2 (if hot then .hot else .warm) (rep x.1) ((place x).getD (0, 0))) s) 0

/-- LOAD_COMPLETE: the lane of a basin has landed, or a source of it failed (R284, R287, R288). A model that loads ends
the hold that a failed restoration left on the slice (R526). A replacement's load runs within its lockage (R301): its place is found once the lockage has
drained the basin, and its MAKE_HOT is answered once the basin resumes. -/
def loadComplete (b c m e : Nat) (ok : Bool) (s : State) : State :=
  match s.resOf b c m e with
  | none => s
  | some r =>
    if r.state ≠ .loading ∨ (r.replace ∧ !r.armed) then s
    else if !ok then
      let st : Status := if ((s.object m e).map (·.digestMode)).getD false then .digestMismatch else .flashUncorrectable
      s.loadFail b c m e st true
    else
      let s0 := match s.object m e with
        | some o => if r.warm ∨ r.prevWarm then s else (s.laneShards m e r.lane).foldl (fun (t : State) (i : Nat × List Byte) => t.readShard o i.1) s
        | none => s
      if r.target = .hot then
        match if r.replace then ((s0.object m e).bind fun o => s0.hotPlace b c o r.lane true) else some (r.off, r.cutOff) with
        | none => s0.loadFail b c m e .capacity false
        | some p =>
          let s1 := (s0.modBasin b fun x => x.modCtx c fun y => y.modRes m e fun q => { q with off := p.1, cutOff := p.2 }).setHot b c m e
          let s2 := if r.replace ∧ (s.basin b).sliceId ≠ 0 then s1
            else if r.replace then s1.answerReplaces b
            else s1.basinDoneAll (fun q => q.loads c m e) b .ok
          let x := s2.basin b
          if x.st.state = .ready ∧ x.st.held ∧ !x.st.restoring then s2.rejoin b else s2
      else
        let s1 := s0.regainPages b c m e
        let l := ((s1.resOf b c m e).map fun (q : ResEntry) => q.pages).getD []
        (((s1.layPages b c l (s1.laneChunkList m e r.lane false)).modBasin b fun x => x.modCtx c fun y => y.modRes m e fun q =>
          { q with state := .warm, warm := true }).noticeResidency b c m e).basinDoneAll (fun q => q.loads c m e) b .ok

/-- LOAD_COMPLETE. -/
def execLoadComplete (b : BasinId) (c : CtxId) (model : BitVec 32) (edition : BitVec 16) (ok : Bool) (s : State) :
    Host.Outcome State Fault Refusal := .next (loadComplete b c model.toNat edition.toNat ok s)

namespace State

/-- The cut images that no slot of the basin holds leave the cut store (R125, R286). -/
def zeroCuts (s : State) (b c : Nat) (r : ResEntry) : State :=
  let base := (s.shareRange b c).1
  let cuts := s.laneCuts r.model r.edition r.lane
  let held := fun (k : Nat) => (List.range 4).any fun i =>
    let z := (s.basin b).slot i
    z.valid && decide (z.ctx.toNat = c) && decide (z.place = r.cutOff + k)
  let free := (List.range cuts.length).filter fun k => !held k
  (basinTiles b).foldl (fun t i => t.modTile i fun y => { y with mem := { y.mem with
    column := free.foldl (fun m k => Memory.zero m (base + 32768 * (r.cutOff + k)) 32768) y.mem.column,
    parity := y.mem.parity.filter fun p => !(p.space == .column && free.any fun k =>
      decide (base + 32768 * (r.cutOff + k) ≤ 4 * p.word) && decide (4 * p.word < base + 32768 * (r.cutOff + k + 1))) } }) s

/-- EVICT in one basin (Table 7.12): a load ends in the state before it; HOT leaves its static chunks, WARM its pages, zeroed (R286). -/
def evictIn (s : State) (b c m e : Nat) : State :=
  match s.resOf b c m e with
  | none => s
  | some r =>
    let drop := fun (t : State) => t.modBasin b fun x => x.modCtx c fun z => { z with res := z.res.filter fun q => !(q.model == m && q.edition == e) }
    match r.state with
    | .loading =>
      let s1 := if r.target = .hot ∧ !r.replace then
          (s.zeroChunks b c ((List.range r.chunks).map (r.off + ·))).zeroCuts b c r else s
      let s2 := if r.prevWarm then s1 else s1.modBasin b fun x => x.zeroPages s.basinLines r.pages
      s2.loadFail b c m e .aborted false
    | .hot =>
      let s1 := (s.zeroChunks b c ((List.range r.chunks).map (r.off + ·))).zeroCuts b c r
      let s2 := if r.warm then s1.modBasin b fun x => x.modCtx c fun z => z.modRes m e fun q => { q with state := .warm, chunks := 0 }
        else drop (s1.freeRes b c r)
      s2.noticeResidency b c m e
    | .warm => (drop (s.freeRes b c r)).noticeResidency b c m e
    | _ => s

/-- A cut of the object is active in basin `b` (Table 7.12). -/
def cutActive (s : State) (b c m e : Nat) : Bool :=
  match (s.basin b).activeSlot with
  | some k => let z := (s.basin b).slot k; decide (z.ctx.toNat = c) && z.model == m && z.edition == e
  | none => false

/-- The eviction of a WARM copy in basin `b` waits until reloads from it are complete (Table 6.11). -/
def evictWaits (s : State) (b c m e : Nat) : Bool := s.residency b c m e == .warm && s.reloadDue b c

/-- EVICTs that waited for a reload act in each basin that waits no longer (Table 6.11). -/
def evictTick (s : State) : State :=
  s.ep.running.foldl (fun t r => match r.cmd with
    | .evict m e =>
      let c := r.hdr.context.toNat
      (maskBasins (r.mask &&& ~~~r.doneMask)).foldl (fun (u : State) (b : Nat) =>
        if u.evictWaits b c m.toNat e.toNat then u
        else (u.evictIn b c m.toNat e.toNat).basinDone r.hdr.session.toNat r.hdr.seq.toNat b .ok) t
    | _ => t) s

end State

/-- EVICT (R284, R286): checked in every named basin before it acts in any. -/
def runEvict (h : Hdr) (m e : Nat) (s : State) : Run :=
  let c := h.context.toNat
  let bs := maskBasins h.mask
  let ok := fun b => match s.residency b c m e with
    | .hot => !s.cutActive b c m e
    | .warm | .loading => true
    | _ => false
  if bs = [] then refuse s .badParam
  else if (s.object m e).isNone ∨ !bs.all ok then refuse s .wrongState
  else
    if bs.any fun b => s.evictWaits b c m e then .later s 0
    else
    let s1 := bs.foldl (fun t b => t.evictIn b c m e) s
    .done { st := s1, status := .ok, committed := bs.length, touched := bs.length,
            body := perBasin h.mask fun b => (s1.residency b c m e).code }

/-- RESIDENCY_QUERY (R283, R284). -/
def runResidency (h : Hdr) (m e : Nat) (s : State) : Run :=
  if h.mask = 0 then refuse s .badParam
  else if (s.object m e).isNone then refuse s .wrongState
  else took s (perBasin h.mask fun b => (s.residency b h.context.toNat m e).code)

end Sys2Proof.Machine
end

