-- ==== Sys2Proof/Machine/Flash.lean ====
section
/-! DEFINITION. The flash translation layer (R262-R277): the codeword ladder, grown bad blocks, moves, wear, read disturb, patrol reads,
and the saved counts. -/

namespace Sys2Proof.Machine

/-! ### Blocks -/

namespace State

/-- The cell mode of a block: SLC in the metadata area, whose blocks follow those of the data area, else native, TLC or QLC (R262, Table 7.1). -/
def slcBlock (s : State) (ch k : Nat) : Bool := decide ((s.flash.dataBlocks[ch]?).getD 0 ≤ k)

/-- Extents move to where new extents are written, which is not superblock `k` (R268, R271, R272). Each new copy is checked through step 1 of Table 7.3
before the map switches in one journal record; DESIGN CHOICE: one that fails is written once more in the next place (R274, log entry 63). -/
def moveAll (s : State) (k : Nat) (l spoiled : List Nat) : State :=
  l.foldl (fun t x => (if spoiled.contains x then t.spoilPlace (some k) else t).mapBut (some k) x) s

/-- The readable extents of a superblock move (R268, R272). -/
def moveSuper (s : State) (k : Nat) (spoiled : List Nat) : State :=
  s.moveAll k ((s.extentsIn k).filter fun x => !s.flash.badExtents.contains x) spoiled

/-- One extent moves into superblock `k` (R271, R274), which must be the open one with a place left, or a free one. -/
def moveInto (s : State) (x k : Nat) : State :=
  if s.superOf x = some k ∨ s.flash.supers ≤ k ∨ !s.superGood k then s
  else
    let s1 := if s.flash.openSuper.map (·.1) = some k then s else if (s.extentsIn k).isEmpty then s.openAt k else s
    match s1.flash.openSuper with
    | some o => if o.1 = k ∧ o.2 < s1.superExtents then s1.mapExtent x else s
    | none => s

/-- Overprovisioning as a percentage of the user capacity (R265, Table 7.6). -/
def overPct (s : State) : BitVec 8 :=
  let u := s.flash.capacity.toNat * extentBytes
  BitVec.ofNat 8 (min 255 (100 * (s.flash.goodBytes - u) / max 1 u))

/-- A bad block takes its bytes from the overprovisioning (R265); below 12 % the operator is told (R270). -/
def loseSpace (s : State) : State :=
  let s1 := { s with flash := { s.flash with goodBytes := s.flash.goodBytes - s.flash.blockBytes } }
  let s2 := { s1 with flash := { s1.flash with opPct := s1.overPct } }
  if 12 ≤ s.flash.opPct.toNat ∧ s2.flash.opPct.toNat < 12 then s2.noticeOpen 3 0 else s2

/-- A good spare block of channel `ch` in the data area: one that no superblock has. -/
def spareBlock (s : State) (ch : Nat) : Option Nat :=
  ((List.range ((s.flash.dataBlocks[ch]?).getD 0)).drop s.flash.supers).find? fun k => !(s.block ch k).bad && (s.superAt ch k).isNone

/-- A grown bad block (R268): counted, never used again; its superblock's readable extents move, and a good spare block of the same channel takes its
place. DESIGN CHOICE: the lowest-numbered one; with none left the superblock takes no extents any more (log entry 63). -/
def growBad (s : State) (ch k : Nat) (spoiled : List Nat) : State :=
  let b := s.block ch k
  if b.bad then s
  else
    let s1 := s.modBlock ch k fun y => { y with bad := true }
    let s2 := match s.superAt ch k with
      | some sb =>
        let t := s1.moveSuper sb spoiled
        match t.spareBlock ch with
        | some n => { t with flash := { t.flash with table := Tbl.set 0 (32 * sb + ch) (n + 1) t.flash.table } }
        | none => t
      | none => s1
    let s3 := ({ s2 with flash := { s2.flash with grownBad := satAdd s2.flash.grownBad 1 } }).journal
    if s.slcBlock ch k then s3 else s3.loseSpace

/-- A refresh by read disturb or by a hard retry: the extents of the block's superblock move to another (R272). -/
def refreshBlock (s : State) (ch k : Nat) (spoiled : List Nat) : State :=
  match s.superAt ch k with
  | some sb => s.moveSuper sb spoiled
  | none => s

/-- The object that holds an extent. -/
def objectAt (s : State) (x : Nat) : Option StoreObj := s.store.objects.find? fun o => o.extents.contains x

/-- Chunk digests of a lane's shards, in the order in which a WARM copy holds the chunks (R279, R281). -/
def laneDigests (s : State) (m e lane : Nat) : List (List Byte) :=
  (s.laneShards m e lane).flatMap fun i => (List.range (shardChunks i.2)).map fun j => (i.2.drop (128 + 32 * j)).take 32

/-- A complete WARM copy of a lane stands on the device whose words are good and, in DIGEST mode, whose chunks match their digests (R269). -/
def warmGood (s : State) (o : StoreObj) (lane : Nat) : Bool :=
  (s.residents o.model o.edition).any fun x => x.2.2.warm && x.2.2.state != .loading && x.2.2.lane == lane &&
    x.2.2.pages.all (fun p => !(s.basin x.1).lineBad s.basinLines x.2.1 (65536 * p) 65536) &&
    (!o.digestMode || ((x.2.2.pages.zip (s.laneDigests o.model o.edition lane)).all fun q =>
      sha256 ((s.basin x.1).peek s.basinLines x.2.1 (65536 * q.1) 65536) == q.2))

/-- `n` bytes of extent `x` from `a` upward are lost, and with them the shards that stand there. A complete WARM copy on the device of every lane of theirs,
checked against its digests in DIGEST mode, rewrites the extent (R269), else the shards and the object are lost until they are stored again. -/
def damageExtent (s : State) (x a n : Nat) (st : Status) (event : Nat) : State :=
  match s.objectAt x with
  | none => s
  | some o =>
    let idx := o.shardsIn (extentBytes * o.extents.idxOf x + a) n
    if idx.isEmpty then s
    else if idx.all fun i => s.warmGood o (shardLane (o.shard i).image) then s.mapExtent x
    else
      let s1 := { s with flash := { s.flash with badExtents := if s.flash.badExtents.contains x then s.flash.badExtents else s.flash.badExtents ++ [x] } }
      s1.notReadyObject o.model o.edition st event idx false

/-- Page reads beyond the normal one (Table 7.3): one for each retry level, and three for the soft decode. -/
def ladderReads : CodewordOutcome → Nat
  | .hard => 0
  | .retry l => l.val + 1
  | .soft | .uncorrectable => 18

/-- What a codeword's ladder leaves, for the block it stands in (R266, R268, R272, R277): `lost` says what a codeword at step 4 takes with it. -/
def ladderEnd (s : State) (ch k : Nat) (out : CodewordOutcome) (spoiled : List Nat) (lost : State → State) : State :=
  let retried := fun (t : State) => { t with flash := { t.flash with retry := satAdd t.flash.retry 1 } }
  match out with
  | .hard => s
  | .retry l => if 8 ≤ l.val + 1 then (retried s).refreshBlock ch k spoiled else retried s
  | .soft => (retried s).refreshBlock ch k spoiled
  | .uncorrectable => (lost { s with flash := { s.flash with uncorr := satAdd s.flash.uncorr 1 } }).growBad ch k spoiled

/-- Codeword `w` of extent `x` through the ladder; codeword 16 j + 4 p + q is the q-th of page p of chunk j (R263, R266). -/
def readCodeword (s : State) (x w : Nat) (out : CodewordOutcome) (spoiled : List Nat) : State :=
  match s.superOf x with
  | none => s
  | some sb =>
    let ch := w / 16 % 32
    let k := s.blockIn ch sb
    let page := 32 * s.slotOf x + 4 * (w / 512) + w % 16 / 4
    (s.readPage ch k page (ladderReads out)).ladderEnd ch k out spoiled fun t => t.damageExtent x (4096 * w) 4096 .flashUncorrectable 4

end State

/-! ### Rows -/

/-- FLASH_CODEWORD_READ: one codeword through the steps of Table 7.3 (R266, R268, R269, R272). -/
def codewordRead (p : FlashPlace) (out : CodewordOutcome) (spoiled : List Nat) (s : State) : State :=
  match p with
  | .data x w => s.readCodeword x.toNat w.toNat out spoiled
  | .metadata ch k page =>
    if s.slcBlock ch.val (k % 65536) then
      (s.readPage ch.val (k % 65536) page.toNat (State.ladderReads out)).ladderEnd ch.val (k % 65536) out spoiled id
    else s

/-- FLASH_CODEWORD_READ. -/
def execFlashCodewordRead (place : FlashPlace) (out : CodewordOutcome) (spoiled : List (BitVec 20)) (s : State) :
    Host.Outcome State Fault Refusal := .next (codewordRead place out (spoiled.map (·.toNat)) s)

/-- GROWN_BAD_BLOCK: a program or an erase reports failure (R268, R270). -/
def grownBadBlock (ch k : Nat) (spoiled : List Nat) (s : State) : State := s.growBad ch (k % 65536) spoiled

/-- GROWN_BAD_BLOCK. -/
def execGrownBadBlock (chan : ChanId) (block : Nat) (spoiled : List (BitVec 20)) (s : State) : Host.Outcome State Fault Refusal :=
  .next (grownBadBlock chan.val block (spoiled.map (·.toNat)) s)

/-- EXTENT_MOVE: the new copy is checked through step 1 of Table 7.3, and only then the map switches (R274); a copy that fails is not used. -/
def extentMove (x k : Nat) (ok : Bool) (s : State) : State :=
  match s.superOf x with
  | some _ => if ok then s.moveInto x k else s
  | none => s

/-- EXTENT_MOVE. -/
def execExtentMove (extent : BitVec 20) (superblock : Nat) (firstStepOk : Bool) (s : State) : Host.Outcome State Fault Refusal :=
  .next (extentMove extent.toNat superblock firstStepOk s)

/-- READ_DISTURB_REFRESH: a block whose reads reach the limit of the board configuration is refreshed (R272). -/
def readDisturb (ch k : Nat) (spoiled : List Nat) (s : State) : State :=
  let y := s.block ch (k % 65536)
  if Config.boardConfig 0 ≤ y.reads ∧ !y.bad then s.refreshBlock ch (k % 65536) spoiled else s

/-- READ_DISTURB_REFRESH. -/
def execReadDisturbRefresh (chan : ChanId) (block : Nat) (spoiled : List (BitVec 20)) (s : State) : Host.Outcome State Fault Refusal :=
  .next (readDisturb chan.val block (spoiled.map (·.toNat)) s)

/-- WEAR_LEVEL: erase counts of two blocks of a channel more than 500 apart move an extent to the more-worn one, once its copy there is checked (R271,
R274). -/
def wearLevel (ch low high : Nat) (ok : Bool) (s : State) : State :=
  let a := s.block ch (low % 65536)
  let b := s.block ch (high % 65536)
  if a.erases + 500 < b.erases ∧ ok then
    match s.superAt ch (low % 65536), s.superAt ch (high % 65536) with
    | some i, some k =>
      match s.extentsIn i with
      | x :: _ => s.moveInto x k
      | [] => s
    | _, _ => s
  else s

/-- WEAR_LEVEL. -/
def execWearLevel (chan : ChanId) (low high : Nat) (firstStepOk : Bool) (s : State) : Host.Outcome State Fault Refusal :=
  .next (wearLevel chan.val low high firstStepOk s)

/-- PATROL_READ: every page of an extent is read; the codewords `found` went further down the ladder than a hard decode, and in DIGEST mode a chunk whose
digest fails with clean LDPC is damage (R273, R297). -/
def patrolRead (x : Nat) (found : List (Nat × CodewordOutcome)) (mismatch : Option Nat) (spoiled : List Nat) (s : State) : State :=
  if (s.superOf x).isNone then s
  else
    let s1 := (List.range 256).foldl (fun (t : State) (j : Nat) => t.readFlashChunk x j) s
    let s2 := { s1 with flash := { s1.flash with patrolled := Tbl.set 0 x s.now s1.flash.patrolled } }
    let s3 := found.foldl (fun (t : State) e => t.readCodeword x e.1 e.2 spoiled) s2
    match mismatch, s3.objectAt x with
    | some j, some o => if o.digestMode then s3.damageExtent x (65536 * j) 65536 .digestMismatch 1 else s3
    | _, _ => s3

/-- PATROL_READ. -/
def execPatrolRead (extent : BitVec 20) (found : List (BitVec 12 × CodewordOutcome)) (mismatch : Option (BitVec 8)) (spoiled : List (BitVec 20))
    (s : State) : Host.Outcome State Fault Refusal :=
  .next (patrolRead extent.toNat (found.map fun e => (e.1.toNat, e.2)) (mismatch.map (·.toNat)) (spoiled.map (·.toNat)) s)

/-- Every extent is read at least once in 7 days (R273). DESIGN CHOICE: one whose 7 days are over is read at that tick, and the read finds nothing; what a
patrol read finds, its own row brings (log entry 63). -/
def State.patrolTick (s : State) : State :=
  (s.flash.map.filter fun e => e.2 != 0 && decide (Tbl.get 0 e.1 s.flash.patrolled + 60480000000000 ≤ s.now)).foldl (fun t e => patrolRead e.1 [] none [] t) s

/-- FTL_COUNT_SAVE: every 60 s the counts go to the metadata area (R277). -/
def ftlCountSave (s : State) : State := { s with flash := { s.flash with savedRetry := s.flash.retry, savedUncorr := s.flash.uncorr } }

/-- FTL_COUNT_SAVE. -/
def execFtlCountSave (s : State) : Host.Outcome State Fault Refusal := .next (ftlCountSave s)

end Sys2Proof.Machine
end

