-- ==== Sys2Proof/Machine/StartUp.lean ====
section
/-! DEFINITION. Start-up (R604-R608, Table 18.6): supplies and rails, the boot chain (R547, R548), what is restored from flash, links,
rack time, and the basins' bring-up and rehydration. -/

namespace Sys2Proof.Machine

namespace State

/-- Every unit of the anti-rollback and revocation fuses of an image type begins to burn (R549, R550). -/
def startBurn (s : State) (i : Nat) : State := s.modImage i fun x => { x with burning := true }

/-- The image of a type becomes the running one, and the one that ran stays in the other slot or as the fallback copy (R547); it stays named as staged until its
fuses are burned (Table 16.10). -/
def runStaged (s : State) (i : Nat) : State :=
  s.modImage i fun x => { x with
    prev := if x.running = x.staged then x.prev else some ⟨x.running, x.runVersion, x.runSecurity, x.runCosigned⟩
    running := x.staged, runVersion := x.version, runSecurity := x.security, runCosigned := x.cosigned, fallback := false }

/-- The image of the other slot runs in place of the one that ran (R547). -/
def runOther (s : State) (i : Nat) : State :=
  s.modImage i fun x => match x.prev with
    | some p => { x with
        prev := some ⟨x.running, x.runVersion, x.runSecurity, x.runCosigned⟩
        running := p.measure, runVersion := p.version, runSecurity := p.security, runCosigned := p.cosigned }
    | none => x

/-! ### Steps 4 to 6 -/

/-- Start-up stops at a step, which PWR_START names as failed (Table 18.7). -/
def haltAt (s : State) (step : BitVec 4) : State :=
  { s with pins := { s.pins with halted := true, failed := step, pgRun := false } }

/-- The loader that the ROM runs (R547): a boot copy that is valid, or the fallback copy where none is or where the boot copies' loader failed to start the
management image on two consecutive start-ups; none where none is valid. -/
def loaderOf (s : State) (i : StartIn) : Option Bool :=
  if i.bootOk ∧ s.mgmt.bootFails < 2 then some false else if i.fallbackOk then some true else none

/-- The boot loader runs (R547): a boot copy, with a staged loader from the boot copies (R514), or the fallback copy, which is the loader that ran before the
latest update and under which a pending loader has failed. -/
def bootLoader (s : State) (fallback : Bool) : State :=
  let x := s.image 0
  if fallback then
    let s1 := if x.fallback ∨ (x.st = .pending ∧ x.running ≠ x.staged) then s else s.runOther 0
    s1.modImage 0 fun y => { y with fallback := true, st := if y.st = .pending then .failed else y.st }
  else if x.st = .pending then s.runStaged 0
  else
    let s1 := if x.fallback ∧ x.st ≠ .failed then s.runOther 0 else s
    s1.modImage 0 fun y => { y with fallback := false }

/-- The loader starts a management image: its count of failures ends, and the fuses of a loader that is new begin to burn (R547, Table 16.4). -/
def mgmtStarted (s : State) : State :=
  let s1 := { s with mgmt := { s.mgmt with bootFails := 0 } }
  if (s1.image 0).st = .pending ∧ !(s1.image 0).fallback then s1.startBurn 0 else s1

/-- A count that both supplies' loss cleared returns from the metadata area (Table 7.7); the configuration record gives back slice_id,
FAB_CFG and the totals of BSN_RESETS (R604, R538). -/
def restoreRecord (s : State) : State :=
  let r := fun (k : Nat) => Tbl.get 0 k s.flash.record
  if r 24 = 0 then s
  else
    let s1 := (List.range 8).foldl (fun (t : State) (b : Nat) => t.modBasin b fun x => { x with
      sliceId := BitVec.ofNat 16 (r b), st := { x.st with total := BitVec.ofNat 16 (r (16 + b)) } }) s
    { s1 with
      flash := { s1.flash with record := [], retry := s1.flash.savedRetry, uncorr := s1.flash.savedUncorr }
      fab := { s1.fab with valid := decide (128 ≤ r 8), position := BitVec.ofNat 7 (r 8) } }

/-- Intake timeouts of open objects start anew (R296). -/
def restartIntake (s : State) : State :=
  { s with store := { s.store with objects := s.store.objects.map fun o => if o.committed then o else { o with opened := s.now } } }

/-- Objects that were open for intake stay open: acknowledged shards stand, pieces of the others are lost, and the intake timeout
starts again (R296). -/
def reopenIntake (s : State) : State :=
  let shard := fun (k : Nat × Shard) => (k.1, if k.2.acked then k.2 else Shard.fresh)
  { s with store := { s.store with objects := s.store.objects.map fun o =>
    { o with opened := s.now, timedOut := if o.committed then o.timedOut else false,
             shards := (o.shards.map shard).filter fun k => k.2 != Shard.fresh } } }

/-- The rate at which every NAND channel trains, from rate `n` downward (R260); none where a channel fails at 800 MT/s. -/
def nandRate (fails : List (ChanId × BitVec 3)) : Nat → Option Nat
  | 0 => if fails.any fun f => f.2 == 0 then none else some 0
  | n + 1 => if fails.any fun f => f.2.toNat == n + 1 then nandRate fails n else some (n + 1)

/-- First format (R262, R265): 1 % of the good blocks of every LUN become the metadata area, the rest the data area; the user capacity is the smaller of
16 TiB and 0.875 of the data area's good bytes, in whole extents, and a superblock takes one block of every channel. DESIGN CHOICE: 1 % rounds down, and a
channel's blocks are numbered with those of the data area first (log entry 63). -/
def format (s : State) (g : FlashGeometry) (luns : Nat) : State :=
  let s0 := { s with flash := { s.flash with qlc := g.qlc, blockBytes := g.blockBytes } }
  if s.flash.capacity ≠ 0 then s0
  else
    let chans := (List.range 32).map fun ch => (g.goodBlocks.drop (luns * ch)).take luns
    let sum := fun (l : List Nat) => l.foldl (· + ·) 0
    let blocks := chans.map fun (l : List Nat) => sum (l.map fun n => n - n / 100)
    let bytes := sum blocks * g.blockBytes
    let s1 := { s0 with flash := { s0.flash with
      capacity := BitVec.ofNat 21 (min 1048576 (7 * bytes / (8 * extentBytes))), goodBytes := bytes, dataBlocks := blocks,
      metaBlocks := chans.map (fun (l : List Nat) => sum (l.map fun n => n / 100)), supers := blocks.foldl min (blocks.headD 0) } }
    { s1 with flash := { s1.flash with opPct := s1.overPct } }

/-- Step 6 of Table 18.6: images, NAND channels, FTL, configuration record and repair logs; I3C answers and PG_RUN is released. A channel that fails at
800 MT/s is reported on the management port (R260), and a board whose pages or planes are not those of Table 7.1 does not go on (R258). A type whose active
slot is not valid runs the image of its other slot; a loader that fails to start the management image is counted, and start-up ends there (R547; log entry 193). -/
def bootImages (s0 : State) (i : StartIn) : State :=
  if i.imagesOk ∧ !i.mgmtStarts then
    ({ s0 with mgmt := { s0.mgmt with bootFails := s0.mgmt.bootFails + 1 } }).haltAt 6
  else
  let s := if i.imagesOk then (i.otherSlot.foldl (fun (t : State) (k : Fin 4) => if k.val = 0 then t else t.runOther k.val) s0).mgmtStarted else s0
  if !i.imagesOk then
    { s with pins := { s.pins with recovery := true, failed := 6, pgRun := false, alertN := true } }
  else match nandRate i.nandFailed i.flsSpeed.toNat with
  | none =>
    let s1 := ({ s with flash := { s.flash with speed := 0, targets := i.flsTargets, luns := i.flsLuns } }).haltAt 6
    { s1 with pins := { s1.pins with nandFault := (i.nandFailed.filter fun f => f.2 == 0).map (·.1) } }
  | some r =>
    let cfg := { s with
      flash := { s.flash with speed := BitVec.ofNat 3 r, targets := i.flsTargets, luns := i.flsLuns }, pins := { s.pins with nandFault := [] } }
    if i.flsGeometry.pageBytes ≠ 16384 ∨ i.flsGeometry.planes ≠ 4 then cfg.haltAt 6
    else
    let s1 := cfg.format i.flsGeometry ((i.flsTargets.toNat + 1) * (i.flsLuns.toNat + 1))
    let s2 := s1.restoreRecord.reopenIntake
    { s2 with
      memDev := { s2.memDev with density := i.memDensity, ranks := i.memRanks, speed := i.memSpeed }
      pins := { s2.pins with step := 6, failed := 0, pgRun := !s2.mgmt.oos, alertN := true } }

/-- The ROM starts the crypto engine and the central DRBG (Table 18.6, R560). -/
def seedCentral (s : State) : State :=
  let f := s.entropy 48
  { f.2 with sec := { f.2.sec with drbg := Drbg.instantiate f.1 } }

/-- Firmware checks the stored moduli of the operator slots: one whose two copies both fail is unusable (R553). -/
def checkModuli (s : State) (bad : List (Fin 4)) : State :=
  { s with sec := { s.sec with opStored := s.sec.opStored.filter fun e => !bad.any fun k => k.val == e.1 } }

/-- Steps 4 to 6, from where start-up stands. -/
def boot (s0 : State) (i : StartIn) : State :=
  if 6 ≤ s0.pins.step.toNat then s0
  else if s0.pins.step.toNat < 4 ∧ !i.romOk then s0.haltAt 4
  else
    let s := if s0.pins.step.toNat < 4 then s0.seedCentral else s0
    match s.loaderOf i with
    | none =>
      let s1 := s.haltAt 5
      { s1 with pins := { s1.pins with step := 4, alertN := false } }
    | some fb =>
      let s1 := if s.pins.step.toNat < 5 then s.bootLoader fb else s
      (({ s1 with pins := { s1.pins with step := 5 } }).checkModuli i.operatorBad).bootImages i

/-! ### Steps 7 to 10 -/

/-- Towpath links train in step 7, switch links in step 9; one that does not is FAILED and start-up goes on (R378, Table 18.6). A
wharf link trains on its own. -/
def trainLink (s : State) (up : List LinkId) (n : Nat) : State :=
  let ok := up.any fun l => l.val == n
  s.modLink n fun l => { l with
    st := if 90 ≤ n then .training else if ok then .active else .failed, since := s.now,
    partnerValid := ok && decide (84 ≤ n) && decide (n < 90),
    partner := if ok ∧ 84 ≤ n ∧ n < 90 then BitVec.ofNat 7 (s.neighbourPos n) else l.partner }

/-- Step 8: rack time is acquired from the time port (R567). -/
def acquireTime (s : State) (i : StartIn) : State :=
  if i.timeSource then (s.modTime fun t => { t with
    now := i.tickAtEnd, source := 1, locked := true, holdover := false, hops := 0, missRun := 0, frame := none, lockedTo := none, unsync := false }).restartIntake
  else s

/-- The Ethernet port trains in the mode of ETH_CFG (Table 18.6). -/
def portUp (s : State) (i : StartIn) : State :=
  { s with
    eth := { s.eth with st := if s.eth.portReset then 0 else if i.ethUp then 2 else 1, stMode := if i.ethUp then s.eth.mode else s.eth.stMode }
    pins := { s.pins with step := 10 } }

/-- Steps 7 to 10: links, rack time, MASK, and the Ethernet port. -/
def linkUp (s : State) (i : StartIn) : State :=
  if 10 ≤ s.pins.step.toNat then s.acquireTime i
  else
    let s1 := s.acquireTime i
    let s2 := ((List.range 12).map (84 + ·)).foldl (fun t n => t.trainLink i.towpathUp n) s1
    let s3 := ((List.range 84).foldl (fun t n => t.trainLink i.switchUp n) s2).sendMask
    s3.portUp i

/-! ### Step 11 -/

/-- Failures of LPDDR5X training, as channel and rate. -/
def memFails (i : StartIn) : List (Nat × Nat) := i.lpddrFailed.map fun f => (f.1.val, f.2.toNat)

/-- Rows whose PPR the DRAM of basin `b` reports as complete. -/
def pprOk (i : StartIn) (b : Nat) : List Nat := (i.pprDone.filter fun p => p.1 == b).map (·.2)

/-- A basin enters INIT: its channels are trained, its memories zero, its pending PPRs run, its DRBG instantiated, and its generation is a
non-zero value of the central DRBG (R224, R234, R503); how the value comes from the DRBG's bytes is open (log entry 4). One whose channel failed
at the lowest rate stays OFFLINE. `s0` holds the rate at which the training began. -/
def bringUp (s0 : State) (i : StartIn) (s : State) (b : Nat) : State :=
  if (List.range 4).any fun k => s0.untrained (memFails i) (4 * b + k) then s
  else
    let f := (s.draw 2).2.free
    let g : BitVec 16 := BitVec.ofNat 16 (1 + f.1 % 65535)
    let s1 := (List.range 4).foldl (fun (t : State) (k : Nat) => t.modChan (4 * b + k) fun h => { h with st := .open }) f.2
    let s2 := (s1.runPpr b (pprOk i b)).seedBasin b
    let x := s2.basin b
    let s3 := (basinTiles b).foldl (fun (t : State) (k : Nat) => t.setTile k { Tile.fresh with
      gen := if (x.row (k / 34 % 4)).kindOf (k % 34) = some .failed then 0 else g }) s2
    let s4 := (s3.modBasin b fun y => { y with gen := g, st := { y.st with restoring := true } }).setBState b .init
    match s4.ordinal b with
    | some o => s4.sendSlice b (.gen o g.toNat)
    | none => s4

/-- A basin comes up in step 11: out of a device warm reset by step 5 of R524, else as at a cold start. One that was to be RETIRED is, and one
that is RETIRED stays so. -/
def comeUp (s0 : State) (i : StartIn) (s : State) (b : Nat) : State :=
  let x := (s.basin b).st
  if x.state = .resetting then
    let s1 := s0.resetUp b (pprOk i b) (memFails i) s
    if x.retireDue then s1.retire b x.cause else s1
  else if x.state = .offline then s0.bringUp i s b
  else s

/-- Step 11, which waits for rack time: the channels train, the basins enter INIT, and the heartbeat of R589 counts from here. -/
def basinsUp (s : State) (i : StartIn) : State :=
  if !s.time.locked ∨ !s.pins.memPg then s
  else
    let s1 := ({ s with pins := { s.pins with lpddrReset := false, step := 11, ms := i.ms } }).train (memFails i)
    let s2 := (List.range 8).foldl (fun (t : State) (b : Nat) => s.comeUp i t b) s1
    ({ s2 with power := { s2.power with heartbeat := s2.now, capAt := s2.now } }).startDone

/-- Start-up from where it stands (R606). -/
def goOn (s : State) (i : StartIn) : State :=
  let s1 := s.boot i
  if s1.pins.halted ∨ s1.pins.recovery ∨ s1.pins.step.toNat < 6 then s1 else (s1.linkUp i).basinsUp i

/-- Steps 1 to 3 and what follows: no rail without both supplies and MEM_PG (R600); rails that do not come up are tried again three
times. -/
def powerUp (s : State) (i : StartIn) (n : BitVec 8) : State :=
  let s1 := { s with pins := { s.pins with vinOk := i.supplyOk, memPg := i.memPg, attempts := n } }
  if !i.supplyOk ∨ !i.memPg then s1
  else if !i.railsOk then { s1 with pins := { s1.pins with failed := 3, halted := decide (3 ≤ n.toNat) } }
  else ({ s1 with pins := { s1.pins with rails := true, pgRail := true, alertN := false, failed := 0, step := 3 } }).goOn i

end State

/-- START_UP (R606): start-up runs from the step where it stands. Rails that failed wait for their retry, and a halt for SYS_RST_N or
VIN. -/
def startUp (i : StartIn) (s : State) : State :=
  if s.pins.halted ∨ s.pins.recovery ∨ s.pins.sysRst ∨ 11 ≤ s.pins.step.toNat then s
  else if s.pins.rails then s.goOn i
  else if s.pins.failed = 3 then s
  else s.powerUp i 0

/-- START_UP. -/
def execStartUp (i : StartIn) (s : State) : Host.Outcome State Fault Refusal := .next (startUp i s)

/-- SYS_RST_RISE: start-up begins again at step 3 (R599). -/
def sysRstRise (i : StartIn) (s : State) : State :=
  if !s.pins.sysRst then s
  else ({ s with pins := { s.pins with sysRst := false, halted := false, failed := 0 } }).powerUp i 0

/-- SYS_RST_RISE. -/
def execSysRstRise (i : StartIn) (s : State) : Host.Outcome State Fault Refusal := .next (sysRstRise i s)

/-- RAIL_RETRY: 1 s after a failure of step 3, three times (Table 18.6). -/
def railRetry (i : StartIn) (s : State) : State :=
  if s.pins.rails ∨ s.pins.halted ∨ s.pins.sysRst ∨ s.pins.failed ≠ 3 then s else s.powerUp i (s.pins.attempts + 1)

/-- RAIL_RETRY. -/
def execRailRetry (i : StartIn) (s : State) : Host.Outcome State Fault Refusal := .next (railRetry i s)

/-! ### Device warm reset (R536) -/

namespace State

/-- A request ends with the device: ABORTED, its final record among the kept replies, its entry FREE (R536, Table 15.2). -/
def abortRequest (s : State) (i : Nat) : State :=
  let e := s.entry i
  if !e.active then s
  else
    let h : Hdr := { session := BitVec.ofNat 16 e.session, context := BitVec.ofNat 8 e.ctx, mask := basinsMask [e.basin],
                     seq := BitVec.ofNat 32 e.turnSeq, counter := 0, timeout := 0, notBefore := 0, carriage := .ethernet, priority := s.eth.pfcB, peer := e.peer }
    let p := replyPkt s h 0x0604 .aborted e.genLen (e.genLen + e.undelivered) []
    let sc := s.scopeOf e.session
    (s.endRequest i true .aborted).keepReply h sc.1 sc.2 p

/-- Every session closes (R416), its debug authorization with it (R563). -/
def closeAll (s : State) : State :=
  let ns := s.sessionsWhere fun _ => true
  ns.foldl (fun t n => (t.endAuth n).setSession n none) s

/-- What the management complex forgets at a device warm reset: held commands, selections, debug, the packet queues, and what it counts since
start-up (Tables 15.2, 16.9). -/
def forgetHost (s : State) : State :=
  { s with
    ep := { s.ep with held := [], running := [], i3c := [], waiting := [], pause := false }
    selects := []
    live := []
    man := { s.man with entries := [], flights := [], balance := s.man.balance.map fun p => { p with pending := none } }
    sec := { s.sec with challenges := [], auths := [], resp := [], attests := 0, failoverSeen := false }
    ptb := []
    ptbNext := [] }

/-- One basin of a device warm reset goes through steps 1 to 4 of R524; it adds to `total` alone. A RETIRED basin and one that is OFFLINE stay as
they are. -/
def warmBasin (lost : List Nat) (s : State) (b : Nat) : State :=
  let st := (s.basin b).st.state
  if st = .retired ∨ st = .offline then s
  else (s.resetDown b (!lost.contains b)).modBasin b fun y => { y with st := { y.st with
    total := satAdd y.st.total 1, thermalDue := false, draining := false } }

/-- The Ethernet port is reset, with every word that is not restored from the configuration record (R6, R604, Table 15.2). -/
def resetPort (s : State) : State :=
  { s with eth := { s.eth with
    portReset := false, st := 0, ip4 := 0, ip6 := [], levels := [], xoff := [], paused := [], neighbours := [] } }

/-- The device warm reset in its steps (R536); `lost` are the basins whose write-back or self-refresh failed (R525), `bad` the units that the dump
engine found unresponsive. -/
def warmReset (i : StartIn) (lost : List Nat) (bad : List (Nat × Nat)) (s : State) : State :=
  let s0 := { s with ep := { s.ep with running := s.ep.running.map fun r => { r with waitOver := true } } }
  let s1 := (List.range 8).foldl (fun (t : State) (b : Nat) =>
    let u := if (t.basin b).st.state = .offline then t else t.fence b .warmReset false
    u.modBasin b fun x => if x.st.state = .fenced then { x with st := { x.st with cause := .warmReset } } else x) s0
  let s2 := (List.range 8).foldl (fun (t : State) (b : Nat) => fenceDrainEnd b (!lost.contains b) t) s1
  let s3 := s2.takeDump .warmReset 0xFF true false s.now bad deviceUnits
  let s4 := (s3.man.entries.map (·.1)).foldl abortRequest s3.closeDump
  let s5 := ((s4.closeAll.cutActivation false).forgetHost).resetPort
  let s6 := { s5 with
    flash := { s5.flash with journal := s5.flash.journal + 1 },
    mgmt := { s5.mgmt with warmDue := none, activating := false },
    pins := { s5.pins with step := 3, pgRun := false, halted := false, recovery := false } }
  let s7 := ((List.range 8).foldl (warmBasin lost) s6).boot i
  if s7.pins.halted ∨ s7.pins.recovery ∨ s7.pins.step.toNat < 6 then s7 else (s7.portUp i).basinsUp i

end State

/-- DEVICE_WARM_RESET: it begins 1 ms after WARM_RESET's ACCEPTED reply (R455, R536). -/
def deviceWarmReset (i : StartIn) (lost : List Nat) (bad : List (Nat × Nat)) (s : State) : State :=
  match s.mgmt.warmDue with
  | some t => if t ≤ s.now then s.warmReset i lost bad else s
  | none => s

/-- DEVICE_WARM_RESET. -/
def execDeviceWarmReset (i : StartIn) (lost : List BasinId) (unresponsive : List (BitVec 16 × BitVec 16)) (s : State) :
    Host.Outcome State Fault Refusal :=
  .next (deviceWarmReset i (lost.map (·.val)) (unresponsive.map fun u => (u.1.toNat, u.2.toNat)) s)

/-- DUAL_WATCHDOG_MISS: the supervisor sees both management cores miss their watchdogs for 50 ms (R536). -/
def execDualWatchdogMiss (i : StartIn) (lost : List BasinId) (unresponsive : List (BitVec 16 × BitVec 16)) (s : State) :
    Host.Outcome State Fault Refusal :=
  .next (s.warmReset i (lost.map (·.val)) (unresponsive.map fun u => (u.1.toNat, u.2.toNat)))

/-- REHYDRATION: in step 12 a basin makes HOT what the configuration record shows HOT, fills its slots and reports DRAINED; what fails
is NOT_READY and the basin stays READY (R526, R607). -/
def rehydration (b : Nat) (ok : Bool) (s : State) : State :=
  let x := (s.basin b).st
  if s.pins.step = 11 ∧ x.state = .init ∧ x.restoring then (s.restore b ok).startDone else s

/-- REHYDRATION. -/
def execRehydration (b : BasinId) (ok : Bool) (s : State) : Host.Outcome State Fault Refusal := .next (rehydration b ok s)

end Sys2Proof.Machine
end

