-- ==== Sys2Proof/Machine/Firmware.lean ====
section
/-! DEFINITION. Firmware images and identity (chapter 16, R508-R514): staging, activation, fuse burns, ATTEST and IDENTITY, operator
keys, the debug port's authorization, and the random number generators. -/

namespace Sys2Proof.Machine

/-! ### FW_STAGE (R458, R543-R546) -/

/-- Bytes of an image before its payload (Table 16.3). -/
def fwHead : Nat := 0x4C0

/-- Header fields are in range and what is reserved is 0 (Table 16.3, R544). -/
def fwHeaderOk (i : Nat) (img : List Byte) : Bool :=
  decide (fwHead ≤ img.length) && decide (shardField img 0 4 = 0x474D4953) && decide (shardField img 4 1 = i) && decide (shardField img 5 1 ≤ 3) &&
    decide (shardField img 6 1 < 4) && decide (shardField img 7 1 ≤ 64) && decide (shardField img 0x0C 4 + fwHead = img.length) &&
    ((img.drop 0x14).take 12).all fun x => x == 0#8

/-- The KiB of an image that are held, by index. -/
def FwImage.held (x : FwImage) (k : Nat) : List Byte := Tbl.get [] k x.pieces

/-- A piece that overlaps bytes already held repeats them exactly (R458). -/
def FwImage.repeats (x : FwImage) (k : Nat) : List (List Byte) → Bool
  | [] => true
  | p :: ps => ((x.held k).isEmpty || x.held k == p) && x.repeats (k + 1) ps

/-- A piece joins what is held. -/
def FwImage.keep (x : FwImage) (k : Nat) : List (List Byte) → FwImage
  | [] => x
  | p :: ps => ({ x with pieces := Tbl.set [] k p x.pieces }).keep (k + 1) ps

namespace State

/-- How verification of a whole staged image ends (R544, R545): the header, then the modulus and signature of the vendor, the payload digest and,
under enforcement, the operator's co-signature, then revocation and rollback. DESIGN CHOICE: a modulus that is not the fused one counts as a failed
signature (log entry 61). -/
def fwVerdict (s : State) (i : Nat) (img : List Byte) : Status :=
  let slot := shardField img 5 1
  let modulus := (img.drop 0x40).take 384
  let vendorOk := shaNum modulus == (s.sec.vendorHash[slot]?).getD 0 && rsaVerify modulus ((img.drop 0x1C0).take 384) (img.take 0x1C0)
  let cosignOk := (shardField img 6 1).testBit 0 && (s.signer ((img.drop 0x340).take 384) (img.take 0x340)).isSome
  if !fwHeaderOk i img then .badParam
  else if !vendorOk ∨ (img.drop 0x20).take 32 ≠ sha256 (img.drop fwHead) ∨ (s.sec.enforce ∧ !cosignOk) then .digestMismatch
  else if s.sec.vendorRev.getLsbD slot ∨ shardField img 7 1 < (s.image i).burned then .notPermitted
  else .ok

/-- The staging slot of a type is empty, and the type takes a state. -/
def fwClear (s : State) (i : Nat) (st : FwSt) : State :=
  (s.modImage i fun x => { x with bytes := 0, pieces := [], staged := 0, version := 0, security := 0, cosigned := false }).setFw i st

end State

/-- FW_STAGE: a piece of an image; the whole image is verified (R458, R544, R545). -/
def runFwStage (image : Byte) (bytes offset : Nat) (data : List Byte) (s : State) : Run :=
  let i := image.toNat
  let last := decide (offset + data.length = bytes)
  if 3 < i ∨ offset % 1024 ≠ 0 ∨ data.isEmpty ∨ 8192 < data.length ∨ bytes < offset + data.length ∨ (!last ∧ data.length % 1024 ≠ 0) then
    refuse s .badParam
  else
    let x := s.image i
    if x.st = .activating ∨ x.st = .pending ∨ x.burning then refuse s .wrongState
    else
      let s1 := if x.st = .staging ∨ x.st = .verified then s
        else (s.fwClear i .staging).modImage i fun w => { w with prev := if i = 0 then w.prev else none }
      let y := s1.image i
      let ps := splitBytes 1024 8 data
      if (y.bytes ≠ 0 ∧ y.bytes ≠ bytes) ∨ !y.repeats (offset / 1024) ps then refuse s .badParam
      else
        let z := { y with bytes := bytes }.keep (offset / 1024) ps
        let kib := z.pieces.length
        let s2 := s1.modImage i fun _ => z
        if kib < (bytes + 1023) / 1024 then .done { st := s2, status := .ok, committed := kib, touched := kib, body := natBe 1 0 ++ natBe 7 0 }
        else
          let img := joinPieces kib z.pieces
          match s2.fwVerdict i img with
          | .ok =>
            let s3 := (s2.modImage i fun w => { w with
              staged := shaNum (img.take 64), version := shardField img 8 4, security := shardField img 7 1,
              cosigned := (shardField img 6 1).testBit 0, vendorSlot := shardField img 5 1, revokeLower := (shardField img 6 1).testBit 1 }).setFw i .verified
            .done { st := s3, status := .ok, committed := kib, touched := kib, body := natBe 1 1 ++ natBe 7 0 }
          | e => .done { st := s2.fwClear i .none, status := e, committed := 0, touched := kib, body := [] }

/-! ### FW_ACTIVATE (R509-R514) -/

/-- What is staged is still valid (R544): its vendor slot not revoked, its version not below the fuses, and under enforcement co-signed by an operator
slot that is not revoked. -/
def State.stillValid (s : State) (i : Nat) : Bool :=
  let x := s.image i
  let img := joinPieces x.pieces.length x.pieces
  !s.sec.vendorRev.getLsbD x.vendorSlot && decide (x.burned ≤ x.security) &&
    (!s.sec.enforce || (x.cosigned && (s.signer ((img.drop 0x340).take 384) (img.take 0x340)).isSome))

/-- A basin image waits for the next lockage of a basin that does not run it yet, or starts at once in a basin of no slice (R138, R512). -/
def State.imageAsked (s : State) (b : Nat) : State :=
  let x := s.basin b
  if x.image then s
  else if x.sliceId = 0 then s.modBasin b fun y => { y with imageArmed := true }
  else (s.modBasin b fun y => { y with imageDue := some s.now }).itemPending b none

/-- FW_ACTIVATE: a boot loader waits for the next start-up (R514), a basin image for the lockage of each named basin (R512), the other
two run their steps (R509, R513); at the recovery endpoint the management image starts as the active one (R548). -/
def runFwActivate (h : Hdr) (image : Byte) (s : State) : Run :=
  let i := image.toNat
  if 3 < i ∨ (i = 2 ∧ h.mask = 0#8) then refuse s .badParam
  else if (s.image i).st ≠ .verified ∨ !s.stillValid i then refuse s .wrongState
  else match i with
    | 0 => .done { st := s.setFw 0 .pending, status := .ok, committed := 0, touched := 0, body := [] }
    | 1 =>
      let s1 := s.setFw 1 .activating
      if s.pins.recovery then
        let s2 := ((s1.runStaged 1).startBurn 1).mgmtStarted
        .done { st := { s2 with pins := { s2.pins with recovery := false, failed := 0 } }, status := .ok, committed := 0, touched := 0, body := [] }
      else .later { s1 with mgmt := { s1.mgmt with activating := true } } 0
    | 2 =>
      let bs := maskBasins h.mask
      if bs.any fun b => (s.basin b).st.state == .offline || (s.basin b).st.state == .retired then refuse s .wrongState
      else .later (bs.foldl (fun (t : State) (b : Nat) => t.imageAsked b) (s.setFw 2 .activating)) 0
    | _ => .later (s.setFw 3 .activating) 0

/-- FW_STATUS (R508). -/
def runFwStatus (s : State) : Run :=
  took s ((List.range 4).flatMap fun i =>
    let x := s.image i
    natBe 4 x.runVersion ++ natBe 4 (if x.st = .none then 0 else x.version) ++ natBe 1 x.st.code ++ natBe 1 x.burned ++ natBe 6 0)

namespace State

/-- Every FW_ACTIVATE of an image type that runs ends with a status. -/
def endActivate (s : State) (i : Nat) (st : Status) : State :=
  (s.ep.running.filter fun r => match r.cmd with
    | .fwActivate k => k.toNat == i
    | _ => false).foldl (fun t r => t.finishCmd r.hdr.session.toNat r.hdr.seq.toNat st 0 0 []) s

end State

/-- MGMT_HANDOVER: the standby has started the image and takes over the endpoint within 1 ms, or its start failed (R509, R511). -/
def mgmtHandover (ok : Bool) (s : State) : State :=
  if (s.image 1).st ≠ .activating ∨ !s.mgmt.activating then s
  else
    let s1 := { s with mgmt := { s.mgmt with activating := false } }
    if ok then
      let s2 := (s1.beginPause 100000).runStaged 1
      { s2 with mgmt := { s2.mgmt with core := 1 - s2.mgmt.core } }
    else (s1.setFw 1 .failed).endActivate 1 .aborted

/-- MGMT_HANDOVER. -/
def execMgmtHandover (startOk : Bool) (s : State) : Host.Outcome State Fault Refusal := .next (mgmtHandover startOk s)

/-- NEW_STANDBY_STARTED: the former active core runs the new image, the final reply follows, and the fuses burn (R509, R549). -/
def newStandby (s : State) : State :=
  if (s.image 1).st ≠ .activating ∨ s.mgmt.activating ∨ (s.image 1).burning then s
  else (s.startBurn 1).endActivate 1 .ok

/-- NEW_STANDBY_STARTED. -/
def execNewStandbyStarted (s : State) : Host.Outcome State Fault Refusal := .next (newStandby s)

/-- Every basin that is not OFFLINE or RETIRED runs the staged basin image (Table 16.4). -/
def State.allSwitched (s : State) : Bool :=
  (List.range 8).all fun b => (s.basin b).st.state == .offline || (s.basin b).st.state == .retired || (s.basin b).image

/-- BASIN_IMAGE_START: a drained basin's control cores start the image within 300 us, or return to the old one, which fails the
activation (R512). -/
def basinImageStart (b : Nat) (ok : Bool) (s : State) : State :=
  let x := s.basin b
  let s0 := s.modBasin b fun y => { y with imageArmed := false }
  if !x.imageArmed ∨ (x.sliceId ≠ 0 ∧ (x.cut.lockState ≠ .locking ∨ !s0.drained b)) then s
  else
    let ours := fun (r : RunCmd) => match r.cmd with
      | .fwActivate i => i == 2
      | _ => false
    if ok then
      let s1 := s0.modBasin b fun y => { y with image := true }
      let s2 := if s1.allSwitched then s1.startBurn 2 else s1
      s2.basinDoneAll ours b .ok
    else
      let s1 := s0.setFw 2 .failed
      let s2 := (List.range 8).foldl (fun (t : State) (k : Nat) => t.modBasin k fun y => { y with imageDue := none, imageArmed := false }) s1
      (List.range 8).foldl (fun (t : State) (k : Nat) => t.basinDoneAll ours k .aborted) s2

/-- BASIN_IMAGE_START. -/
def execBasinImageStart (b : BasinId) (ok : Bool) (s : State) : Host.Outcome State Fault Refusal := .next (basinImageStart b ok s)

/-- FLASH_IMAGE_SWITCH: the flash controller writes the journal and starts the new image; the extent map stays (R513). -/
def flashImageSwitch (s : State) : State :=
  if (s.image 3).st ≠ .activating ∨ (s.image 3).burning then s
  else
    let s1 := ((s.runStaged 3).startBurn 3).endActivate 3 .ok
    { s1 with flash := { s1.flash with journal := s1.flash.journal + 1 } }

/-- FLASH_IMAGE_SWITCH. -/
def execFlashImageSwitch (s : State) : Host.Outcome State Fault Refusal := .next (flashImageSwitch s)

/-- Vendor slots below `k` as a mask (R550). -/
def lowerSlots (k : Nat) : BitVec 4 := BitVec.ofNat 4 (2 ^ k - 1)

/-- FUSE_BURN_COMPLETE: the anti-rollback fuses stand at max(burned, security), the slots below a revoke_lower image are revoked
(R549, R550), and nothing is staged any more (Table 16.10). -/
def fuseBurnComplete (i : Nat) (s : State) : State :=
  let x := s.image i
  if !x.burning then s
  else
    let s1 := if i = 2 then
        (List.range 8).foldl (fun (t : State) (b : Nat) => t.modBasin b fun y => { y with image := false }) (s.runStaged 2)
      else s
    let s2 := s1.modImage i fun y => { y with burned := max y.burned y.security, burning := false }
    let s3 := { s2 with sec := { s2.sec with vendorRev := if x.revokeLower then s2.sec.vendorRev ||| lowerSlots x.vendorSlot else s2.sec.vendorRev } }
    s3.fwClear i .none

/-- FUSE_BURN_COMPLETE. -/
def execFuseBurnComplete (image : Fin 4) (s : State) : Host.Outcome State Fault Refusal := .next (fuseBurnComplete image.val s)

/-! ### ATTEST and IDENTITY (R554-R557) -/

namespace State

/-- The 8 B fuse summary (Table 16.5). -/
def fuseSummary (s : State) : List Byte :=
  natBe 1 s.sec.vendorRev.toNat ++ natBe 1 s.sec.opProg.toNat ++ natBe 1 s.sec.opRev.toNat ++ natBe 1 (bit s.sec.enforce) ++ natBe 4 0

/-- A state word as the configuration measurement takes it: 4 B little-endian, in effect (R557). -/
def leWord (s : State) (a : Nat) : List Byte := natLe 4 ((s.word 0 a).getD 0)

/-- An entry of the device table as SET_ROUTES carries it (Table 10.5). -/
def devWord (s : State) (p : Nat) : Nat :=
  let e := Tbl.get DevEntry.fresh p s.fab.devTable
  bit e.present * 2 ^ 31 + e.path.toNat * 2 ^ 29 + e.z.toNat * 512 + e.y.toNat * 128 + e.x.toNat * 16

/-- Words of a basin that the measurement covers. -/
def measuredWords : List Nat :=
  [0x40, 0x80, 0x8C] ++ ((List.range 4).map (0x200 + 4 * ·)) ++ ((List.range 4).map (0x210 + 4 * ·)) ++ ((List.range 4).map (0x300 + 4 * ·)) ++
    ((List.range 4).map (0x400 + 4 * ·))

/-- The configuration measurement (R557). -/
def configMeasure (s : State) : List Byte :=
  let ids := (List.range 8).foldl (fun l b =>
    let id := (s.basin b).sliceId.toNat
    if id = 0 ∨ l.contains id then l else insertNat id l) []
  sha256 (((List.range 128).flatMap fun p => natBe 4 (s.devWord p)) ++ s.leWord 0x02000000 ++
    ((List.range 8).flatMap fun b => measuredWords.flatMap fun o => s.leWord (0x01000000 + b * 0x100000 + o)) ++
    (ids.flatMap fun id => natBe 2 id ++ natBe 2 (s.membersOf id).length ++ (s.membersOf id).flatMap fun m => natBe 2 (m.1 * 512 + m.2)) ++
    s.leWord 0x03000000 ++ s.leWord 0x04000000 ++ s.leWord 0x05000000 ++ natBe 4 s.mgmt.bistParams.toNat ++ s.fuseSummary)

/-- An image entry of the report (Table 16.6). -/
def imageEntry (s : State) (i : Nat) : List Byte :=
  let x := s.image i
  let has := decide (x.st ≠ .none)
  natBe 32 x.running.toNat ++ natBe 32 (if has then x.staged.toNat else 0) ++ natBe 4 x.runVersion ++ natBe 4 (if has then x.version else 0) ++
    natBe 1 x.st.code ++ natBe 1 x.runSecurity ++ natBe 1 x.burned ++
    natBe 1 (bit x.runCosigned + 2 * bit (has && x.cosigned) + 4 * bit (decide (i = 0) && x.fallback)) ++ natBe 4 0

/-- Session `n` sees what runs in basin `b` (R556). -/
def seesBasin (s : State) (n b : Nat) : Bool :=
  match s.session n with
  | some x => x.role == .operator || ((s.basin b).running == some x.ctx && x.basins.getLsbD b)
  | none => false

/-- A basin entry of the report (Table 16.7). -/
def basinEntry (s : State) (n b : Nat) : List Byte :=
  let x := s.basin b
  let show_ := s.seesBasin n b
  let owner := match x.running with
    | some c => if show_ then c else 0xFF
    | none => 0xFF
  let model := match x.activeSlot with
    | some k => (x.slot k).model
    | none => 0
  natBe 1 x.st.state.code ++ natBe 1 x.st.cause.code ++ natBe 1 (bit x.image) ++ natBe 1 (bit x.st.held + 2 * x.maint.excluded.toNat) ++
    natBe 2 x.gen.toNat ++ natBe 1 x.cut.epoch.toNat ++ natBe 1 owner ++ natBe 4 (if show_ then model else 0) ++
    natBe 4 (if show_ then x.cut.cutId.toNat else 0)

end State

/-- ATTEST from session `n` (R555). -/
def runAttest (n : Nat) (nonce : List Byte) (s : State) : Run :=
  let s1 := { s with sec := { s.sec with attests := s.sec.attests + 1 } }
  let debug := s.sec.auths.any fun e => e.2.isSome
  let ptb := (List.range 16).foldl (fun (m : Nat) (i : Nat) => if (s.perturb i).active then m + 2 ^ i else m) 0
  let dev := if s.pins.step.toNat < 6 then 2 else if s.mgmt.oos then 1 else 0
  took s1 (State.padTo 32 nonce ++ s.identityDigest ++ natBe 2 1 ++ natBe 1 dev ++
    natBe 1 (bit debug + 2 * bit (decide (ptb ≠ 0)) + 4 * bit s.sec.enforce + 8 * bit s.sec.failoverSeen + 16 * bit s.sec.entropyFlag) ++
    natBe 2 0x1088 ++ natBe 1 0xA1 ++ natBe 1 0 ++ natBe 8 s1.sec.attests ++ s.configMeasure ++ s.fuseSummary ++ natBe 2 ptb ++ natBe 6 0 ++
    ((List.range 4).flatMap fun i => s.imageEntry i) ++ ((List.range 8).flatMap fun b => s.basinEntry n b))

/-- IDENTITY: a piece of 1,024 B of the certificate chain, which holds at most 6,144 B (R554). -/
def runIdentity (piece : Nat) (s : State) : Run :=
  let total := min Config.certLength 6144
  if total ≤ 1024 * piece ∧ piece ≠ 0 then refuse s .badParam
  else took s (natBe 2 total ++ natBe 2 piece ++ (List.range (min 1024 (total - 1024 * piece))).map fun i => Config.certByte (1024 * piece + i))

/-! ### Debug port (R552, R561-R563) -/

/-- OPERATOR_KEY: an unclaimed device programs slot 0 without authorization, a claimed one needs the debug port's. A fused slot takes
its own modulus again; a revocation leaves at least one slot in use (R552, R553). -/
def operatorKey (k : Nat) (revoke : Bool) (modulus : List Byte) (s : State) : State :=
  let claimed := decide (s.sec.opProg ≠ 0)
  if (claimed ∧ s.authOf 0xFFFF = none) ∨ (!claimed ∧ (k ≠ 0 ∨ revoke)) then s
  else if revoke then
    let rev := s.sec.opRev ||| BitVec.ofNat 4 (2 ^ k)
    if s.sec.opProg &&& ~~~rev = 0 then s else { s with sec := { s.sec with opRev := rev } }
  else
    let hash := shaNum modulus
    if modulus.length ≠ 384 ∨ (s.sec.opProg.getLsbD k ∧ Tbl.get 0#256 k s.sec.opHash ≠ hash) then s
    else { s with sec := { s.sec with
      opProg := s.sec.opProg ||| BitVec.ofNat 4 (2 ^ k), opHash := Tbl.set 0#256 k hash s.sec.opHash, opStored := Tbl.set [] k modulus s.sec.opStored } }

/-- OPERATOR_KEY. -/
def execOperatorKey (slot : Fin 4) (revoke : Bool) (modulus : List Byte) (s : State) : Host.Outcome State Fault Refusal :=
  .next (operatorKey slot.val revoke modulus s)

/-- AUTH: the debug port's exchange, with session number 0xFFFF (R562). -/
def authPort (a : AuthStep) (s : State) : State :=
  match a with
  | .challenge => s.drawChallenge 0xFFFF
  | .response sig => (s.verifyAuth 0xFFFF sig).2

/-- AUTH. -/
def execAuth (step : AuthStep) (s : State) : Host.Outcome State Fault Refusal := .next (authPort step s)

/-- CHALLENGE_EXPIRY: a challenge lasts 60 s (Table 16.8). -/
def challengeExpiry (n : Nat) (s : State) : State :=
  match Tbl.get none n s.sec.challenges with
  | some c => if c.2 + 6000000000 < s.now then { s with sec := { s.sec with challenges := Tbl.set none n none s.sec.challenges } } else s
  | none => s

/-- CHALLENGE_EXPIRY. -/
def execChallengeExpiry (session : BitVec 16) (s : State) : Host.Outcome State Fault Refusal := .next (challengeExpiry session.toNat s)

/-- The central DRBG reseeds from the entropy source, and every basin's from the central one (R560). -/
def State.reseed (s : State) : State :=
  let e := s.entropy 32
  let s1 := { e.2 with sec := { e.2.sec with drbg := e.2.sec.drbg.reseed e.1, entropyFails := 0, entropyFlag := false } }
  (List.range 8).foldl (fun (t : State) (b : Nat) =>
    if (t.basin b).drbg.key.isEmpty then t
    else
      let d := t.draw 32
      d.2.modBasin b fun x => { x with drbg := x.drbg.reseed d.1 }) s1

/-- DRBG_RESEED: every second; three failed health tests in a row raise the entropy flag, and every DRBG goes on without a seed until the next
reseed that succeeds (R560). -/
def drbgReseed (ok : Bool) (s : State) : State :=
  if ok then s.reseed
  else { s with sec := { s.sec with entropyFails := s.sec.entropyFails + 1, entropyFlag := s.sec.entropyFlag || decide (3 ≤ s.sec.entropyFails + 1) } }

/-- DRBG_RESEED. -/
def execDrbgReseed (healthOk : Bool) (s : State) : Host.Outcome State Fault Refusal := .next (drbgReseed healthOk s)

end Sys2Proof.Machine
end

