-- ==== Sys2Proof/Machine/Debug.lean ====
section
/-! DEFINITION. Debug, trace and perturbation (chapter 19): the trace buffers, dumps, raw counters, and the perturbation block. -/

namespace Sys2Proof.Machine

/-! ### Trace (R611-R614) -/

/-- TRACE_CONFIG: source and basin masks, trigger, wrap; start arms the trigger with empty buffers (log entry 35), stop ends recording. -/
def runTraceConfig (sources trigger flags : BitVec 32) (s : State) : Run :=
  if sources.toNat / 2 ^ 9 % 2 ^ 15 ≠ 0 ∨ (trigger ≠ 0xFFFFFFFF#32 ∧ 8 < trigger.toNat / 2 ^ 28) ∨ 8 ≤ flags.toNat then refuse s .badParam
  else
    let t := { s.trace with sources := sources.setWidth 16, basins := BitVec.ofNat 8 (sources.toNat / 2 ^ 24), trigger := trigger, wrap := flags.getLsbD 2 }
    let t1 := if flags.getLsbD 0 then { t with armed := true, recording := [], buf := [] } else t
    let t2 := if flags.getLsbD 1 then { t1 with armed := false, recording := [] } else t1
    took { s with trace := t2 } []

/-- `n` bytes of basin `b`'s buffer from an offset; what holds no record reads 0. -/
def traceSlice (s : State) (b o n : Nat) : List Byte :=
  let recs := ((Tbl.get [] b s.trace.buf).drop (o / 16)).take (n / 16 + 2)
  State.padTo n ((recs.flatMap State.traceBytes).drop (o % 16))

/-- TRACE_READ: the eight buffers are one space of 8 MiB (R611). -/
def runTraceRead (offset bytes : Nat) (s : State) : Run :=
  if bytes = 0 ∨ 8192 < bytes ∨ 0x800000 < offset + bytes then refuse s .badParam
  else
    let b := offset / 0x100000
    let o := offset % 0x100000
    let n := min bytes (0x100000 - o)
    .done { st := s, status := .ok, committed := bytes, touched := bytes, body := traceSlice s b o n ++ traceSlice s (b + 1) 0 (bytes - n) }

/-- TRACE_TRIGGER: a record of a source, which begins the recording where it matches the trigger (R613). -/
def traceTrigger (b source : Nat) (ctx : Byte) (data : BitVec 48) (s : State) : State :=
  if 8 < source then s else s.record b source ctx data

/-- TRACE_TRIGGER. -/
def execTraceTrigger (b : BasinId) (source : BitVec 4) (ctx : Byte) (data : BitVec 48) (s : State) : Host.Outcome State Fault Refusal :=
  .next (traceTrigger b source.toNat ctx data s)

/-! ### Dumps and counters -/

/-- DUMP_READ: the newest record of the retention SRAM, or the n-th dump in flash (R460, R531). -/
def runDumpRead (dump offset bytes : Nat) (s : State) : Run :=
  if bytes = 0 ∨ 8192 < bytes then refuse s .badParam
  else
    let d := if dump = 0 then s.dumps.retention.head? else (s.dumps.flash.drop (dump - 1)).head?
    match d with
    | none => refuse s .wrongState
    | some r =>
      let l := (r.encode.drop offset).take bytes
      .done { st := s, status := .ok, committed := l.length, touched := l.length, body := natBe 4 r.bytes ++ natBe 4 0 ++ l }

/-- COUNTERS_READ: raw words of tiles or links, 32 B for each unit (R87). -/
def runCountersRead (kind first count : Nat) (s : State) : Run :=
  let units := if kind = 0 then 1088 else 96
  if 1 < kind ∨ count = 0 ∨ 256 < count ∨ units < first + count then refuse s .badParam
  else
    let one := fun (u : Nat) =>
      if kind = 0 then ((List.range 7).flatMap fun i => natBe 4 ((s.tile u).cnt.word i).toNat) ++ natBe 4 0
      else ((List.range 3).flatMap fun i => natBe 4 ((s.fabWord (0x1000 + 16 * u + 4 * i)).getD 0)) ++ natBe 20 0
    .done { st := s, status := .ok, committed := count, touched := count, body := (List.range count).flatMap fun i => one (first + i) }

/-! ### The perturbation block (R616-R618) -/

/-- Target and amount lie within Table 19.3. -/
def perturbOk (kind target amount : Nat) : Bool :=
  match kind with
  | 1 => decide (target / 256 % 2 ^ 21 = 0) && decide (1 ≤ amount) && decide (amount ≤ 65535)
  | 2 => decide (target % 128 < 96) && decide (target / 128 % 2 = 0) && decide (target / 256 < 42) && decide (1 ≤ amount) && decide (amount ≤ 100000)
  | 3 => decide (target < 256) && decide (target / 8 % 2 = 0) && decide (target / 64 % 2 = 0) && decide (1 ≤ amount) && decide (amount ≤ 1000000)
  | 4 => decide (target < 224) && decide (1 ≤ amount) && decide (amount ≤ 1000)
  | 5 => decide (target < 8) && (decide (amount = 0) || (decide (10000 ≤ amount) && decide (amount ≤ 100000000)))
  | 6 => decide (target < 8) && decide (1 ≤ amount) && decide (amount ≤ 2)
  | 7 => decide (target / 2 ^ 21 < 1088) && decide (target % 2 ^ 21 < 1572864) && decide (amount ≤ 1)
  | 8 => decide (target < 2 ^ 31) && decide (amount ≤ 1)
  | 9 => decide (target < 96) && decide (1 ≤ amount) && decide (amount ≤ 16)
  | _ => false

/-- PERTURB_SET loads a slot, which is in force from the next rack tick (R616). -/
def runPerturbSet (session : BitVec 16) (kind slot : Byte) (target amount ms : BitVec 32) (s : State) : Run :=
  if 15 < slot.toNat ∨ !perturbOk kind.toNat target.toNat amount.toNat then refuse s .badParam
  else took { s with ptbNext := s.ptbNext ++ [(slot.toNat,
    { Perturb.fresh with active := true, kind := kind, session := session, target := target, amount := amount, left := if ms = 0 then 0xFFFFFFFF else ms })] } []

/-- PERTURB_CLEAR of one slot, or of all with 0xFF; the extent counts the slots in force that it clears (R616). -/
def runPerturbClear (slot : Byte) (s : State) : Run :=
  if 15 < slot.toNat ∧ slot ≠ 0xFF then refuse s .badParam
  else
    let l := (List.range 16).filter fun i => decide (slot = 0xFF) || decide (slot.toNat = i)
    let n := (l.filter fun i => (s.perturb i).active).length
    .done { st := { s with ptbNext := s.ptbNext ++ l.map fun i => (i, Perturb.fresh) }, status := .ok, committed := n, touched := n, body := [] }

/-- The parity bit of a word of an SRAM column flips: a stored flip of a bad word makes it good again. -/
def flipSram (t w : Nat) (transient : Bool) (s : State) : State :=
  s.modTile t fun x =>
    let hit := fun (e : ParErr) => e.space == .column && decide (e.word = w) && e.transient == transient
    let p := x.mem.parity
    let q := if p.any hit then p.filter (fun e => !hit e) else p ++ [{ space := .column, word := w, transient := transient, seen := false }]
    { x with mem := { x.mem with parity := q } }

/-- The parity bit of an LPDDR5X line flips: the stored one, or for the next read alone. -/
def flipDram (b n : Nat) (transient : Bool) (s : State) : State :=
  s.modBasin b fun x =>
    if transient then
      { x with dram := { x.dram with flaky := if x.dram.flaky.contains n then x.dram.flaky.filter (· != n) else x.dram.flaky ++ [n] } }
    else x.flipLine s.basinLines n

/-- A slot comes into force: FORCE_TIMEOUT fences once, and the parity kinds flip their bit (R617). -/
def applyPerturb (i : Nat) (p : Perturb) (s : State) : State :=
  let s1 := s.setPerturb i { p with since := if p.active then s.now else 0 }
  let t := p.target.toNat
  if !p.active then s1
  else match p.kind.toNat with
    | 6 => if (s1.basin t).st.state = .offline then s1 else s1.fence t (if p.amount = 1 then .commandTimeout else .stepTimeout) false
    | 7 => flipSram (t / 2 ^ 21) (t % 2 ^ 21) (decide (p.amount = 1)) s1
    | 8 => flipDram (t / 2 ^ 28) (t % 2 ^ 28) (decide (p.amount = 1)) s1
    | _ => s1

/-- Slots that PERTURB_SET or PERTURB_CLEAR named act at the tick (R616). -/
def perturbTick (s : State) : State :=
  s.ptbNext.foldl (fun (t : State) (p : Nat × Perturb) => applyPerturb p.1 p.2 t) { s with ptbNext := [] }

/-- PERTURB_EXPIRY: the duration of a slot has passed (R616). -/
def perturbExpiry (i : Nat) (s : State) : State :=
  let p := s.perturb i
  if p.active ∧ p.left ≠ 0xFFFFFFFF ∧ p.since + p.left.toNat * 100000 ≤ s.now then s.setPerturb i Perturb.fresh else s

/-- PERTURB_EXPIRY. -/
def execPerturbExpiry (slot : Fin 16) (s : State) : Host.Outcome State Fault Refusal := .next (perturbExpiry slot.val s)

end Sys2Proof.Machine
end

