-- ==== Sys2Proof/Machine/Contexts.lean ====
section
/-! DEFINITION. Contexts and cuts as commands (R442-R445, R355): CREATE_CONTEXT, DESTROY_CONTEXT, LOAD_CUT, SELECT_CUT and SET_BALANCE. -/

namespace Sys2Proof.Machine

/-! ### CREATE_CONTEXT (R442, R467) -/

namespace State

/-- Chunks of the columns of basin `b` that contexts hold, as ranges. -/
def shareRanges (s : State) (b : Nat) : List (Nat × Nat) :=
  (s.basin b).existing.map fun c => (((s.basin b).sramCtx c).base.toNat, ((s.basin b).sramCtx c).size.toNat)

/-- Slot numbers of basin `b` that contexts hold (R128). -/
def slotsHeld (s : State) (b : Nat) : BitVec 4 := (s.basin b).existing.foldl (fun m c => m ||| ((s.basin b).ctx c).slots) 0#4

/-- Barge slots that the quotas of basin `b` take (R309). -/
def bargesHeld (s : State) (b : Nat) : Nat := ((s.basin b).existing.map fun c => ((s.basin b).brgCtx c).quota.toNat).foldl (· + ·) 0

/-- Pages that the quotas of basin `b` take, and those that are retired (R234, R236). -/
def pagesHeld (s : State) (b : Nat) : Nat :=
  ((s.basin b).existing.map fun c => ((s.basin b).ctx c).pages).foldl (· + ·) 0 + (s.basin b).dram.retired.length

/-- The manifest range of a new context: its own place, else the lowest free multiple of 128 (R467). -/
def manBase (s : State) (b c : Nat) : Option Nat :=
  let l := s.otherRanges b c
  let own := (4 * b + c) * 128
  if !rangeMeets own 128 l then some own else ((List.range 32).map (128 * ·)).find? fun k => !rangeMeets k 128 l

/-- A basin has room for a context (R442). -/
def hasRoom (s : State) (b c : Nat) (p : CreateCtxP) : Bool :=
  (lowestRun (s.shareRanges b) p.share.toNat 96).isSome && decide (s.slotsHeld b &&& p.slots.setWidth 4 = 0#4) &&
    s.waysOk b c (p.ways.setWidth 32) && decide (s.bargesHeld b + p.barges.toNat ≤ 960) && decide (s.pagesHeld b + p.pages.toNat ≤ s.poolPages)

/-- A way assignment of firmware: staged in a basin that takes part in lockages, serving or READY, or in no slice until the next tick; at once elsewhere
(R233, R138). -/
def setWays (s : State) (b c : Nat) (v : BitVec 16) : State :=
  let x := s.basin b
  if pendingWays x c = v then s
  else if x.st.state = .serving ∨ x.st.state = .ready ∨ x.sliceId = 0 then (s.modBasin b fun y => stage y (0x210 + 4 * c) (v.setWidth 32) s.now).itemPending b none
  else s.modBasin b (applyWays s.basinLines c (v.setWidth 32))

/-- The 64 pages of a new context's KV directory, every slot of it clear (R239). -/
def layDir (s : State) (b c : Nat) : State :=
  s.modBasin b fun x =>
    let l := x.quotaPages c 64
    ((x.usePages c l).zeroPages s.basinLines l).modCtx c fun y => { y with dir := l }

/-- The context's definition in one basin (Tables 6.1, 8.4, 13.1, 13.2). -/
def define (s : State) (c : Nat) (p : CreateCtxP) (b base first : Nat) : State :=
  ((s.modBasin b fun x => { x with
    ctxs := Tbl.set Ctx.fresh c { Ctx.fresh with exist := true, slots := p.slots.setWidth 4, pages := p.pages.toNat, key := p.key } x.ctxs
    sram := Tbl.set SramCtx.fresh c { store := p.store, size := p.share, base := BitVec.ofNat 8 base } x.sram
    brg := Tbl.mod BrgCtx.fresh c (fun q => { q with quota := p.barges.setWidth 11 }) x.brg
    man := Tbl.set ManCtx.fresh c { count := 128, base := BitVec.ofNat 12 first } x.man
    slots := (List.range 4).foldl (fun t k =>
      if p.slots.getLsbD k then Tbl.set Slot.fresh k { Slot.fresh with assigned := true, ctx := BitVec.ofNat 2 c } t else t) x.slots }).layDir b c).setWays b c p.ways

/-- The context in every basin of the list, as far as each has room. -/
def defineAll (s : State) (c : Nat) (p : CreateCtxP) : List Nat → Option State
  | [] => some s
  | b :: bs =>
    match lowestRun (s.shareRanges b) p.share.toNat 96, s.manBase b c with
    | some base, some first => if s.hasRoom b c p then (s.define c p b base first).defineAll c p bs else none
    | _, _ => none

end State

/-- Ranges of CREATE_CONTEXT's parameters (Table 12.7). -/
def createOk (p : CreateCtxP) : Bool :=
  decide (1 ≤ p.slots.toNat) && decide (p.slots.toNat < 16) && decide (p.store.toNat ≤ 192) && decide (1 ≤ p.share.toNat) &&
    decide (p.share.toNat ≤ 96) && decide (1 ≤ p.barges.toNat) && decide (p.barges.toNat ≤ 960) && decide (64 ≤ p.pages.toNat) &&
    decide (p.key.length = 32) && decide (p.store.toNat * 32 ≤ p.share.toNat * 64)

/-- CREATE_CONTEXT: in every named basin or in none; where ways change it ends at the lockage that gives them (R442). -/
def runCreate (h : Hdr) (p : CreateCtxP) (s : State) : Run :=
  let c := h.context.toNat
  let bs := maskBasins h.mask
  if !createOk p ∨ 3 < c then refuse s .badParam
  else if bs.any fun b => ((s.basin b).ctx c).exist || !((s.basin b).st.state == .ready || (s.basin b).st.state == .serving) then refuse s .wrongState
  else match s.defineAll c p bs with
    | none => refuse s .noResource
    | some t => .later t.journal 0

/-! ### DESTROY_CONTEXT (R443) -/

namespace State

/-- The context's share in every tile of the basin is zero with correct parity (R219), and so is every page of its quota, which returns to the
basin's pool (R240). -/
def zeroContext (s : State) (b c : Nat) : State :=
  let r := s.shareRange b c
  let pages := ((s.basin b).ctx c).allPages
  let s1 := (basinTiles b).foldl (fun (t : State) (i : Nat) => t.modTile i fun y => { y with mem := { y.mem with
    column := Memory.zero y.mem.column r.1 r.2,
    parity := y.mem.parity.filter fun e => !(e.space == .column && decide (r.1 ≤ 4 * e.word) && decide (4 * e.word < r.1 + r.2)) } }) s
  s1.modBasin b fun x => (x.zeroPages s.basinLines pages).dropPages pages

/-- The running cut of a context that goes leaves its basin, with its steps and queues (log entry 36). -/
def dropRunning (s : State) (b c : Nat) : State :=
  if (s.basin b).running ≠ some c then s
  else
    let s1 := (s.basin b).pounds.foldl (fun t p => t.haltPound b p.1) (s.endStepBarges b c)
    { s1.modBasin b fun x => { x with
        pounds := [], queues := [],
        cut := { x.cut with hasSlot := false, lockState := .idle, cutId := 0 } } with
      man := { s1.man with flights := s1.man.flights.filter fun f => f.home != b } }

/-- A basin without the context: loads end in the state before them (Table 7.12), shares and quotas return at once, ways at the next
lockage (Table 12.14). -/
def undefine (s : State) (c b : Nat) : State :=
  let loads := ((s.basin b).ctx c).res.filter fun r => r.state == .loading
  let s1 := loads.foldl (fun t r => t.loadFail b c r.model r.edition .aborted false) s
  let s2 := ((s1.dropRunning b c).zeroContext b c).modBasin b fun x => { x with
    ctxs := Tbl.set Ctx.fresh c Ctx.fresh x.ctxs
    sram := Tbl.set SramCtx.fresh c SramCtx.fresh x.sram
    brg := Tbl.mod BrgCtx.fresh c (fun q => { q with quota := 0 }) x.brg
    man := Tbl.set ManCtx.fresh c ManCtx.fresh x.man
    slots := x.slots.map fun k => (k.1, if k.2.assigned ∧ k.2.ctx.toNat = c then Slot.fresh else k.2)
    sluice := { x.sluice with
      cap := Tbl.set 0#16 c 0#16 x.sluice.cap
      steps := x.sluice.steps.filter fun r => r.ctx != c
      colls := x.sluice.colls.filter fun r => r.ctx != c }
    eng := { x.eng with tows := Tbl.set [] c [] x.eng.tows } }
  s2.setWays b c 0#16

/-- Requests of the context that one of the basins holds or serves. -/
def requestsOf (s : State) (c : Nat) (bs : List Nat) : List Nat :=
  (s.man.entries.filter fun e => e.2.st != .free && e.2.ctx == c && (bs.contains e.2.basin || (s.servingBasins e.2).any bs.contains)).map (·.1)

end State

/-- DESTROY_CONTEXT: every request ends FAILED with ABORTED and its entry becomes FREE (Table 9.4, R467), memory is zeroed, and the
command ends once its ways are released (R443). -/
def runDestroy (h : Hdr) (s : State) : Run :=
  let c := h.context.toNat
  let bs := maskBasins h.mask
  if bs.any fun b => !((s.basin b).ctx c).exist then refuse s .wrongState
  else
    let l := s.requestsOf c bs
    let n := (l.filter fun i => (s.entry i).active).length
    let s1 := l.foldl (fun (t : State) (i : Nat) => (t.endRequest i true .aborted).releaseEntry i) s
    .later (bs.foldl (fun (t : State) (b : Nat) => t.undefine c b) s1).journal n

/-! ### LOAD_CUT (R444, Table 3.12) -/

/-- A slot that runs, or to which its basin is switching, takes no write (R81, R132). -/
def State.slotBusy (s : State) (b k : Nat) : Bool :=
  let x := s.basin b
  (x.activeSlot == some k && (x.slot k).valid) || (x.part.switched && s.nextSlot b == some k)

/-- LOAD_CUT takes the slot: it is not valid while it fills (Table 3.12). -/
def runLoadCut (h : Hdr) (m e slot cut : Nat) (s : State) : Run :=
  let c := h.context.toNat
  let bs := maskBasins h.mask
  let mine := fun (b : Nat) =>
    let x := s.basin b
    (x.ctx c).exist && s.residency b c m e == .hot && (x.slot slot).assigned && decide ((x.slot slot).ctx.toNat = c) &&
      decide (x.sliceId ≠ 0) && (s.cutPayload b c m e cut).isSome
  if 3 < slot then refuse s .badParam
  else if !bs.all mine then refuse s .wrongState
  else if bs.any fun b => s.slotBusy b slot then refuse s .busyLocked
  else .later (bs.foldl (fun (t : State) (b : Nat) => t.modBasin b fun x => x.modSlot slot fun k => { k with
    valid := false, filling := true, model := m, edition := e, cutId := BitVec.ofNat 32 cut }) s) 0

/-- CUT_FILL_COMPLETE: the header and loader checks, the slot CRC that each tile finds, and the slot is valid, or stays invalid
(R130, R131). Where a tile finds a stored parity error in its image, the fill waits for the word's repair (Table 6.10). In a basin that waits in READY for its
cut, service resumes (R502, R526). -/
def cutFillComplete (b c slot : Nat) (crcOk : Bool) (s : State) : State :=
  let z := (s.basin b).slot slot
  let m := z.model
  let e := z.edition
  let cut := z.cutId.toNat
  if !z.filling ∨ z.ctx.toNat ≠ c then s
  else
    let ours := fun (r : RunCmd) => match r.cmd with
      | .loadCut _ _ k id => k.toNat == slot && id == z.cutId && r.hdr.context.toNat == c
      | _ => false
    let fail := fun (st : Status) =>
      (s.modBasin b fun x => x.modSlot slot fun k => { k with valid := false, filling := false }).basinDoneAll ours b st
    match s.cutPayload b c m e cut with
    | none => fail .wrongState
    | some l =>
      let h0 := parseShare m e l
      let h := { h0 with routes := s.shareRoutes b c h0 }
      if !headerCrcOk l then fail .digestMismatch
      else if !s.shareOk b c l h then fail .planMismatch
      else if !(s.badImages b c m e cut l).isEmpty then s.fillSlot b c slot m e cut l
      else if !crcOk ∨ !s.storedCrcOk b c m e cut l then fail .digestMismatch
      else
        let s1 := (((s.fillSlot b c slot m e cut l).keepShare b h).takeAreas b c h).modBasin b fun x => x.modSlot slot fun k =>
          { k with valid := true, filling := false }
        let s2 := s1.journal.basinDoneAll ours b .ok
        if (s2.basin b).st.state = .ready ∧ (s2.basin b).st.held ∧ !(s2.basin b).st.restoring then s2.rejoin b else s2

/-- CUT_FILL_COMPLETE. -/
def execCutFillComplete (b : BasinId) (c : CtxId) (slot : Fin 4) (crcOk : Bool) (s : State) : Host.Outcome State Fault Refusal :=
  .next (cutFillComplete b.val c.val slot.val crcOk s)

/-! ### SELECT_CUT (R445, R472, R473) -/

namespace State

/-- The slot that basin `b` would run after the coming lockages, by the selections accepted so far (R445). -/
def comingSlot (s : State) (b : Nat) : Option Nat :=
  let id := (s.basin b).sliceId.toNat
  (s.selects.filter fun x => x.slice == id).foldl (fun a x => match x.bytes[b]? with
    | some v => if v.toNat < 4 then some v.toNat else a
    | none => a) (s.basin b).activeSlot

/-- The cut that a slot holds. -/
def cutOfSlot (s : State) (b k : Nat) : Nat × Nat × Nat :=
  let z := (s.basin b).slot k
  (z.model, z.edition, z.cutId.toNat)

/-- After a selection every local basin of a slice has an active slot with shares of one cut, or none has (R472). -/
def oneCut (s : State) (id : Nat) (sel : Nat → Option Nat) : Bool :=
  let after := (s.localMembers id).map fun b => ((sel b).orElse fun _ => s.comingSlot b).map fun k => s.cutOfSlot b k
  match after with
  | [] => true
  | x :: xs => xs.all fun y => y == x

/-- No request of the context in basin `b` exceeds the share's plan (Table 4.7). -/
def requestsFit (s : State) (b c : Nat) (h : Share) : Bool :=
  s.man.entries.all fun e => !(e.2.active && e.2.ctx == c && (s.servingBasins e.2).contains b) ||
    (decide (e.2.promptLen + e.2.genLen ≤ h.maxLen) && decide (e.2.draftReq ≤ h.maxDraft))

end State

/-- SELECT_CUT: a pending item of each slice that its basins belong to (R138, R445). -/
def runSelectCut (h : Hdr) (role : Role) (bytes : List Byte) (s : State) : Run :=
  let c := h.context.toNat
  let bs := maskBasins h.mask
  let sel := fun (b : Nat) => match bytes[b]? with
    | some v => if v = 0xFF#8 then none else some v.toNat
    | none => none
  let named := (List.range 8).filter fun b => (sel b).isSome
  let share := fun (b : Nat) => (sel b).bind (s.basin b).shareOf
  if bytes.length ≠ 8 ∨ named.any (fun b => !bs.contains b || !((sel b).any fun k => decide (k < 4))) then refuse s .badParam
  else if role = .tenant ∧ bs.any (fun b => (s.basin b).running != some c) then refuse s .notPermitted
  else if bs.any (fun b => (s.ordinal b).isNone) ∨ named.any (fun b =>
      let z := (s.basin b).slot ((sel b).getD 0)
      !(z.valid && z.assigned && decide (z.ctx.toNat = c))) then refuse s .wrongState
  else
    let ids := (bs.map fun b => (s.basin b).sliceId.toNat).eraseDups
    if !ids.all (fun id => s.oneCut id sel) ∨ !named.all (fun b => (share b).any fun g => s.buffersFit b c g) then refuse s .planMismatch
    else if !named.all (fun b => (share b).any fun g => s.requestsFit b c g) then refuse s .shapeExceedsPlan
    else
      let s1 := { s with selects := s.selects ++ ids.map fun id =>
        { session := h.session.toNat, seq := h.seq.toNat, at_ := s.now, slice := id, bytes := bytes, armed := false } }
      .later (bs.foldl (fun (t : State) (b : Nat) =>
        t.itemPending b ((sel b).filter fun k => (s.basin b).activeSlot != some k)) s1) 0

/-! ### SET_BALANCE (R355) -/

/-- SET_BALANCE: the record goes to the keeper of the one slice that the basins belong to. -/
def runSetBalance (h : Hdr) (p : BalanceP) (s : State) : Run :=
  let bs := maskBasins h.mask
  let ids := (bs.map fun b => (s.basin b).sliceId.toNat).eraseDups
  match ids with
  | [id] =>
    let local_ := s.localMembers id
    let units := (((local_.filterMap fun b => (s.basin b).activeShare).head?).map (·.units)).getD 0
    let mixed := local_.any fun b => (List.range 4).any fun k => ((s.basin b).shareOf k).any fun g => g.kind == 3
    if id = 0 ∨ p.maxPrefill.toNat < p.minPrefill.toNat ∨ (units ≤ p.maxPrefill.toNat ∧ !mixed) ∨ (p.minPrefill = 0 ∧ !mixed) ∨
        p.evalTicks.toNat < 10000 ∨ 100000000 < p.evalTicks.toNat then refuse s .badParam
    else match s.keeperOrdinal (bs.head?.getD 0) with
      | some o =>
        if (s.localOfOrdinal id o).isSome then took (setPolicy id p s) []
        else took ((setPolicy id p s).send (bs.head?.getD 0) (.member id o) (.balance p)) []
      | none => took (setPolicy id p s) []
  | _ => refuse s .badParam

end Sys2Proof.Machine
end

