-- ==== Sys2Proof/Machine/HostRun.lean ====
section
/-! DEFINITION. What the commands of chapters 10, 12, 14, 15 and 17 do once the endpoint lets them run: state words, sessions' notice
targets, fabric tables, power and time, self-test, fences and resets, and COMPLETION_QUERY. -/

namespace Sys2Proof.Machine

/-- An answer that counts `n` units, all of them complete (R434). -/
def counted (s : State) (n : Nat) (body : List Byte) : Run :=
  .done { st := s, status := .ok, committed := n, touched := n, body := body }

/-! ### State words (R4, R12, R437, R438) -/

/-- READ_STATE. -/
def runReadState (n : Nat) (address : BitVec 32) (words : BitVec 16) (s : State) : Run :=
  let k := words.toNat
  if address.toNat % 4 ≠ 0 ∨ k = 0 ∨ 2048 < k then refuse s .badParam
  else
    let r := s.readWords n address.toNat k
    counted r.2 k (r.1.flatMap fun w => natBe 4 w.toNat)

/-- A word that the configuration record holds (R557, R604). -/
def recordWord (a : Nat) : Bool :=
  let off := a % 0x100000
  a == 0x02000000 || a == 0x03000000 || a == 0x04000000 || a == 0x05000000 ||
    (decide (0x01000000 ≤ a) && decide (a < 0x01800000) && (off == 0x40 || off == 0x80 || off / 16 == 0x21 || off / 16 == 0x40))

/-- WRITE_STATE: its status is that of the first word that is not OK; the committed extent counts the words that ended OK or DEFERRED. -/
def runWriteState (n : Nat) (address : BitVec 32) (values : List (BitVec 32)) (s : State) : Run :=
  if address.toNat % 4 ≠ 0 ∨ values = [] ∨ 2048 < values.length then refuse s .badParam
  else
    let r := s.writeWords n address.toNat values
    let kept := (List.range values.length).any fun i =>
      recordWord (address.toNat + 4 * i) && ((r.1[i]?).getD .badParam == .ok || (r.1[i]?).getD .badParam == .deferred)
    .done { st := if kept then r.2.journal else r.2, status := (r.1.find? fun x => x != .ok).getD .ok
            committed := (r.1.filter fun x => x == .ok || x == .deferred).length, touched := values.length
            body := r.1.flatMap fun x => natBe 2 x.code }

/-- A word of a basin that a TENANT session may reach: of its own context, in a basin of its scope (R437). -/
def tenantWord (x : Session) (write : Bool) (a : Nat) : Bool :=
  let off := a % 0x100000
  decide (0x01000000 ≤ a) && decide (a < 0x01800000) && x.basins.getLsbD ((a - 0x01000000) / 0x100000) &&
    (decide (off = 0x100 + 4 * x.ctx) || (!write &&
      (decide (off = 0x200 + 4 * x.ctx) || decide (off = 0x210 + 4 * x.ctx) || decide (off = 0x300 + 4 * x.ctx))))

/-! ### SET_NOTICE_TARGET (R423) -/

/-- SET_NOTICE_TARGET. -/
def runSetNoticeTarget (n : Nat) (carriage mask : Byte) (port : BitVec 16) (address : BitVec 128) (s : State) : Run :=
  if 2 < carriage.toNat ∨ 63 < mask.toNat then refuse s .badParam
  else took (s.modSession n fun x => { x with
    target := some { carriage := carriage.toNat, mask := mask, peer := ⟨address, port⟩ } }) []

/-! ### Fabric (R381-R383, R451) -/

/-- An entry of the device table as Table 10.5 lays it out: reserved bits 0, path not 3, z at most 3. -/
def routeEntryOk (w : BitVec 32) : Bool :=
  decide (w &&& 0x1FFFF00F#32 = 0#32) && decide (w.toNat / 2 ^ 29 % 4 ≠ 3) && decide (w.toNat / 2 ^ 9 % 8 ≤ 3)

/-- The entry that a word of the table gives (Table 10.5). -/
def routeEntry (w : BitVec 32) : DevEntry :=
  { present := w.getLsbD 31, path := BitVec.ofNat 2 (w.toNat / 2 ^ 29), z := BitVec.ofNat 2 (w.toNat / 2 ^ 9),
    y := BitVec.ofNat 2 (w.toNat / 2 ^ 7), x := BitVec.ofNat 3 (w.toNat / 2 ^ 4) }

/-- SET_ROUTES: the device table and FAB_CFG, only while no basin is SERVING (R381). -/
def runSetRoutes (table : List (BitVec 32)) (position : Byte) (s : State) : Run :=
  if table.length ≠ 128 ∨ 127 < position.toNat ∨ !table.all routeEntryOk then refuse s .badParam
  else if (List.range 8).any fun b => (s.basin b).st.state == .serving then refuse s .busyLocked
  else
    let t := (List.range 128).foldl (fun (m : Tbl DevEntry) (i : Nat) => Tbl.set DevEntry.fresh i (routeEntry ((table[i]?).getD 0)) m) []
    took ({ s with fab := { s.fab with devTable := t, valid := true, position := position.setWidth 7 } }).journal []

/-- LINK_STATE: the words of a link or of all; an admin value takes effect at the next rack tick (Table 12.14). -/
def runLinkState (n : Nat) (link admin : Byte) (s : State) : Run :=
  if (95 < link.toNat ∧ link ≠ 0xFF) ∨ (3 < admin.toNat ∧ admin ≠ 0xFF) then refuse s .badParam
  else
    let l := if link = 0xFF then List.range 96 else [link.toNat]
    let s1 := if admin = 0xFF then s
      else l.foldl (fun (t : State) (i : Nat) => t.queueLive n (0x02001000 + 16 * i) (admin.setWidth 32)) s
    took s1 (l.flatMap fun i => ((List.range 3).flatMap fun k => natBe 4 ((s.fabWord (0x1000 + 16 * i + 4 * k)).getD 0)) ++ natBe 4 0)

/-- Position and basin of an entry of a member list (R383). -/
def memberOf (e : BitVec 16) : Nat × Nat := (e.toNat / 512, e.toNat % 8)

/-- Basin numbers of one device form one contiguous run (R26). -/
def contiguous (l : List Nat) : Bool := decide (l.foldl max 0 + 1 = l.foldl min 8 + l.length)

/-- A member list that R383 and R451 accept. -/
def State.memberListOk (s : State) (entries : List (BitVec 16)) : Bool :=
  let l := entries.map memberOf
  decide (1 ≤ l.length) && decide (l.length ≤ 1024) && entries.all (fun e => decide (e.toNat / 8 % 64 = 0)) && decide (l.eraseDups.length = l.length) &&
    l.all fun m => (let d := Tbl.get DevEntry.fresh m.1 s.fab.devTable; d.present && d.path != 0#2) &&
      contiguous ((l.filter fun k => k.1 == m.1).map (·.2))

/-- SET_SLICE: the member list of a slice and BSN_SLICE of its local basins; slice_id 0 removes them from their slices (R383, R451). -/
def runSetSlice (id : Nat) (entries : List (BitVec 16)) (s : State) : Run :=
  let l := entries.map memberOf
  let mine := (l.filter fun m => m.1 == s.fab.position.toNat).map (·.2)
  if !s.memberListOk entries then refuse s .badParam
  else if mine.any fun b => !(s.basin b).stopped then refuse s .busyLocked
  else
    let s1 := mine.foldl (fun (t : State) (b : Nat) => if (t.basin b).sliceId.toNat = id then t else t.leaveSlice b) s
    if id = 0 then took s1.journal []
    else
      let s2 := mine.foldl (fun (t : State) (b : Nat) => t.modBasin b fun x => { x with sliceId := BitVec.ofNat 16 id }) s1
      let kept := s2.fab.members.filter fun m => m.1 != id
      took ({ s2 with fab := { s2.fab with members := kept ++ [(id, l)] } }).journal []

/-! ### Power and time (R453, R454, R585, R589) -/

/-- Start ticks rise strictly. -/
def risingStarts : List PlanStepP → Bool
  | a :: b :: l => decide (a.start.toNat < b.start.toNat) && risingStarts (b :: l)
  | _ => true

/-- A cap and a slew within R453. -/
def capSlewOk (cap slew : Nat) : Bool := decide (260 ≤ cap) && decide (cap ≤ 1200) && decide (5 ≤ slew) && decide (slew ≤ 400)

/-- SET_RAMP_PLAN: the plan and the safe cap; a step whose start is past acts at acceptance, the latest of them alone (R585). -/
def runSetRampPlan (safeCap : BitVec 16) (steps : List PlanStepP) (s : State) : Run :=
  if steps = [] ∨ 64 < steps.length ∨ safeCap.toNat < 260 ∨ 1200 < safeCap.toNat ∨ !risingStarts steps ∨
      !steps.all (fun k => capSlewOk k.cap.toNat k.slew.toNat) then refuse s .badParam
  else
    let l := steps.map fun k => ({ start := k.start.toNat, cap := wattUnits k.cap.toNat, slew := k.slew.toNat } : PlanStep)
    let past := l.filter fun k => decide (k.start ≤ s.now)
    let plan := past.drop (past.length - 1) ++ l.filter fun k => decide (s.now < k.start)
    took (planStep (s.settleCap.modPower fun p => { p with safeCap := wattUnits safeCap.toNat, plan := plan, capNext := none })) []

/-- SET_CAP: from the next rack tick; its reply gives C as it stands then (R453, R585). -/
def runSetCap (cap slew : BitVec 16) (s : State) : Run :=
  let c := wattUnits cap.toNat
  let r := if slew = 0 then s.power.planSlew else slew.toNat
  if cap.toNat < 260 ∨ 1200 < cap.toNat ∨ (slew ≠ 0 ∧ !capSlewOk cap.toNat slew.toNat) then refuse s .badParam
  else
    let now := min c (s.power.capAtTick (s.now + 1))
    took (s.modPower fun p => { p with capNext := some (c, r) }) (natBe 2 (now / 100000) ++ natBe 6 0)

/-- POWER_REPORT: the level alone to a tenant, the whole of R454 to the operator, whose report ends the overrun count. -/
def runPowerReport (role : Role) (s : State) : Run :=
  let p := s.power
  let level := natBe 1 p.level.toNat ++ natBe 7 0
  if role = .tenant then took s level
  else
    let flags := bit p.shed + 2 * bit p.rmLost + 4 * bit p.safe + 8 * bit p.inputLow + 16 * bit (decide (p.duty.toNat < 256))
    took (s.modPower fun q => { q with overrun := 0 })
      (level ++ natBe 4 (Config.measuredPower s.now % 2 ^ 32) ++ natBe 2 (p.capAtTick s.now / 100000) ++ natBe 2 p.slew ++
        natBe 4 (min 0xFFFFFFFF (p.overrun / 10000000000)) ++ natBe 2 (p.tj.signExtend 16).toNat ++ natBe 1 flags ++ natBe 1 0)

/-- TIME_STATUS. -/
def runTimeStatus (s : State) : Run :=
  took s (natBe 8 s.now ++ natBe 1 s.time.source.toNat ++ natBe 1 (bit s.time.locked) ++ natBe 2 0 ++ natBe 4 s.time.missed.toNat)

/-- A command of class 0x09 that an OPERATOR session has accepted is a heartbeat (R589). -/
def withHeartbeat (role : Role) (s : State) (f : State → Run) : Run :=
  if role = .tenant then f s
  else match f s.heartbeat with
    | .done r => if r.status = .ok then .done r else refuse s r.status
    | x => x

/-! ### Self-test and spares (R494-R502) -/

/-- BIST_POLICY, from the next rack tick (Table 12.14). -/
def runBistPolicy (enable flags : Byte) (period : BitVec 16) (s : State) : Run :=
  if 1 < enable.toNat ∨ 1 < flags.toNat ∨ period.toNat < 10 ∨ 60 < period.toNat then refuse s .badParam
  else took ({ s with mgmt := { s.mgmt with
    bistNext := some (enable.getLsbD 0, flags.getLsbD 0, period.toNat, enable ++ flags ++ period) } }).journal []

/-- BIST_REPORT: code and age of the last test of every tile of the named basins. -/
def runBistReport (h : Hdr) (s : State) : Run :=
  let bs := maskBasins h.mask
  let one := fun (t : Nat) =>
    let m := (s.tile t).maint
    natBe 4 (m.lastTest * 2 ^ 24 + (if m.lastTest = 3 then 0 else (s.now - m.testTick) / 100000000 % 2 ^ 24))
  counted s (136 * bs.length) (bs.flatMap fun b => (basinTiles b).flatMap one)

/-- SPARE_REPORT: BSN_ROWMAP of every row of the named basins, and whether its self-test is suspended (Table 14.8). -/
def runSpareReport (h : Hdr) (s : State) : Run :=
  let bs := maskBasins h.mask
  counted s (4 * bs.length) (bs.flatMap fun b => (List.range 4).flatMap fun j =>
    natBe 4 ((if 2 ≤ ((s.basin b).row j).failures then 2 ^ 31 else 0) + ((s.basin b).row j).word))

/-! ### Fence and reset (R455, R456, R537) -/

/-- FENCE: its work begins with the acceptance. -/
def runFence (s : State) : Run := .later s 0

/-- The basins that FENCE names: each that can be fenced drains; the others are closed already (log entry 40). -/
def startFence (n seq : Nat) (bs : List Nat) (s : State) : State :=
  bs.foldl (fun (t : State) (b : Nat) =>
    if t.fenceable b ∧ (t.basin b).st.state ≠ .offline then t.fence b .operator false
    else if (t.basin b).st.draining then t
    else t.basinDone n seq b .ok) s

/-- RESET_BASIN: not of a basin that is RETIRED, or OFFLINE (R456). -/
def runResetBasin (h : Hdr) (s : State) : Run :=
  if (maskBasins h.mask).any fun b => (s.basin b).st.state == .retired || (s.basin b).st.state == .offline then refuse s .wrongState
  else .later s 0

/-- The basins that RESET_BASIN names: fenced by the operator where they are not closed, then reset without a dump (R537). -/
def startReset (bs : List Nat) (s : State) : State :=
  bs.foldl (fun (t : State) (b : Nat) =>
    (t.fence b .operator false).modBasin b fun x => { x with st := { x.st with resetDue := true } }) s

/-- WARM_RESET: the reset begins 1 ms later (R455). -/
def startWarmReset (s : State) : State := { s with mgmt := { s.mgmt with warmDue := some (s.now + 100000) } }

/-- A basin that READMIT may take (Table 15.5). -/
def readmittable (x : Status15) : Bool :=
  x.state == .retired || (x.state == .fenced && !x.resetDue && !x.restoring && !x.retireDue && (x.cause != .thermal || x.released))

/-- READMIT of basins, or of the device (R456, R537). -/
def runReadmit (h : Hdr) (flags : Byte) (s : State) : Run :=
  let retired := ((List.range 8).filter fun b => (s.basin b).st.state == .retired).length
  if 1 < flags.toNat then refuse s .badParam
  else if flags = 1 then
    if !s.mgmt.oos ∨ 3 ≤ retired then refuse s .wrongState
    else took { s with mgmt := { s.mgmt with oos := false, failovers := [] }, pins := { s.pins with pgRun := true } } (perBasin 0#8 fun _ => 0)
  else if (maskBasins h.mask).any fun b => !readmittable (s.basin b).st then refuse s .wrongState
  else .later s 0

/-- The basins that READMIT names return to service; a drain that still runs ends first. -/
def startReadmit (bs : List Nat) (s : State) : State :=
  bs.foldl (fun (t : State) (b : Nat) => (if (t.basin b).st.draining then fenceDrainEnd b true t else t).readmitBasin b) s

/-! ### COMPLETION_QUERY (R427, R457, R528) -/

/-- A session may query commands of a scope: a tenant only its own (R457). -/
def mayQuery (x : Session) (scope : Nat × BitVec 8) : Bool := x.role == .operator || scope == (x.ctx, x.basins)

/-- COMPLETION_QUERY: unknown, running or complete, with the kept final reply. -/
def runCompletionQuery (x : Session) (session : BitVec 16) (seq : BitVec 32) (s : State) : Run :=
  let n := session.toNat
  let q := seq.toNat
  let held := s.ep.held.find? fun e => e.hdr.session == session && e.hdr.seq == seq
  match s.runCmd n q, held, s.ep.kept.reverse.find? fun k => k.session == n && k.seq == q && decide (s.now < k.tick + 6000000000) with
  | some r, _, _ => if mayQuery x r.scope then took s (natBe 2 (opcodeOf r.cmd) ++ natBe 1 1 ++ natBe 5 0) else took s (natBe 8 0)
  | none, some e, _ => if mayQuery x ((e.owner.map Session.scope).getD (4, 0)) then took s (natBe 2 (opcodeOf e.cmd) ++ natBe 1 1 ++ natBe 5 0) else took s (natBe 8 0)
  | none, none, some k =>
    if mayQuery x (k.ctx, k.basins) then took s (natBe 2 k.opcode ++ natBe 1 2 ++ natBe 5 0 ++ k.reply.prefixBytes ++ k.reply.body) else took s (natBe 8 0)
  | none, none, none => took s (natBe 8 0)

end Sys2Proof.Machine
end

