-- ==== Sys2Proof/Machine/Endpoint.lean ====
section
/-! DEFINITION. The Rinzan endpoint (R406): the checks of a packet in the order of Table 11.7, sessions (R409-R416), held and running
commands, and the meaning of every Rinzan command as a command of a session. -/

namespace Sys2Proof.Machine

/-! ### What an opcode asks for -/

/-- The class of an opcode (R428). -/
def classOf (op : Nat) : Nat := op / 256

/-- An opcode that Tables 12.3 to 12.13 list. -/
def opcodeKnown (op : Nat) : Bool :=
  let n := match classOf op with
    | 1 => 4 | 2 => 2 | 3 => 6 | 4 => 4 | 5 => 5 | 6 => 5 | 7 => 2 | 8 => 4 | 9 => 4 | 10 => 3 | 11 => 5 | 12 => 3 | 13 => 2 | 14 => 4 | 15 => 2
    | _ => 0
  decide (1 ≤ op % 256) && decide (op % 256 ≤ n)

/-- The commands that a TENANT session may send (the Role column of chapter 12). -/
def tenantMay (op : Nat) : Bool :=
  let c := classOf op
  c == 1 || c == 2 || c == 4 || c == 6 || c == 7 || c == 13 || op == 0x0503 || op == 0x0504 || op == 0x0903 || op == 0x0904 || op == 0x0B05

/-- A command that names at least one basin (R432). -/
def namesBasins : HostCmd → Bool
  | .submit _ | .makeWarm .. | .makeHot .. | .evict .. | .residencyQuery .. | .createContext _ | .destroyContext | .loadCut .. | .selectCut _
  | .setBalance _ | .manifestStats | .bistReport | .spareReport | .fence | .resetBasin => true
  | .readmit f => !f.getLsbD 0
  | .fwActivate i => i == 2
  | _ => false

/-- The basin mask suits the command (R432): SUBMIT names the one basin of its context, other request commands and MANIFEST_READ ignore
the mask, and device-level commands name none. -/
def maskOk (s : State) (h : Hdr) (cmd : HostCmd) : Bool :=
  match cmd with
  | .submit _ => match maskBasins h.mask with
    | [b] => ((s.basin b).ctx h.context.toNat).exist
    | _ => false
  | .append _ | .cancel .. | .tokens .. | .setDraft .. | .manifestRead .. => true
  | .malformed .. => false
  | _ => if namesBasins cmd then h.mask != 0#8 else h.mask == 0#8

/-- The recovery endpoint takes these alone (R548). -/
def recoveryCmd (op : Nat) : Bool :=
  op == 0x0101 || op == 0x0102 || classOf op == 12 || classOf op == 13

/-- The words that a READ_STATE or WRITE_STATE of a tenant covers are all its own (R437). -/
def tenantWords (x : Session) : HostCmd → Bool
  | .readState a k => (List.range k.toNat).all fun i => tenantWord x false (a.toNat + 4 * i)
  | .writeState a vs => (List.range vs.length).all fun i => tenantWord x true (a.toNat + 4 * i)
  | _ => true

/-- Role and scope permit the command (R411, R431, R437, R460). -/
def permitted (s : State) (x : Session) (h : Hdr) (cmd : HostCmd) : Bool :=
  let op := opcodeOf cmd
  let mine := decide (h.context.toNat = x.ctx) && decide (h.mask &&& ~~~x.basins = 0#8)
  (x.role == .operator || (tenantMay op && mine && tenantWords x cmd)) &&
    (classOf op != 15 || (s.authOf h.session.toNat).isSome)

/-! ### Session keys (R409, R413) -/

/-- The fields of Table 11.8. -/
def keyPlain (l : List Byte) : KeyPlain :=
  let f := fun (off n : Nat) => beNat ((l.drop off).take n)
  { key := l.take 32, role := BitVec.ofNat 8 (f 0x20 1), context := BitVec.ofNat 8 (f 0x21 1), basins := BitVec.ofNat 8 (f 0x22 1),
    reserved := BitVec.ofNat 8 (f 0x23 1), notAfter := BitVec.ofNat 64 (f 0x24 8), ticket := BitVec.ofNat 128 (f 0x2C 16) }

/-- The plaintext of a ciphertext under the identity key, where it has the length of Table 11.8. -/
def State.unwrap (s : State) (cipher : List Byte) : Option KeyPlain :=
  ((rsaDecrypt s.sec.identity.1 s.sec.identity.2 cipher).filter fun l => l.length == 60).map keyPlain

/-! ### Running a command -/

/-- What a command does beyond the endpoint's own checks. Session commands answer here what they check; what they change of the session
itself follows the reply. -/
def runCommand (x : Session) (h : Hdr) (cmd : HostCmd) (s : State) : Run :=
  let n := h.session.toNat
  match cmd with
  | .openSession .. => refuse s .badParam
  | .closeSession flags =>
    let l := (s.man.entries.filter fun e => decide (e.2.session = n) && e.2.active).map (·.1)
    if 1 < flags.toNat then refuse s .badParam
    else if l ≠ [] ∧ flags = 0 then refuse s .wrongState
    else counted (l.foldl (fun (t : State) (i : Nat) => t.cancelRequest i 0 0) s) l.length (natBe 4 l.length)
  | .rotateKey cipher =>
    match s.unwrap cipher with
    | none => refuse s .badParam
    | some p =>
      let digest := shaNum cipher
      let role := if x.role = .operator then 0 else 1
      if p.reserved ≠ 0 ∨ p.role.toNat ≠ role ∨ p.context.toNat ≠ x.ctx ∨ p.basins ≠ x.basins ∨
          p.notAfter.toNat < s.now ∨ s.now + 6000000000 < p.notAfter.toNat then refuse s .badParam
      else if s.ep.digests.any fun d => d.1 == digest && decide (s.now ≤ d.2) then refuse s .counterReplay
      else took { s with ep := { s.ep with digests := s.ep.digests ++ [(digest, p.notAfter.toNat)] } } []
  | .setNoticeTarget c m p a => runSetNoticeTarget n c m p a s
  | .readState a k => runReadState n a k s
  | .writeState a vs => runWriteState n a vs s
  | .storeBegin p => runStoreBegin p s
  | .storeShard m e i p d => runStoreShard m.toNat e.toNat i.toNat p.toNat d s
  | .storeCommit m e => runStoreCommit m.toNat e.toNat s
  | .storeDelete m e => runStoreDelete m.toNat e.toNat s
  | .storeList f k => runStoreList f.toNat k.toNat s
  | .storeVerify m e => runStoreVerify m.toNat e.toNat s
  | .makeWarm m e => runMake h m.toNat e.toNat false false s
  | .makeHot m e f => if 1 < f.toNat then refuse s .badParam else runMake h m.toNat e.toNat true (f.getLsbD 0) s
  | .evict m e => runEvict h m.toNat e.toNat s
  | .residencyQuery m e => runResidency h m.toNat e.toNat s
  | .createContext p => runCreate h p s
  | .destroyContext => runDestroy h s
  | .loadCut m e k id => runLoadCut h m.toNat e.toNat k.toNat id.toNat s
  | .selectCut l => runSelectCut h x.role l s
  | .setBalance p => runSetBalance h p s
  | .submit p => runSubmit h p s
  | .append p => runAppend h p s
  | .cancel e r => runCancel h e r s
  | .tokens e r p => runTokens h e r p s
  | .setDraft e d r => runSetDraft h e d r s
  | .manifestRead f k => runManifestRead h f k s
  | .manifestStats => runManifestStats h s
  | .setRoutes t p => runSetRoutes t p s
  | .linkState l a => runLinkState n l a s
  | .setSlice id l => runSetSlice id.toNat l s
  | .setChain m e u d i => runSetChain m.toNat e.toNat u.toNat d.toNat i.toNat s
  | .setRampPlan c l => withHeartbeat x.role s (runSetRampPlan c l)
  | .setCap c r => withHeartbeat x.role s (runSetCap c r)
  | .powerReport => withHeartbeat x.role s (runPowerReport x.role)
  | .timeStatus => withHeartbeat x.role s runTimeStatus
  | .bistPolicy e f p => runBistPolicy e f p s
  | .bistReport => runBistReport h s
  | .spareReport => runSpareReport h s
  | .fence => runFence s
  | .resetBasin => runResetBasin h s
  | .warmReset => .later s 0
  | .readmit f => runReadmit h f s
  | .completionQuery i q => runCompletionQuery x i q s
  | .fwStage i b o d => runFwStage i b.toNat o.toNat d s
  | .fwActivate i => runFwActivate h i s
  | .fwStatus => runFwStatus s
  | .attest nonce => if nonce.length ≠ 32 then refuse s .badParam else runAttest n nonce s
  | .identity p => runIdentity p.toNat s
  | .traceConfig a b c => runTraceConfig a b c s
  | .traceRead o k => runTraceRead o.toNat k.toNat s
  | .dumpRead d o k => runDumpRead d.toNat o.toNat k.toNat s
  | .countersRead k f c => runCountersRead k.toNat f.toNat c.toNat s
  | .perturbSet k i t a d => runPerturbSet h.session k i t a d s
  | .perturbClear i => runPerturbClear i s
  | .malformed .. => refuse s .badParam

/-- What follows the acceptance of a command whose work goes on. -/
def afterStart (h : Hdr) (cmd : HostCmd) (s : State) : State :=
  let bs := maskBasins h.mask
  match cmd with
  | .createContext _ | .destroyContext => bs.foldl (fun (t : State) (b : Nat) => waysApplied b t) s
  | .fence => startFence h.session.toNat h.seq.toNat bs s
  | .resetBasin => startReset bs s
  | .readmit _ => startReadmit bs s
  | .fwActivate _ => bs.foldl (fun (t : State) (b : Nat) => if (t.basin b).image then t.basinDone h.session.toNat h.seq.toNat b .ok else t) s
  | _ => s

namespace State

/-- A session closes: its debug authorization ends (R415, R563). What it has been told ACCEPTED runs on, held commands among it, and their replies
are discarded (R427). -/
def closeSession (s : State) (n : Nat) : State :=
  let s1 := (s.endAuth n).setSession n none
  { s1 with sec := { s1.sec with challenges := Tbl.set none n none s1.sec.challenges } }

/-- The new key of a rotation counts from the packet after its reply; the old one answers the retry alone, for 1 s (R413, R414). -/
def rotate (s : State) (n : Nat) (h : Hdr) (cmd : HostCmd) (key : List Byte) : State :=
  s.modSession n fun y => { y with
    key := key, rxCount := 0, txCount := 0, oldKey := some { key := y.key, seq := h.seq.toNat, cmd := cmd, until_ := s.now + 100000000 } }

/-- What a session command changes of its session after its reply. -/
def afterReply (s : State) (h : Hdr) (cmd : HostCmd) (st : Status) : State :=
  if st ≠ .ok then s
  else match cmd with
    | .closeSession _ => s.closeSession h.session.toNat
    | .rotateKey cipher => match s.unwrap cipher with
      | some p => s.rotate h.session.toNat h cmd p.key
      | none => s
    | _ => s

/-- A command of class 0x0D answers under a signature in place of a MAC, outside the session's counters (R405); the PSS salt comes from the central
DRBG (R540, R560). -/
def replySigned (s : State) (n : Nat) (h : Hdr) (cmd : HostCmd) (st : Status) (touched : Nat) (body : List Byte) : State :=
  let q := replyPkt s h (opcodeOf cmd) st touched touched body
  let p := { q with session := n }
  let s1 := s.cacheClose n h.seq.toNat cmd p
  let f := s1.draw 32
  if s.mgmt.warmDue.isSome then s1 else f.2.emit { p with salt := f.1 }

/-- The final reply of a command that ends at once. -/
def answer (s : State) (x : Session) (h : Hdr) (cmd : HostCmd) (st : Status) (committed touched : Nat) (body : List Byte) : State :=
  let n := h.session.toNat
  if classOf (opcodeOf cmd) = 13 then s.replySigned n h cmd st touched body
  else s.finalReply n x.scope h cmd st committed touched body

/-- The command that a running command is kept as: its timeouts count from the later of acceptance and not-before (R403), and a tenant's
shorter one ends its host's wait alone (R517). -/
def runCmdOf (s : State) (x : Session) (h : Hdr) (cmd : HostCmd) (units : Nat) : RunCmd :=
  let base := max s.now h.notBefore.toNat
  let dflt := classTimeout (classOf (opcodeOf cmd))
  let ms := if h.timeout = 0 then dflt else h.timeout.toNat
  let short := x.role == .tenant && decide (ms < dflt)
  let mask := if namesBasins cmd then h.mask else 0#8
  { hdr := h, cmd := cmd, mask := mask, doneMask := 0, okMask := 0, begun := (maskBasins mask).length, units := units,
    deadline := base + 100000 * (if short then dflt else ms), shortDeadline := if short then some (base + 100000 * ms) else none,
    waitOver := false, results := [], scope := x.scope }

/-- The checks of the command itself and its effect (step 11 of Table 11.7). `told` says that ACCEPTED has gone out already. -/
def start (s : State) (x : Session) (h : Hdr) (cmd : HostCmd) (told : Bool) : State :=
  let n := h.session.toNat
  let op := opcodeOf cmd
  let c := classOf op
  let fail := fun (st : Status) => s.answer x h cmd st 0 0 []
  if s.mgmt.oos ∧ 3 ≤ c ∧ c ≤ 6 then fail .outOfService
  else if s.pins.recovery ∧ !recoveryCmd op then fail .wrongState
  else if c = 15 ∧ (s.authOf n).isNone then fail .notPermitted
  else if 3 < h.context.toNat ∨ !maskOk s h cmd then fail .badParam
  else if c ≠ 11 ∧ namesBasins cmd ∧ (maskBasins h.mask).any (fun b => (s.basin b).st.state == .fenced) then fail .fenced
  else
    let runs := match runCommand x h cmd s with
      | .done r => r.status == .ok
      | .later .. => true
    let s0 := if longClass c && !told && runs then s.acceptedReply n h cmd else s
    match runCommand x h cmd s0 with
    | .done r => (r.st.answer x h cmd r.status r.committed r.touched r.body).afterReply h cmd r.status
    | .later t units =>
      if cmd = .warmReset then startWarmReset t
      else
        let r := t.runCmdOf x h cmd units
        afterStart h cmd { t with ep := { t.ep with running := t.ep.running ++ [r] } }

/-- The role, context and basins whose pool a held command counts in: those of its session, or for OPEN_SESSION those that it asks for (R470). -/
def heldPool (s : State) (e : Held) : Role × Nat × BitVec 8 :=
  match e.owner, e.cmd with
  | some y, _ => (y.role, y.ctx, y.basins)
  | none, .openSession cipher _ => match s.unwrap cipher with
    | some p => (if p.role = 0 then .operator else .tenant, p.context.toNat, p.basins)
    | none => (.operator, 4, 0)
  | none, _ => (.operator, 4, 0)

/-- The pool of held commands of a role, context and basins is full: 64 for OPERATOR sessions, 6 for each context of each basin (R404, R470). -/
def heldFull (s : State) (role : Role) (ctx : Nat) (basins : BitVec 8) : Bool :=
  let n := fun (f : Role × Nat × BitVec 8 → Bool) => (s.ep.held.filter fun e => f (s.heldPool e)).length
  decide (256 ≤ s.ep.held.length) ||
    (if role = .operator then decide (64 ≤ n fun y => y.1 == .operator)
    else (maskBasins basins).any fun b => decide (6 ≤ n fun y => y.1 == .tenant && decide (y.2.1 = ctx) && y.2.2.getLsbD b))

/-- Steps 8 to 11 of Table 11.7; a held command is answered ACCEPTED (log entry 41). -/
def takeIn (s : State) (x : Session) (h : Hdr) (cmd : HostCmd) : State :=
  let fail := fun (st : Status) => s.answer x h cmd st 0 0 []
  let t := h.notBefore.toNat
  if !opcodeKnown (opcodeOf cmd) then fail .badOpcode
  else if !permitted s x h cmd then fail .notPermitted
  else if t ≤ s.now then s.start x h cmd false
  else if s.now + 2 ^ 32 < t then fail .badParam
  else if s.heldFull x.role x.ctx x.basins then fail .noResource
  else ({ s with ep := { s.ep with held := s.ep.held ++ [Held.mk h cmd (some x)] } }).acceptedReply h.session.toNat h cmd

/-- The cached command answers again, on the carriage of the retry, under `key` or the session's key (R420): its final reply, or ACCEPTED
while it runs or waits. -/
def replay (s : State) (n : Nat) (key : Option (List Byte)) (h : Hdr) (e : CacheEntry) : State :=
  match e.reply with
  | some p =>
    let q := { p with carriage := h.carriage, priority := h.priority.toNat, peer := h.peer }
    if p.sign = 0 then s.emitReply n key q else if s.mgmt.warmDue.isSome then s else s.emit q
  | none =>
    let q := replyPkt s h (opcodeOf e.cmd) .accepted 0 0 []
    s.emitReply n key { q with tick := e.tick }

/-- The cache entry of a sequence, within 10 s of its command (R420). -/
def cached (s : State) (x : Session) (seq : Nat) : Option CacheEntry :=
  x.cache.find? fun e => e.seq == seq && decide (s.now < e.tick + 1000000000)

/-- Step 7: a sequence in the reply cache answers from it; a differing command fails with BAD_PARAM. -/
def checkCache (s : State) (x : Session) (h : Hdr) (cmd : HostCmd) : State :=
  let n := h.session.toNat
  match s.cached x h.seq.toNat with
  | some e => if e.cmd = cmd then s.replay n none h e else s.emitReply n none (replyPkt s h (opcodeOf cmd) .badParam 0 0 [])
  | none => (s.cacheOpen n h.seq.toNat cmd).takeIn x h cmd

/-- The I3C queue holds nothing but replies and is full (R426). -/
def i3cFull (s : State) (c : Carriage) : Bool :=
  c == .i3c && decide (64 ≤ s.ep.i3c.length) && s.ep.i3c.all fun p => p.kind != .notice

/-- A packet reaches the endpoint: the port is UP, or the I3C target acknowledges its address; a pause drops it (R416, R548, R601). Where
a NAND channel holds start-up in step 6 the device answers ATTEST and IDENTITY alone (R260, R558). -/
def reaches (s : State) (c : Carriage) (op : Nat) : Bool :=
  !s.ep.pause && (match c with
    | .ethernet => s.inService && s.eth.st == 2 && !s.eth.portReset
    | .i3c => s.inService || s.pins.recovery || (s.pins.halted && s.pins.failed == 6 && classOf op == 13))

/-- IDENTITY and ATTEST (R405, R559): from no session at most 100 a second. -/
def anySession (s : State) (h : Hdr) (cmd : HostCmd) : State :=
  match s.session h.session.toNat with
  | some x => s.checkCache x h cmd
  | none =>
    let fresh := decide (s.ep.identTick + 100000000 ≤ s.now)
    let k := if fresh then 0 else s.ep.identRate
    if 100 ≤ k then s
    else
      let s1 := { s with ep := { s.ep with identRate := k + 1, identTick := if fresh then s.now else s.ep.identTick } }
      let x : Session := {
        role := .operator, key := [], ctx := 0, basins := 0, rx := 0, tx := 0, rxCount := 0, txCount := 0, cache := [], target := none,
        noticeSeq := 0, lastTick := 0, carriage := h.carriage, peer := h.peer, oldKey := none, opSlot := none }
      s1.start x h cmd true

/-! ### OPEN_SESSION (R409, R410, R412, R470) -/

/-- The pool of a new session is full: 64 OPERATOR sessions, 30 for each context of each basin of a tenant's scope. -/
def sessionsFull (s : State) (role : Role) (ctx : Nat) (basins : BitVec 8) : Bool :=
  let n := fun (f : Session → Bool) => (s.sessionsWhere f).length
  decide (1024 ≤ n fun _ => true) ||
    (if role = .operator then decide (64 ≤ n fun y => y.role == .operator)
    else (maskBasins basins).any fun b => decide (30 ≤ n fun y => y.role == .tenant && decide (y.ctx = ctx) && y.basins.getLsbD b))

/-- The ticket of a tenant verifies under the admission key of its context in every basin of the scope. -/
def ticketOk (s : State) (p : KeyPlain) : Bool :=
  let m := p.key ++ [p.role, p.context, p.basins, p.reserved] ++ natBe 8 p.notAfter.toNat
  (maskBasins p.basins).all fun b =>
    let y := (s.basin b).ctx p.context.toNat
    y.exist && (hmac y.key m).take 16 == natBe 16 p.ticket.toNat

/-- What OPEN_SESSION's own checks find, in the order of R409 and R410; the recovery endpoint opens OPERATOR sessions alone (R548). -/
def openStatus (s : State) (h : Hdr) (cipher sig : List Byte) (p : KeyPlain) : Status :=
  if p.reserved ≠ 0 ∨ 1 < p.role.toNat ∨ 3 < p.context.toNat ∨ p.context ≠ h.context ∨ p.basins ≠ h.mask ∨
      p.notAfter.toNat < s.now ∨ s.now + 6000000000 < p.notAfter.toNat then .badParam
  else if s.ep.digests.any fun d => d.1 == shaNum cipher && decide (s.now ≤ d.2) then .counterReplay
  else if s.pins.recovery ∧ p.role = 1#8 then .wrongState
  else if p.role = 0#8 ∧ (s.signer sig cipher).isNone then .notPermitted
  else if p.role = 1#8 ∧ !s.ticketOk p then .notPermitted
  else if s.sessionsFull (if p.role = 0 then .operator else .tenant) p.context.toNat p.basins then .noResource
  else .ok

/-- A session number that is free, and names no command that runs on or waits (R427); which one is open. -/
def freeSession (s : State) : Nat × State :=
  let f := s.free
  let taken := s.ep.held.map (fun e => e.hdr.session.toNat) ++ s.ep.running.map fun r => r.hdr.session.toNat
  (((List.range 65534).map fun k => (f.1 + k) % 65534 + 1).find? (fun n => (s.session n).isNone && !taken.contains n) |>.getD 1, f.2)

/-- A reply to an OPEN_SESSION that opened nothing: under the plaintext's key, from session 0. -/
def openRefused (s : State) (h : Hdr) (p : KeyPlain) (st : Status) : State :=
  let s1 := if st = .counterReplay then s.countAuth else s
  let q := replyPkt s h 0x0101 st 0 0 []
  s1.emit { q with key := p.key }

/-- OPEN_SESSION with its MAC correct under the plaintext's key (R409): the reply gives the number and is the session's first packet. -/
def openSession (s : State) (h : Hdr) (cmd : HostCmd) (cipher sig : List Byte) (p : KeyPlain) : State :=
  let st := s.openStatus h cipher sig p
  if st ≠ .ok then s.openRefused h p st
  else if s.now < h.notBefore.toNat then
    if s.now + 2 ^ 32 < h.notBefore.toNat then s.openRefused h p .badParam
    else if s.heldFull (if p.role = 0 then .operator else .tenant) p.context.toNat p.basins then s.openRefused h p .noResource
    else ({ s with ep := { s.ep with held := s.ep.held ++ [Held.mk h cmd none] } }).openRefused h p .accepted
  else
    let f := s.freeSession
    let n := f.1
    let role : Role := if p.role = 0 then .operator else .tenant
    let x : Session := {
      role := role, key := p.key, ctx := p.context.toNat, basins := p.basins, rx := h.counter.toNat, tx := 1, rxCount := 1, txCount := 0,
      cache := [], target := none, noticeSeq := 0, lastTick := s.now, carriage := h.carriage, peer := h.peer, oldKey := none,
      opSlot := if role = .operator then s.signer sig cipher else none }
    let live := s.ep.digests.filter fun d => decide (s.now ≤ d.2)
    let f2 := f.2
    let s1 := ({ f2 with ep := { f2.ep with digests := live ++ [(shaNum cipher, p.notAfter.toNat)] } }).setSession n (some x)
    let q := replyPkt s1 h 0x0101 .ok 1 1 (natBe 2 n ++ natBe 6 0)
    let sc := s1.scopeOf n
    (s1.keepReply h sc.1 sc.2 q).emitReply n none q

/-! ### Arrival (Table 11.7) -/

/-- 2^40 packets in one direction have used up a session's key for every command but ROTATE_KEY and CLOSE_SESSION (R414). -/
def keySpent (x : Session) (op : Nat) : Bool :=
  (decide (2 ^ 40 ≤ x.rxCount) || decide (2 ^ 40 ≤ x.txCount)) && op != 0x0102 && op != 0x0103

/-- Steps 4 to 7 for a command of a session whose MAC is correct under its key. -/
def inSession (s : State) (h : Hdr) (cmd : HostCmd) : State :=
  let n := h.session.toNat
  let op := opcodeOf cmd
  match s.session n with
  | none => (s.countAuth).unauthReply h.carriage h.priority.toNat h.peer op n h.seq.toNat .noSession
  | some x =>
    if keySpent x op then (s.countAuth).unauthReply h.carriage h.priority.toNat h.peer op n h.seq.toNat .noSession
    else if h.counter.toNat ≤ x.rx then s.countAuth.emitReply n none (replyPkt s h op .counterReplay 0 0 [])
    else
      let y := { x with rx := h.counter.toNat, rxCount := x.rxCount + 1, lastTick := s.now, carriage := h.carriage, peer := h.peer }
      let s1 := s.setSession n (some y)
      if s.i3cFull h.carriage then s1.emitReply n none (replyPkt s h op .noResource 0 0 [])
      else s1.checkCache y h cmd

/-- An unclaimed device answers IDENTITY, ATTEST and a TENANT OPEN_SESSION alone (R551). -/
def unclaimedDrops (s : State) (cmd : HostCmd) : Bool :=
  decide (s.sec.opProg = 0#4) && classOf (opcodeOf cmd) != 13 && (match cmd with
    | .openSession cipher _ => (s.unwrap cipher).all fun p => p.role != 1#8
    | _ => true)

/-- A command whose packet passed steps 1 and 2, and step 5 where it has a MAC. -/
def receive (s : State) (h : Hdr) (cmd : HostCmd) : State :=
  let op := opcodeOf cmd
  if !s.reaches h.carriage op ∨ s.unclaimedDrops cmd then s
  else if classOf op = 13 ∧ opcodeKnown op then s.anySession h cmd
  else match cmd with
    | .openSession cipher sig =>
      if h.session ≠ 0 then s.inSession h cmd
      else match s.unwrap cipher with
        | some p => s.openSession h cmd cipher sig p
        | none => s.countAuth.unauthReply h.carriage h.priority.toNat h.peer op 0 h.seq.toNat .badMac
    | _ => s.inSession h cmd

end State

/-- One Rinzan command of a session, well-formed and with its MAC correct, as it arrives. -/
def hostCmd (h : Hdr) (cmd : HostCmd) (s : State) : Host.Outcome State Fault Refusal := .next (s.receive h cmd)

end Sys2Proof.Machine
end

