-- ==== Sys2Proof/Machine/Packets.lean ====
section
/-! DEFINITION. Bytes that arrive: Rinzan packets (R400-R406) with the parameter layouts of chapter 12, Ethernet frames (R395-R398) and the
I3C management port (R425, R426). -/

namespace Sys2Proof.Machine

/-! ### Parameters (R430) -/

/-- `n` bytes at an offset, big-endian (R5). -/
def fld (p : List Byte) (off n : Nat) : Nat := beNat ((p.drop off).take n)

/-- A field as bits. -/
def fldB (w : Nat) (p : List Byte) (off n : Nat) : BitVec w := BitVec.ofNat w (fld p off n)

/-- `k` words of four bytes from an offset. -/
def fldWords (p : List Byte) (off k : Nat) : List (BitVec 32) := (List.range k).map fun i => fldB 32 p (off + 4 * i) 4

/-- A command, where its parameters have the length `n` and the reserved fields are 0. -/
def laid (p : List Byte) (n : Nat) (reserved : Bool) (c : HostCmd) : Option HostCmd :=
  if p.length = n ∧ reserved then some c else none

/-- A field of reserved bytes is 0. -/
def zeros (p : List Byte) (off n : Nat) : Bool := decide (fld p off n = 0)

/-- The command that an opcode's parameters give, with the crypto engine's answers; none where they do not have its layout (Tables 12.3
to 12.13). -/
def parseCmd (op : Nat) (p : List Byte) : Option HostCmd :=
  let model := fldB 32 p 0 4
  let edition := fldB 16 p 4 2
  match op with
  | 0x0101 =>
    let signed := decide (fld p 0x180 2 = 1)
    laid p (if signed then 772 else 388) (decide (fld p 0x180 2 ≤ 1) && zeros p 0x182 2) (.openSession (p.take 384) (p.drop 0x184))
  | 0x0102 => laid p 4 (zeros p 1 3) (.closeSession (fldB 8 p 0 1))
  | 0x0103 => laid p 384 true (.rotateKey p)
  | 0x0104 => laid p 20 true (.setNoticeTarget (fldB 8 p 0 1) (fldB 8 p 1 1) (fldB 16 p 2 2) (fldB 128 p 4 16))
  | 0x0201 => laid p 8 (zeros p 6 2) (.readState model edition)
  | 0x0202 => laid p (8 + 4 * fld p 4 2) (zeros p 6 2) (.writeState model (fldWords p 8 (fld p 4 2)))
  | 0x0301 => laid p 56 (zeros p 7 1) (.storeBegin {
      model := model, edition := edition, mode := fldB 8 p 6 1, shards := fldB 32 p 8 4, intakeMs := fldB 32 p 12 4, bytes := fldB 64 p 16 8,
      digest := fldB 256 p 24 32 })
  | 0x0302 => laid p (max 17 p.length) (zeros p 6 2) (.storeShard model edition (fldB 32 p 8 4) (fldB 32 p 12 4) (p.drop 16))
  | 0x0303 => laid p 8 (zeros p 6 2) (.storeCommit model edition)
  | 0x0304 => laid p 8 (zeros p 6 2) (.storeDelete model edition)
  | 0x0305 => laid p 8 (zeros p 6 2) (.storeList model edition)
  | 0x0306 => laid p 8 (zeros p 6 2) (.storeVerify model edition)
  | 0x0401 => laid p 8 (zeros p 6 2) (.makeWarm model edition)
  | 0x0402 => laid p 8 true (.makeHot model edition (fldB 16 p 6 2))
  | 0x0403 => laid p 8 (zeros p 6 2) (.evict model edition)
  | 0x0404 => laid p 8 (zeros p 6 2) (.residencyQuery model edition)
  | 0x0501 => laid p 48 (zeros p 3 1 && zeros p 12 4) (.createContext {
      slots := fldB 8 p 0 1, store := fldB 8 p 1 1, share := fldB 8 p 2 1, ways := fldB 16 p 4 2, barges := fldB 16 p 6 2, pages := fldB 32 p 8 4,
      key := p.drop 16 })
  | 0x0502 => laid p 0 true .destroyContext
  | 0x0503 => laid p 12 (zeros p 7 1) (.loadCut model edition (fldB 8 p 6 1) (fldB 32 p 8 4))
  | 0x0504 => laid p 8 true (.selectCut p)
  | 0x0505 => laid p 32 (zeros p 26 6) (.setBalance {
      evalTicks := fldB 32 p 0 4, holdTicks := fldB 32 p 4 4, minPrefill := fldB 16 p 8 2, maxPrefill := fldB 16 p 10 2, queueHigh := fldB 32 p 12 4,
      queueLow := fldB 32 p 16 4, firstLateHigh := fldB 16 p 20 2, nextLateHigh := fldB 16 p 22 2, mixedPrefillRows := fldB 16 p 24 2 })
  | 0x0601 => laid p (48 + 4 * fld p 0x2E 2) true (.submit {
      requestId := fldB 64 p 0 8, promptLen := fldB 32 p 8 4, genLimit := fldB 32 p 12 4, firstBudget := fldB 32 p 16 4, nextBudget := fldB 32 p 20 4,
      holdTicks := fldB 32 p 24 4, stopToken := fldB 32 p 28 4, priority := fldB 8 p 32 1, latePolicy := fldB 8 p 33 1, draftReq := fldB 8 p 34 1,
      flags := fldB 8 p 35 1, temperature := fldB 32 p 36 4, topP := fldB 32 p 40 4, topK := fldB 16 p 44 2, tokens := fldWords p 48 (fld p 0x2E 2) })
  | 0x0602 => laid p (20 + 4 * fld p 2 2) true (.append {
      entry := fldB 16 p 0 2, requestId := fldB 64 p 4 8, genLimit := fldB 32 p 12 4, turnTokens := fldB 32 p 16 4, tokens := fldWords p 20 (fld p 2 2) })
  | 0x0603 => laid p 16 (zeros p 2 6) (.cancel (fldB 16 p 0 2) (fldB 64 p 8 8))
  | 0x0604 => laid p 20 (zeros p 2 6) (.tokens (fldB 16 p 0 2) (fldB 64 p 8 8) (fldB 32 p 16 4))
  | 0x0605 => laid p 16 (zeros p 3 5) (.setDraft (fldB 16 p 0 2) (fldB 8 p 2 1) (fldB 64 p 8 8))
  | 0x0701 => laid p 8 (zeros p 4 4) (.manifestRead (fldB 16 p 0 2) (fldB 16 p 2 2))
  | 0x0702 => laid p 0 true .manifestStats
  | 0x0801 => laid p 516 (zeros p 0x201 3) (.setRoutes (fldWords p 0 128) (fldB 8 p 0x200 1))
  | 0x0802 => laid p 4 (zeros p 2 2) (.linkState (fldB 8 p 0 1) (fldB 8 p 1 1))
  | 0x0803 => laid p (4 + 2 * fld p 2 2) true (.setSlice (fldB 16 p 0 2) ((List.range (fld p 2 2)).map fun i => fldB 16 p (4 + 2 * i) 2))
  | 0x0804 => laid p 16 true (.setChain model edition (fldB 8 p 6 1) (fldB 8 p 7 1) (fldB 64 p 8 8))
  | 0x0901 => laid p (8 + 16 * fld p 0 2) (zeros p 4 4 && (List.range (fld p 0 2)).all fun i => zeros p (8 + 16 * i + 12) 4)
      (.setRampPlan (fldB 16 p 2 2) ((List.range (fld p 0 2)).map fun i =>
        { start := fldB 64 p (8 + 16 * i) 8, cap := fldB 16 p (16 + 16 * i) 2, slew := fldB 16 p (18 + 16 * i) 2 }))
  | 0x0902 => laid p 4 true (.setCap (fldB 16 p 0 2) (fldB 16 p 2 2))
  | 0x0903 => laid p 0 true .powerReport
  | 0x0904 => laid p 0 true .timeStatus
  | 0x0A01 => laid p 4 true (.bistPolicy (fldB 8 p 0 1) (fldB 8 p 1 1) (fldB 16 p 2 2))
  | 0x0A02 => laid p 0 true .bistReport
  | 0x0A03 => laid p 0 true .spareReport
  | 0x0B01 => laid p 0 true .fence
  | 0x0B02 => laid p 0 true .resetBasin
  | 0x0B03 => laid p 0 true .warmReset
  | 0x0B04 => laid p 4 (zeros p 1 3) (.readmit (fldB 8 p 0 1))
  | 0x0B05 => laid p 8 (zeros p 2 2) (.completionQuery (fldB 16 p 0 2) (fldB 32 p 4 4))
  | 0x0C01 => laid p (max 13 p.length) (zeros p 1 3) (.fwStage (fldB 8 p 0 1) (fldB 32 p 4 4) (fldB 32 p 8 4) (p.drop 12))
  | 0x0C02 => laid p 4 (zeros p 1 3) (.fwActivate (fldB 8 p 0 1))
  | 0x0C03 => laid p 0 true .fwStatus
  | 0x0D01 => laid p 32 true (.attest p)
  | 0x0D02 => laid p 4 (zeros p 2 2) (.identity (fldB 16 p 0 2))
  | 0x0E01 => laid p 12 true (.traceConfig (fldB 32 p 0 4) (fldB 32 p 4 4) (fldB 32 p 8 4))
  | 0x0E02 => laid p 8 true (.traceRead (fldB 32 p 0 4) (fldB 32 p 4 4))
  | 0x0E03 => laid p 12 true (.dumpRead (fldB 32 p 0 4) (fldB 32 p 4 4) (fldB 32 p 8 4))
  | 0x0E04 => laid p 8 (zeros p 1 1 && zeros p 6 2) (.countersRead (fldB 8 p 0 1) (fldB 16 p 2 2) (fldB 16 p 4 2))
  | 0x0F01 => laid p 16 (zeros p 2 2) (.perturbSet (fldB 8 p 0 1) (fldB 8 p 1 1) (fldB 32 p 4 4) (fldB 32 p 8 4) (fldB 32 p 12 4))
  | 0x0F02 => laid p 4 (zeros p 1 3) (.perturbClear (fldB 8 p 0 1))
  | _ => none

/-! ### A packet (R400-R406) -/

/-- The header of a packet (Table 11.6) on a carriage, from `peer`. -/
def parseHdr (l : List Byte) (carriage : Carriage) (priority : BitVec 3) (peer : Peer) : Hdr :=
  { session := fldB 16 l 4 2, context := fldB 8 l 6 1, mask := fldB 8 l 7 1, seq := fldB 32 l 8 4, counter := fldB 64 l 12 8, timeout := fldB 16 l 22 2,
    notBefore := fldB 64 l 24 8, carriage := carriage, priority := priority, peer := peer }

/-- Step 2: version 1, byte 1 zero, the lengths of R402, flags [2:0] zero; IDENTITY and ATTEST have no trailer (R405). -/
def formatOk (l : List Byte) (carriage : Carriage) : Bool :=
  let n := fld l 20 2
  let trailer := if classOf (fld l 2 2) = 13 ∧ opcodeKnown (fld l 2 2) then 0 else 16
  decide (32 ≤ l.length) && decide (fld l 0 1 / 16 = 1) && decide (fld l 0 1 % 8 = 0) && decide (fld l 1 1 = 0) && decide (l.length = 32 + n + trailer) &&
    (match carriage with | .ethernet => decide (n ≤ 9098) | .i3c => decide (l.length ≤ 2048))

/-- The MAC of a packet under a key (R401): the leftmost 128 bits of HMAC-SHA-256 over header and parameters. -/
def macOk (key l : List Byte) : Bool := (hmac key (l.take (l.length - 16))).take 16 == l.drop (l.length - 16)

namespace State

/-- The retry of a rotation under the old key, within 1 s: the cached reply goes out under it, and nothing else is accepted (R413). -/
def oldKeyRetry (s : State) (x : Session) (h : Hdr) (cmd : HostCmd) (l : List Byte) : Option State :=
  match x.oldKey with
  | some o =>
    if s.now ≤ o.until_ ∧ o.seq = h.seq.toNat ∧ o.cmd = cmd ∧ macOk o.key l then
      if h.counter.toNat ≤ x.rx then
        some (s.countAuth.emitReply h.session.toNat (some o.key) (replyPkt s h (opcodeOf cmd) .counterReplay 0 0 []))
      else match s.cached x o.seq with
        | some e =>
          let y := { x with rx := h.counter.toNat, rxCount := x.rxCount + 1, lastTick := s.now, carriage := h.carriage, peer := h.peer }
          some ((s.setSession h.session.toNat (some y)).replay h.session.toNat (some o.key) h e)
        | none => none
    else none
  | none => none

/-- A datagram that passed step 1. -/
def packet (s : State) (carriage : Carriage) (priority : BitVec 3) (peer : Peer) (l : List Byte) : State :=
  let h := parseHdr l carriage priority peer
  let op := fld l 2 2
  let n := h.session.toNat
  let p := (l.drop 32).take (fld l 20 2)
  let cmd := if opcodeKnown op then (parseCmd op p).getD (.malformed (BitVec.ofNat 16 op) p) else .malformed (BitVec.ofNat 16 op) p
  let unauth := fun (t : State) (st : Status) => t.unauthReply carriage priority.toNat peer op n h.seq.toNat st
  if !s.reaches carriage op ∨ s.unclaimedDrops cmd then s
  else if !formatOk l carriage then unauth s .badFormat
  else if classOf op = 13 ∧ opcodeKnown op then s.anySession h cmd
  else if op = 0x0101 ∧ n = 0 then
    match s.unwrap (p.take 384) with
    | some k => if macOk k.key l then s.receive h cmd else unauth s.countAuth .badMac
    | none => unauth s.countAuth .badMac
  else match s.session n with
    | none => s.inSession h cmd
    | some x =>
      if keySpent x op ∨ macOk x.key l then s.inSession h cmd
      else (s.oldKeyRetry x h cmd l).getD (unauth s.countAuth .badMac)

end State

/-- RINZAN_PACKET. -/
def execRinzanPacket (carriage : Carriage) (priority : BitVec 3) (peer : Peer) (bytes : List Byte) (s : State) :
    Host.Outcome State Fault Refusal := .next (s.packet carriage priority peer bytes)

/-! ### The Ethernet port (R395-R398) -/

namespace State

/-- A frame or datagram that the port drops under R396, R397 or R398 (Table 11.5). -/
def dropFrame (s : State) : State := { s with eth := { s.eth with format := satAdd s.eth.format 1 } }

/-- The link-local IPv6 address, from the MAC address as a modified EUI-64 (R396). -/
def linkLocal : BitVec 128 :=
  let m := Config.macAddress % 2 ^ 48
  BitVec.ofNat 128 (0xFE80 * 2 ^ 112 + (((m / 2 ^ 24) ^^^ 0x020000) * 2 ^ 40 + 0xFFFE * 2 ^ 24 + m % 2 ^ 24))

/-- The global IPv6 address that the ETH_IP6 words hold. -/
def globalIp (s : State) : BitVec 128 :=
  let w := fun (j : Nat) => (Tbl.get 0#32 j s.eth.ip6).toNat
  BitVec.ofNat 128 (w 0 * 2 ^ 96 + w 1 * 2 ^ 64 + w 2 * 2 ^ 32 + w 3)

/-- An IPv6 address of the device: link-local, or the global one where it is not 0. -/
def ours6 (s : State) (a : BitVec 128) : Bool := a == linkLocal || (a == s.globalIp && a != 0#128)

/-- The IPv4 address of the device, where it is not 0. -/
def ours4 (s : State) (a : BitVec 32) : Bool := a == s.eth.ip4 && a != 0#32

/-- An address of the device as a datagram names it: an IPv4 address stands mapped, ::ffff:a.b.c.d (R423). -/
def oursAny (s : State) (a : BitVec 128) : Bool :=
  s.ours6 a || (a.toNat / 2 ^ 32 == 0xFFFF && s.ours4 (BitVec.ofNat 32 a.toNat))

/-- The neighbour cache of 1,024 entries takes an address; the oldest makes room. -/
def learn (s : State) (address mac : Nat) : State :=
  let l := (s.eth.neighbours.filter fun e => e.1 != address) ++ [(address, mac)]
  { s with eth := { s.eth with neighbours := l.drop (l.length - 1024) } }

/-- The port answers. -/
def portAnswer (s : State) (a : EthAnswer) : State := { s with eth := { s.eth with answers := s.eth.answers ++ [a] } }

/-- An echo request for the device: at most 100 answers a second. -/
def echo (s : State) (mine : Bool) (a : EthAnswer) : State :=
  let fresh := decide (s.eth.echoTick + 100000000 ≤ s.now)
  let k := if fresh then 0 else s.eth.echoes
  if !mine ∨ 100 ≤ k then s.dropFrame
  else ({ s with eth := { s.eth with echoes := k + 1, echoTick := if fresh then s.now else s.eth.echoTick } }).portAnswer a

/-- The receive buffer of a priority, and its size (R398): 4 MiB for each of pfc_a and pfc_b, 512 KiB that the others share. -/
def bufferOf (s : State) (priority : BitVec 3) : Nat × Nat :=
  if priority = s.eth.pfcA ∨ priority = s.eth.pfcB then (priority.toNat, 0x400000) else (8, 0x80000)

end State

/-- ETH_FRAME: a frame for the device is answered or passed on, any other dropped (R395-R397). -/
def ethFrame (length : Nat) (vlan : Option (BitVec 12)) (priority : BitVec 3) (kind : FrameKind) (s : State) : State :=
  let buf := s.bufferOf priority
  let foreign := s.eth.vlanEn && (vlan.any fun id => id != s.eth.vlanId)
  if s.eth.st ≠ 2 ∨ s.eth.portReset ∨ 9216 < length ∨ foreign then s
  else if buf.2 < Tbl.get 0 buf.1 s.eth.levels + length then s.dropFrame
  else match kind with
    | .neighbourSolicitation t a m =>
      if s.ours6 t then (s.learn a.toNat m.toNat).portAnswer (.advertisement t a m) else s.dropFrame
    | .arpRequest t a m => if s.ours4 t then (s.learn a.toNat m.toNat).portAnswer (.arpReply t a m) else s.dropFrame
    | .echo6 t => s.echo (s.ours6 t) (.echo6 t)
    | .echo4 t => s.echo (s.ours4 t) (.echo4 t)
    | .rinzan l fragment port target peer =>
      if fragment ∨ port ≠ 47104 ∨ !s.oursAny target then s.dropFrame else s.packet .ethernet priority peer l
    | .other => s.dropFrame

/-- ETH_FRAME. -/
def execEthFrame (length : Nat) (vlan : Option (BitVec 12)) (priority : BitVec 3) (kind : FrameKind) (s : State) :
    Host.Outcome State Fault Refusal := .next (ethFrame length vlan priority kind s)

/-- PFC_THRESHOLD: the receive buffer of a priority holds `level` bytes; XOFF goes out at 2 MiB and XON below 1 MiB (R398). -/
def pfcThreshold (priority : BitVec 3) (level : Nat) (s : State) : State :=
  let buf := s.bufferOf priority
  let off := s.eth.xoff.filter (· != priority.toNat)
  let x :=
    if buf.1 = 8 ∨ !s.eth.pfcEn then s.eth.xoff
    else if 0x200000 ≤ level then off ++ [priority.toNat]
    else if level < 0x100000 then off
    else s.eth.xoff
  { s with eth := { s.eth with levels := Tbl.set 0 buf.1 level s.eth.levels, xoff := x } }

/-- PFC_THRESHOLD. -/
def execPfcThreshold (priority : BitVec 3) (level : Nat) (s : State) : Host.Outcome State Fault Refusal :=
  .next (pfcThreshold priority level s)

/-- PFC_PAUSE: the partner stops or restarts a priority; what waited for it goes out (R398, Table 11.12). -/
def pfcPause (priority : BitVec 3) (paused : Bool) (s : State) : State :=
  let p := priority.toNat
  let off := s.eth.paused.filter (· != p)
  if !s.eth.pfcEn ∨ (s.bufferOf priority).1 = 8 then s
  else if paused then { s with eth := { s.eth with paused := off ++ [p] } }
  else
    let mine := fun (x : Pkt) => x.carriage == .ethernet && x.priority == p
    let w := s.ep.waiting.filter mine
    w.foldl State.emit { s with
      eth := { s.eth with paused := off }
      ep := { s.ep with waiting := s.ep.waiting.filter fun x => !mine x } }

/-- PFC_PAUSE. -/
def execPfcPause (priority : BitVec 3) (paused : Bool) (s : State) : Host.Outcome State Fault Refusal := .next (pfcPause priority paused s)

/-! ### The management port (R425, R426) -/

/-- I3C_PRIVATE_WRITE: one packet. -/
def execI3cPrivateWrite (bytes : List Byte) (s : State) : Host.Outcome State Fault Refusal :=
  .next (s.packet .i3c 0 ⟨0, 0⟩ bytes)

/-- I3C_PRIVATE_READ: the oldest packet of the queue leaves; an empty queue leaves ALERT_N high. -/
def i3cPrivateRead (s : State) : State :=
  match s.ep.i3c with
  | [] => s
  | p :: q => { s with ep := { s.ep with i3c := q, sent := s.ep.sent ++ [p] }, pins := { s.pins with alertN := q.isEmpty } }

/-- I3C_PRIVATE_READ. -/
def execI3cPrivateRead (s : State) : Host.Outcome State Fault Refusal := .next (i3cPrivateRead s)

end Sys2Proof.Machine
end

