-- ==== Sys2Proof/Machine/Commands.lean ====
section
/-! DEFINITION. The rows of the 55 Rinzan commands, of the state words that have a row of their own, and of the endpoint's timers. A
command row is a well-formed packet of its session with its MAC correct (R406 steps 1, 2 and 5); what the endpoint does with it is
`State.receive`. -/

namespace Sys2Proof.Machine

/-! ### Rinzan commands (chapter 12) -/

/-- OPEN_SESSION (R409). -/
def execOpenSession (h : Hdr) (cipher sig : List Byte) (s : State) : Host.Outcome State Fault Refusal := hostCmd h (.openSession cipher sig) s

/-- CLOSE_SESSION (R415). -/
def execCloseSession (h : Hdr) (flags : Byte) (s : State) : Host.Outcome State Fault Refusal := hostCmd h (.closeSession flags) s

/-- ROTATE_KEY (R413). -/
def execRotateKey (h : Hdr) (cipher : List Byte) (s : State) : Host.Outcome State Fault Refusal := hostCmd h (.rotateKey cipher) s

/-- SET_NOTICE_TARGET (R423). -/
def execSetNoticeTarget (h : Hdr) (carriage mask : Byte) (port : BitVec 16) (address : BitVec 128) (s : State) : Host.Outcome State Fault Refusal :=
  hostCmd h (.setNoticeTarget carriage mask port address) s

/-- READ_STATE (R437). -/
def execReadState (h : Hdr) (address : BitVec 32) (words : BitVec 16) (s : State) : Host.Outcome State Fault Refusal :=
  hostCmd h (.readState address words) s

/-- WRITE_STATE (R12). -/
def execWriteState (h : Hdr) (address : BitVec 32) (values : List (BitVec 32)) (s : State) : Host.Outcome State Fault Refusal :=
  hostCmd h (.writeState address values) s

/-- STORE_BEGIN (R289). -/
def execStoreBegin (h : Hdr) (p : StoreBeginP) (s : State) : Host.Outcome State Fault Refusal := hostCmd h (.storeBegin p) s

/-- STORE_SHARD (R439). -/
def execStoreShard (h : Hdr) (model : BitVec 32) (edition : BitVec 16) (shard piece : BitVec 32) (data : List Byte) (s : State) :
    Host.Outcome State Fault Refusal := hostCmd h (.storeShard model edition shard piece data) s

/-- STORE_COMMIT (R295). -/
def execStoreCommit (h : Hdr) (model : BitVec 32) (edition : BitVec 16) (s : State) : Host.Outcome State Fault Refusal :=
  hostCmd h (.storeCommit model edition) s

/-- STORE_DELETE (R302). -/
def execStoreDelete (h : Hdr) (model : BitVec 32) (edition : BitVec 16) (s : State) : Host.Outcome State Fault Refusal :=
  hostCmd h (.storeDelete model edition) s

/-- STORE_LIST (R440). -/
def execStoreList (h : Hdr) (first : BitVec 32) (count : BitVec 16) (s : State) : Host.Outcome State Fault Refusal :=
  hostCmd h (.storeList first count) s

/-- STORE_VERIFY (R300). -/
def execStoreVerify (h : Hdr) (model : BitVec 32) (edition : BitVec 16) (s : State) : Host.Outcome State Fault Refusal :=
  hostCmd h (.storeVerify model edition) s

/-- MAKE_WARM (R285). -/
def execMakeWarm (h : Hdr) (model : BitVec 32) (edition : BitVec 16) (s : State) : Host.Outcome State Fault Refusal :=
  hostCmd h (.makeWarm model edition) s

/-- MAKE_HOT (R287). -/
def execMakeHot (h : Hdr) (model : BitVec 32) (edition : BitVec 16) (flags : BitVec 16) (s : State) : Host.Outcome State Fault Refusal :=
  hostCmd h (.makeHot model edition flags) s

/-- EVICT (R286). -/
def execEvict (h : Hdr) (model : BitVec 32) (edition : BitVec 16) (s : State) : Host.Outcome State Fault Refusal := hostCmd h (.evict model edition) s

/-- RESIDENCY_QUERY (R283). -/
def execResidencyQuery (h : Hdr) (model : BitVec 32) (edition : BitVec 16) (s : State) : Host.Outcome State Fault Refusal :=
  hostCmd h (.residencyQuery model edition) s

/-- CREATE_CONTEXT (R442). -/
def execCreateContext (h : Hdr) (p : CreateCtxP) (s : State) : Host.Outcome State Fault Refusal := hostCmd h (.createContext p) s

/-- DESTROY_CONTEXT (R443). -/
def execDestroyContext (h : Hdr) (s : State) : Host.Outcome State Fault Refusal := hostCmd h .destroyContext s

/-- LOAD_CUT (R130). -/
def execLoadCut (h : Hdr) (model : BitVec 32) (edition : BitVec 16) (slot : Byte) (cutId : BitVec 32) (s : State) :
    Host.Outcome State Fault Refusal := hostCmd h (.loadCut model edition slot cutId) s

/-- SELECT_CUT (R445). -/
def execSelectCut (h : Hdr) (slots : List Byte) (s : State) : Host.Outcome State Fault Refusal := hostCmd h (.selectCut slots) s

/-- SET_BALANCE (R355). -/
def execSetBalance (h : Hdr) (p : BalanceP) (s : State) : Host.Outcome State Fault Refusal := hostCmd h (.setBalance p) s

/-- SUBMIT (R446). -/
def execSubmit (h : Hdr) (p : SubmitP) (s : State) : Host.Outcome State Fault Refusal := hostCmd h (.submit p) s

/-- APPEND (R448). -/
def execAppend (h : Hdr) (p : AppendP) (s : State) : Host.Outcome State Fault Refusal := hostCmd h (.append p) s

/-- CANCEL (R340). -/
def execCancel (h : Hdr) (entry : BitVec 16) (requestId : BitVec 64) (s : State) : Host.Outcome State Fault Refusal :=
  hostCmd h (.cancel entry requestId) s

/-- TOKENS (R421). -/
def execTokens (h : Hdr) (entry : BitVec 16) (requestId : BitVec 64) (position : BitVec 32) (s : State) : Host.Outcome State Fault Refusal :=
  hostCmd h (.tokens entry requestId position) s

/-- SET_DRAFT (R357). -/
def execSetDraft (h : Hdr) (entry : BitVec 16) (draftReq : Byte) (requestId : BitVec 64) (s : State) : Host.Outcome State Fault Refusal :=
  hostCmd h (.setDraft entry draftReq requestId) s

/-- MANIFEST_READ (R331). -/
def execManifestRead (h : Hdr) (first count : BitVec 16) (s : State) : Host.Outcome State Fault Refusal := hostCmd h (.manifestRead first count) s

/-- MANIFEST_STATS (R450). -/
def execManifestStats (h : Hdr) (s : State) : Host.Outcome State Fault Refusal := hostCmd h .manifestStats s

/-- SET_ROUTES (R381). -/
def execSetRoutes (h : Hdr) (table : List (BitVec 32)) (position : Byte) (s : State) : Host.Outcome State Fault Refusal :=
  hostCmd h (.setRoutes table position) s

/-- LINK_STATE (R392). -/
def execLinkState (h : Hdr) (link admin : Byte) (s : State) : Host.Outcome State Fault Refusal := hostCmd h (.linkState link admin) s

/-- SET_SLICE (R383). -/
def execSetSlice (h : Hdr) (sliceId : BitVec 16) (entries : List (BitVec 16)) (s : State) : Host.Outcome State Fault Refusal :=
  hostCmd h (.setSlice sliceId entries) s

/-- SET_CHAIN (R291). -/
def execSetChain (h : Hdr) (model : BitVec 32) (edition : BitVec 16) (upstream downstream : Byte) (source : BitVec 64) (s : State) :
    Host.Outcome State Fault Refusal := hostCmd h (.setChain model edition upstream downstream source) s

/-- SET_RAMP_PLAN (R453). -/
def execSetRampPlan (h : Hdr) (safeCap : BitVec 16) (steps : List PlanStepP) (s : State) : Host.Outcome State Fault Refusal :=
  hostCmd h (.setRampPlan safeCap steps) s

/-- SET_CAP (R585). -/
def execSetCap (h : Hdr) (cap slew : BitVec 16) (s : State) : Host.Outcome State Fault Refusal := hostCmd h (.setCap cap slew) s

/-- POWER_REPORT (R454). -/
def execPowerReport (h : Hdr) (s : State) : Host.Outcome State Fault Refusal := hostCmd h .powerReport s

/-- TIME_STATUS (R575). -/
def execTimeStatus (h : Hdr) (s : State) : Host.Outcome State Fault Refusal := hostCmd h .timeStatus s

/-- BIST_POLICY (R497). -/
def execBistPolicy (h : Hdr) (enable flags : Byte) (period : BitVec 16) (s : State) : Host.Outcome State Fault Refusal :=
  hostCmd h (.bistPolicy enable flags period) s

/-- BIST_REPORT (R495). -/
def execBistReport (h : Hdr) (s : State) : Host.Outcome State Fault Refusal := hostCmd h .bistReport s

/-- SPARE_REPORT (R500). -/
def execSpareReport (h : Hdr) (s : State) : Host.Outcome State Fault Refusal := hostCmd h .spareReport s

/-- FENCE (R520). -/
def execFence (h : Hdr) (s : State) : Host.Outcome State Fault Refusal := hostCmd h .fence s

/-- RESET_BASIN (R537). -/
def execResetBasin (h : Hdr) (s : State) : Host.Outcome State Fault Refusal := hostCmd h .resetBasin s

/-- WARM_RESET (R455). -/
def execWarmReset (h : Hdr) (s : State) : Host.Outcome State Fault Refusal := hostCmd h .warmReset s

/-- READMIT (R537). -/
def execReadmit (h : Hdr) (flags : Byte) (s : State) : Host.Outcome State Fault Refusal := hostCmd h (.readmit flags) s

/-- COMPLETION_QUERY (R528). -/
def execCompletionQuery (h : Hdr) (session : BitVec 16) (seq : BitVec 32) (s : State) : Host.Outcome State Fault Refusal :=
  hostCmd h (.completionQuery session seq) s

/-- FW_STAGE (R458). -/
def execFwStage (h : Hdr) (image : Byte) (imageBytes offset : BitVec 32) (data : List Byte) (s : State) :
    Host.Outcome State Fault Refusal := hostCmd h (.fwStage image imageBytes offset data) s

/-- FW_ACTIVATE (R509). -/
def execFwActivate (h : Hdr) (image : Byte) (s : State) : Host.Outcome State Fault Refusal := hostCmd h (.fwActivate image) s

/-- FW_STATUS (R508). -/
def execFwStatus (h : Hdr) (s : State) : Host.Outcome State Fault Refusal := hostCmd h .fwStatus s

/-- ATTEST (R555). -/
def execAttest (h : Hdr) (nonce : List Byte) (s : State) : Host.Outcome State Fault Refusal := hostCmd h (.attest nonce) s

/-- IDENTITY (R554). -/
def execIdentity (h : Hdr) (piece : BitVec 16) (s : State) : Host.Outcome State Fault Refusal := hostCmd h (.identity piece) s

/-- TRACE_CONFIG (R612). -/
def execTraceConfig (h : Hdr) (sources trigger flags : BitVec 32) (s : State) : Host.Outcome State Fault Refusal :=
  hostCmd h (.traceConfig sources trigger flags) s

/-- TRACE_READ (R611). -/
def execTraceRead (h : Hdr) (offset bytes : BitVec 32) (s : State) : Host.Outcome State Fault Refusal := hostCmd h (.traceRead offset bytes) s

/-- DUMP_READ (R531). -/
def execDumpRead (h : Hdr) (dump offset bytes : BitVec 32) (s : State) : Host.Outcome State Fault Refusal := hostCmd h (.dumpRead dump offset bytes) s

/-- COUNTERS_READ (R87). -/
def execCountersRead (h : Hdr) (kind : Byte) (first count : BitVec 16) (s : State) : Host.Outcome State Fault Refusal :=
  hostCmd h (.countersRead kind first count) s

/-- PERTURB_SET (R616). -/
def execPerturbSet (h : Hdr) (kind slot : Byte) (target amount durationMs : BitVec 32) (s : State) : Host.Outcome State Fault Refusal :=
  hostCmd h (.perturbSet kind slot target amount durationMs) s

/-- PERTURB_CLEAR (R616). -/
def execPerturbClear (h : Hdr) (slot : Byte) (s : State) : Host.Outcome State Fault Refusal := hostCmd h (.perturbClear slot) s

/-! ### State words with a row of their own: one WRITE_STATE of the word, or one READ_STATE -/

/-- Base of basin `b` (R13). -/
def basinBase (b : BasinId) : Nat := 0x01000000 + b.val * 0x100000

/-- A WRITE_STATE of one word. -/
def writeOne (h : Hdr) (a : Nat) (value : BitVec 32) (s : State) : Host.Outcome State Fault Refusal :=
  hostCmd h (.writeState (BitVec.ofNat 32 a) [value]) s

/-- ARITH_CLEAR: TIL_ARITH_CLEAR of a tile (R87). -/
def execArithClear (h : Hdr) (tile : TileId) (value : BitVec 32) (s : State) : Host.Outcome State Fault Refusal :=
  writeOne h (0x06000000 + tile.val * 0x1000 + 0x11C) value s

/-- SLICE_ID_WRITE: BSN_SLICE (R34, R622). -/
def execSliceIdWrite (h : Hdr) (b : BasinId) (value : BitVec 32) (s : State) : Host.Outcome State Fault Refusal :=
  writeOne h (basinBase b + 0x40) value s

/-- SLC_CAP_WRITE: BSN_SLC_CAP_c (R196). -/
def execSlcCapWrite (h : Hdr) (b : BasinId) (c : CtxId) (value : BitVec 32) (s : State) : Host.Outcome State Fault Refusal :=
  writeOne h (basinBase b + 0x100 + 4 * c.val) value s

/-- LC_WAYS_WRITE: BSN_LC_WAYS_c (R233). -/
def execLcWaysWrite (h : Hdr) (b : BasinId) (c : CtxId) (value : BitVec 32) (s : State) : Host.Outcome State Fault Refusal :=
  writeOne h (basinBase b + 0x210 + 4 * c.val) value s

/-- MAN_CTX_WRITE: BSN_MAN_CTX_c (R468). -/
def execManCtxWrite (h : Hdr) (b : BasinId) (c : CtxId) (value : BitVec 32) (s : State) : Host.Outcome State Fault Refusal :=
  writeOne h (basinBase b + 0x400 + 4 * c.val) value s

/-- DREDGE_PHASE_WRITE: BSN_DREDGE (R487). -/
def execDredgePhaseWrite (h : Hdr) (b : BasinId) (value : BitVec 32) (s : State) : Host.Outcome State Fault Refusal :=
  writeOne h (basinBase b + 0x80) value s

/-- PORT_RESET_WRITE: ETH_CTL (R399). -/
def execPortResetWrite (h : Hdr) (value : BitVec 32) (s : State) : Host.Outcome State Fault Refusal := writeOne h 0x03000004 value s

/-- TIM_NOW_LATCH: a read of TIM_NOW_LO (R575). -/
def execTimNowLatch (h : Hdr) (s : State) : Host.Outcome State Fault Refusal := hostCmd h (.readState 0x00100008 1) s

/-- AUTH_CHALLENGE: PTB_AUTH_CTL with the challenge bit (R561). -/
def execAuthChallenge (h : Hdr) (s : State) : Host.Outcome State Fault Refusal := writeOne h 0x0F00F000 1 s

/-- AUTH_REVOKE: PTB_AUTH_CTL with the revoke bit (R563). -/
def execAuthRevoke (h : Hdr) (s : State) : Host.Outcome State Fault Refusal := writeOne h 0x0F00F000 2 s

/-- AUTH_RESPONSE: PTB_AUTH_RESP_95, whose write verifies the response (R562). -/
def execAuthResponse (h : Hdr) (value : BitVec 32) (s : State) : Host.Outcome State Fault Refusal := writeOne h 0x0F00F27C value s

/-! ### Timers of the endpoint -/

namespace State

/-- A held command starts, whether its session is still open or not; an OPEN_SESSION opens its own (R404, R427). -/
def startHeld (s : State) (e : Held) : State :=
  match e.cmd, e.owner with
  | .openSession cipher sig, none => match s.unwrap cipher with
    | some p => s.openSession e.hdr e.cmd cipher sig p
    | none => s
  | _, some x => s.start x e.hdr e.cmd true
  | _, none => s

end State

/-- NOT_BEFORE_REACHED: the held commands whose tick has come start in the order of their arrival (R404). -/
def notBefore (s : State) : State :=
  let due := fun (e : Held) => decide (e.hdr.notBefore.toNat ≤ s.now)
  (s.ep.held.filter due).foldl State.startHeld { s with ep := { s.ep with held := s.ep.held.filter fun e => !due e } }

/-- NOT_BEFORE_REACHED. -/
def execNotBeforeReached (s : State) : Host.Outcome State Fault Refusal := .next (notBefore s)

/-- COMMAND_TIMEOUT: every named basin in which the work is not complete is fenced, and the command answered at the end of its drain; a
command that names no basin ends with TIMED_OUT (R516, Table 15.9). The timeout of a request command covers its acceptance only (R429). -/
def commandTimeout (n seq : Nat) (s : State) : State :=
  match s.runCmd n seq with
  | none => s
  | some r =>
    if s.now < r.deadline ∨ classOf (opcodeOf r.cmd) = 6 then s
    else if r.mask = 0 then s.finishCmd n seq .timedOut (basinsOk r) r.begun (finalBody s r)
    else (maskBasins (r.mask &&& ~~~r.doneMask)).foldl (fun (t : State) (b : Nat) =>
      let st := (t.basin b).st
      if t.fenceable b ∧ st.state ≠ .offline then t.fence b .commandTimeout false
      else if st.state = .fenced ∧ st.draining then t
      else t.cutOff r b .timedOut false) s

/-- COMMAND_TIMEOUT. -/
def execCommandTimeout (session : BitVec 16) (seq : BitVec 32) (s : State) : Host.Outcome State Fault Refusal :=
  .next (commandTimeout session.toNat seq.toNat s)

/-- SHORT_TIMEOUT: a tenant's own timeout ends its host's wait with TIMED_OUT and the extents so far; the command runs on (R517). -/
def shortTimeout (n seq : Nat) (s : State) : State :=
  match s.runCmd n seq with
  | none => s
  | some r =>
    match r.shortDeadline with
    | some t =>
      if s.now < t ∨ r.waitOver then s
      else
        let p := replyPkt s r.hdr (opcodeOf r.cmd) .timedOut (basinsOk r) (max (basinsOk r) r.begun) (finalBody s r)
        ((s.modRun n seq fun q => { q with waitOver := true }).cacheClose n seq r.cmd p).emitReply n none p
    | none => s

/-- SHORT_TIMEOUT. -/
def execShortTimeout (session : BitVec 16) (seq : BitVec 32) (s : State) : Host.Outcome State Fault Refusal :=
  .next (shortTimeout session.toNat seq.toNat s)

/-- SESSION_IDLE: 3,600 s without an accepted command close a session that has no request in work (R415). -/
def sessionIdle (n : Nat) (s : State) : State :=
  match s.session n with
  | some x =>
    if x.lastTick + 360000000000 ≤ s.now ∧ !(s.man.entries.any fun e => decide (e.2.session = n) && e.2.active) then s.closeSession n else s
  | none => s

/-- SESSION_IDLE. -/
def execSessionIdle (session : BitVec 16) (s : State) : Host.Outcome State Fault Refusal := .next (sessionIdle session.toNat s)

/-- OLD_KEY_EXPIRY: 1 s after a rotation (R413). -/
def oldKeyExpiry (n : Nat) (s : State) : State :=
  s.modSession n fun x => if x.oldKey.any fun o => decide (o.until_ ≤ s.now) then { x with oldKey := none } else x

/-- OLD_KEY_EXPIRY. -/
def execOldKeyExpiry (session : BitVec 16) (s : State) : Host.Outcome State Fault Refusal := .next (oldKeyExpiry session.toNat s)

/-- REPLY_CACHE_EXPIRY: 10 s after its command an entry leaves the cache (R420). -/
def replyCacheExpiry (n seq : Nat) (s : State) : State :=
  s.modSession n fun x => { x with cache := x.cache.filter fun e => !(e.seq == seq && decide (e.tick + 1000000000 ≤ s.now)) }

/-- REPLY_CACHE_EXPIRY. -/
def execReplyCacheExpiry (session : BitVec 16) (seq : BitVec 32) (s : State) : Host.Outcome State Fault Refusal :=
  .next (replyCacheExpiry session.toNat seq.toNat s)

/-- KEPT_REPLY_EXPIRY: 60 s after its end a final reply is forgotten (R457). -/
def keptReplyExpiry (n seq : Nat) (s : State) : State :=
  { s with ep := { s.ep with kept := s.ep.kept.filter fun k =>
    !(k.session == n && k.seq == seq && decide (k.tick + 6000000000 ≤ s.now)) } }

/-- KEPT_REPLY_EXPIRY. -/
def execKeptReplyExpiry (session : BitVec 16) (seq : BitVec 32) (s : State) : Host.Outcome State Fault Refusal :=
  .next (keptReplyExpiry session.toNat seq.toNat s)

end Sys2Proof.Machine
end

