-- ==== Sys2Proof/Machine/Clock.lean ====
section
/-! DEFINITION. A rack tick (log entry 3): what acts at every tick whatever is commanded, and what was held for the next tick. -/

namespace Sys2Proof.Machine

namespace State

/-- The counter advances while it has a source or holds over (R566, R572; log entry 42). -/
def countTick (s : State) : State :=
  if s.time.locked ∨ s.time.holdover then s.modTime fun t => { t with now := t.now + 1 } else s

/-- A device locked to a towpath link that is no longer ACTIVE takes another source, or goes into holdover (R571, R572). -/
def sourceTick (s : State) : State :=
  match s.time.lockedTo with
  | some n => if s.time.source = 2 ∧ (s.link n).st ≠ .active then s.leavePort else s
  | none => s

/-- At a marker the counter goes out over the towpath (R570). -/
def markerTick (s : State) (old : Nat) : State := if s.now ≠ old ∧ s.now % 2 ^ 20 = 0 then s.sendTime else s

/-- Class L writes that wait for the tick take effect in their order (Table 0.2). -/
def liveTick (s : State) : State := s.live.foldl applyLive { s with live := [] }

/-- A basin in no slice takes its staged words at the next tick (Table 0.2). -/
def stagedTick (s : State) (b : Nat) : State :=
  if (s.basin b).sliceId = 0 ∧ s.pendingIn b then (s.armBasin b s.now).applyArmed b else s

/-- The border filters of basin `b` follow the slice_ids of its neighbours in the tick after a change (R34). -/
def borderTick (s : State) (b : Nat) : State :=
  let x := s.basin b
  let same := fun (n : Nat) => decide (x.sliceId ≠ 0) && decide ((s.basin n).sliceId = x.sliceId)
  let up := decide (0 < b) && same (b - 1)
  let down := decide (b < 7) && same (b + 1)
  if x.openUp = up ∧ x.openDown = down then s else s.modBasin b fun y => { y with openUp := up, openDown := down }

/-- Flits that queues to other devices have in egress buffers leave in grants (R386). DESIGN CHOICE: at a tick, all that stand there (log entry
62). -/
def egressTick (s : State) : State :=
  ((s.tiles.filter fun x => !x.2.net.egress.isEmpty).map (·.1)).foldl sendEgress s

/-- A recalibration that admin asked for begins once R380 lets the link leave (Table 10.12). -/
def adminTick (s : State) (n : Nat) : State :=
  let l := s.link n
  if !l.adminDue then s
  else if l.st ≠ .active then s.modLink n fun k => { k with adminDue := false }
  else if s.removable n then (s.modLink n fun k => { k with adminDue := false }).removeLink n
  else s

/-- A pause of the endpoint ends at its tick (R511). -/
def pauseTick (s : State) : State := if s.ep.pause ∧ s.ep.pauseEnd ≤ s.now then s.endPause else s

end State

/-- One rack tick: the manifest's timers that waited for the commands of the tick (R334), the counter, duty, cap and overrun, TIME at a marker, class L writes,
evictions that waited for a reload, patrol reads that are due, re-initializations that are over, and what else waits for the tick. -/
def rackTick (s : State) : State :=
  let s1 := s.runTimers.sourceTick.countTick
  let s2 := (((s1.dutyTick s.now).capTick).overrunTick).markerTick s.now
  let s3 := perturbTick s2.liveTick.bistTick
  let s4 := ((List.range 8).foldl State.borderTick ((List.range 8).foldl State.stagedTick s3)).egressTick
  (List.range 8).foldl State.reinitTick (((List.range 96).foldl State.adminTick s4).pauseTick.evictTick.patrolTick)

/-- IDLE_TICK: a tick that is no issue tick passes, in which no pound issues a schedule word (R582). -/
def execIdleTick (s : State) : Host.Outcome State Fault Refusal := .next (if s.issueTick then s else rackTick s)

end Sys2Proof.Machine
end

