-- ==== Sys2Proof/Machine/Dispatch.lean ====
section
/-! DEFINITION. The meaning of every command and event: one arm for each row of spec/opcode_table.json. -/

namespace Sys2Proof.Machine

def exec (i : Instr) (s : State) : Host.Outcome State Fault Refusal :=
  match i with
  | .openSession h cipher sig => Sys2Proof.Machine.execOpenSession h cipher sig s
  | .closeSession h flags => Sys2Proof.Machine.execCloseSession h flags s
  | .rotateKey h cipher => Sys2Proof.Machine.execRotateKey h cipher s
  | .setNoticeTarget h carriage mask port address => Sys2Proof.Machine.execSetNoticeTarget h carriage mask port address s
  | .readState h address words => Sys2Proof.Machine.execReadState h address words s
  | .writeState h address values => Sys2Proof.Machine.execWriteState h address values s
  | .storeBegin h p => Sys2Proof.Machine.execStoreBegin h p s
  | .storeShard h model edition shard piece data => Sys2Proof.Machine.execStoreShard h model edition shard piece data s
  | .storeCommit h model edition => Sys2Proof.Machine.execStoreCommit h model edition s
  | .storeDelete h model edition => Sys2Proof.Machine.execStoreDelete h model edition s
  | .storeList h first count => Sys2Proof.Machine.execStoreList h first count s
  | .storeVerify h model edition => Sys2Proof.Machine.execStoreVerify h model edition s
  | .makeWarm h model edition => Sys2Proof.Machine.execMakeWarm h model edition s
  | .makeHot h model edition flags => Sys2Proof.Machine.execMakeHot h model edition flags s
  | .evict h model edition => Sys2Proof.Machine.execEvict h model edition s
  | .residencyQuery h model edition => Sys2Proof.Machine.execResidencyQuery h model edition s
  | .createContext h p => Sys2Proof.Machine.execCreateContext h p s
  | .destroyContext h => Sys2Proof.Machine.execDestroyContext h s
  | .loadCut h model edition slot cutId => Sys2Proof.Machine.execLoadCut h model edition slot cutId s
  | .selectCut h slots => Sys2Proof.Machine.execSelectCut h slots s
  | .setBalance h p => Sys2Proof.Machine.execSetBalance h p s
  | .submit h p => Sys2Proof.Machine.execSubmit h p s
  | .append h p => Sys2Proof.Machine.execAppend h p s
  | .cancel h entry requestId => Sys2Proof.Machine.execCancel h entry requestId s
  | .tokens h entry requestId position => Sys2Proof.Machine.execTokens h entry requestId position s
  | .setDraft h entry draftReq requestId => Sys2Proof.Machine.execSetDraft h entry draftReq requestId s
  | .manifestRead h first count => Sys2Proof.Machine.execManifestRead h first count s
  | .manifestStats h => Sys2Proof.Machine.execManifestStats h s
  | .setRoutes h table position => Sys2Proof.Machine.execSetRoutes h table position s
  | .linkState h link admin => Sys2Proof.Machine.execLinkState h link admin s
  | .setSlice h sliceId entries => Sys2Proof.Machine.execSetSlice h sliceId entries s
  | .setChain h model edition upstream downstream source => Sys2Proof.Machine.execSetChain h model edition upstream downstream source s
  | .setRampPlan h safeCap steps => Sys2Proof.Machine.execSetRampPlan h safeCap steps s
  | .setCap h cap slew => Sys2Proof.Machine.execSetCap h cap slew s
  | .powerReport h => Sys2Proof.Machine.execPowerReport h s
  | .timeStatus h => Sys2Proof.Machine.execTimeStatus h s
  | .bistPolicy h enable flags period => Sys2Proof.Machine.execBistPolicy h enable flags period s
  | .bistReport h => Sys2Proof.Machine.execBistReport h s
  | .spareReport h => Sys2Proof.Machine.execSpareReport h s
  | .fence h => Sys2Proof.Machine.execFence h s
  | .resetBasin h => Sys2Proof.Machine.execResetBasin h s
  | .warmReset h => Sys2Proof.Machine.execWarmReset h s
  | .readmit h flags => Sys2Proof.Machine.execReadmit h flags s
  | .completionQuery h session seq => Sys2Proof.Machine.execCompletionQuery h session seq s
  | .fwStage h image imageBytes offset data => Sys2Proof.Machine.execFwStage h image imageBytes offset data s
  | .fwActivate h image => Sys2Proof.Machine.execFwActivate h image s
  | .fwStatus h => Sys2Proof.Machine.execFwStatus h s
  | .attest h nonce => Sys2Proof.Machine.execAttest h nonce s
  | .identity h piece => Sys2Proof.Machine.execIdentity h piece s
  | .traceConfig h sources trigger flags => Sys2Proof.Machine.execTraceConfig h sources trigger flags s
  | .traceRead h offset bytes => Sys2Proof.Machine.execTraceRead h offset bytes s
  | .dumpRead h dump offset bytes => Sys2Proof.Machine.execDumpRead h dump offset bytes s
  | .countersRead h kind first count => Sys2Proof.Machine.execCountersRead h kind first count s
  | .perturbSet h kind slot target amount durationMs => Sys2Proof.Machine.execPerturbSet h kind slot target amount durationMs s
  | .perturbClear h slot => Sys2Proof.Machine.execPerturbClear h slot s
  | .arithClear h tile value => Sys2Proof.Machine.execArithClear h tile value s
  | .sliceIdWrite h b value => Sys2Proof.Machine.execSliceIdWrite h b value s
  | .slcCapWrite h b c value => Sys2Proof.Machine.execSlcCapWrite h b c value s
  | .lcWaysWrite h b c value => Sys2Proof.Machine.execLcWaysWrite h b c value s
  | .manCtxWrite h b c value => Sys2Proof.Machine.execManCtxWrite h b c value s
  | .dredgePhaseWrite h b value => Sys2Proof.Machine.execDredgePhaseWrite h b value s
  | .portResetWrite h value => Sys2Proof.Machine.execPortResetWrite h value s
  | .timNowLatch h => Sys2Proof.Machine.execTimNowLatch h s
  | .authChallenge h => Sys2Proof.Machine.execAuthChallenge h s
  | .authRevoke h => Sys2Proof.Machine.execAuthRevoke h s
  | .authResponse h value => Sys2Proof.Machine.execAuthResponse h value s
  | .operatorKey slot revoke modulus => Sys2Proof.Machine.execOperatorKey slot revoke modulus s
  | .auth step => Sys2Proof.Machine.execAuth step s
  | .extest => Sys2Proof.Machine.execExtest s
  | .rinzanPacket carriage priority peer bytes => Sys2Proof.Machine.execRinzanPacket carriage priority peer bytes s
  | .ethFrame length vlan priority kind => Sys2Proof.Machine.execEthFrame length vlan priority kind s
  | .pfcThreshold priority level => Sys2Proof.Machine.execPfcThreshold priority level s
  | .pfcPause priority paused => Sys2Proof.Machine.execPfcPause priority paused s
  | .i3cPrivateWrite bytes => Sys2Proof.Machine.execI3cPrivateWrite bytes s
  | .i3cPrivateRead => Sys2Proof.Machine.execI3cPrivateRead s
  | .notBeforeReached => Sys2Proof.Machine.execNotBeforeReached s
  | .commandTimeout session seq => Sys2Proof.Machine.execCommandTimeout session seq s
  | .shortTimeout session seq => Sys2Proof.Machine.execShortTimeout session seq s
  | .sessionIdle session => Sys2Proof.Machine.execSessionIdle session s
  | .oldKeyExpiry session => Sys2Proof.Machine.execOldKeyExpiry session s
  | .replyCacheExpiry session seq => Sys2Proof.Machine.execReplyCacheExpiry session seq s
  | .admission entry => Sys2Proof.Machine.execAdmission entry s
  | .stepFormation b p => Sys2Proof.Machine.execStepFormation b p s
  | .stepStart b p => Sys2Proof.Machine.execStepStart b p s
  | .shape b p qid step rows seqs seqTable mooring => Sys2Proof.Machine.execShape b p qid step rows seqs seqTable mooring s
  | .phraseStart b p ph => Sys2Proof.Machine.execPhraseStart b p ph s
  | .nop t => Sys2Proof.Machine.execNop t s
  | .muLoad t fmt maps => Sys2Proof.Machine.execMuLoad t fmt maps s
  | .muStream t fmt map => Sys2Proof.Machine.execMuStream t fmt map s
  | .drain t sup => Sys2Proof.Machine.execDrain t sup s
  | .fma32 t => Sys2Proof.Machine.execFma32 t s
  | .add32 t => Sys2Proof.Machine.execAdd32 t s
  | .mul32 t => Sys2Proof.Machine.execMul32 t s
  | .min32 t => Sys2Proof.Machine.execMin32 t s
  | .max32 t => Sys2Proof.Machine.execMax32 t s
  | .cmp32 t => Sys2Proof.Machine.execCmp32 t s
  | .sel t => Sys2Proof.Machine.execSel t s
  | .convert t => Sys2Proof.Machine.execConvert t s
  | .fma16 t => Sys2Proof.Machine.execFma16 t s
  | .add16 t => Sys2Proof.Machine.execAdd16 t s
  | .mul16 t => Sys2Proof.Machine.execMul16 t s
  | .min16 t => Sys2Proof.Machine.execMin16 t s
  | .max16 t => Sys2Proof.Machine.execMax16 t s
  | .exp t => Sys2Proof.Machine.execExp t s
  | .rcp t => Sys2Proof.Machine.execRcp t s
  | .rsqrt t => Sys2Proof.Machine.execRsqrt t s
  | .topk t => Sys2Proof.Machine.execTopk t s
  | .sramRead t => Sys2Proof.Machine.execSramRead t s
  | .sramWrite t => Sys2Proof.Machine.execSramWrite t s
  | .route t phase src dst acc => Sys2Proof.Machine.execRoute t phase src dst acc s
  | .queuePush t => Sys2Proof.Machine.execQueuePush t s
  | .queuePop t acc => Sys2Proof.Machine.execQueuePop t acc s
  | .counter t => Sys2Proof.Machine.execCounter t s
  | .loop t => Sys2Proof.Machine.execLoop t s
  | .endWord t => Sys2Proof.Machine.execEndWord t s
  | .queueFlitArrival t side phase flip => Sys2Proof.Machine.execQueueFlitArrival t side phase flip s
  | .meshLinkReplay t side phase flip => Sys2Proof.Machine.execMeshLinkReplay t side phase flip s
  | .creditReturn b p qid credits => Sys2Proof.Machine.execCreditReturn b p qid credits s
  | .gatherComplete t area column qid first flits => Sys2Proof.Machine.execGatherComplete t area column qid first flits s
  | .stepEnd b p => Sys2Proof.Machine.execStepEnd b p s
  | .seal b p qid step => Sys2Proof.Machine.execSeal b p qid step s
  | .void b p qid step => Sys2Proof.Machine.execVoid b p qid step s
  | .localReplay b p => Sys2Proof.Machine.execLocalReplay b p s
  | .readmission b p step => Sys2Proof.Machine.execReadmission b p step s
  | .tokenHandoff b p step toks => Sys2Proof.Machine.execTokenHandoff b p step toks s
  | .draftPass entry => Sys2Proof.Machine.execDraftPass entry s
  | .kvRebuildSeal entry => Sys2Proof.Machine.execKvRebuildSeal entry s
  | .deadlinePass entry => Sys2Proof.Machine.execDeadlinePass entry s
  | .holdExpiry entry => Sys2Proof.Machine.execHoldExpiry entry s
  | .entryRelease entry => Sys2Proof.Machine.execEntryRelease entry s
  | .balanceEvaluation b => Sys2Proof.Machine.execBalanceEvaluation b s
  | .routingPass b c route step toks => Sys2Proof.Machine.execRoutingPass b c route step toks s
  | .dispatch b c h epoch recs => Sys2Proof.Machine.execDispatch b c h epoch recs s
  | .mooringPass b c route step => Sys2Proof.Machine.execMooringPass b c route step s
  | .combine b c h epoch recs => Sys2Proof.Machine.execCombine b c h epoch recs s
  | .combineComplete b c route step => Sys2Proof.Machine.execCombineComplete b c route step s
  | .reduce b c h epoch participants values => Sys2Proof.Machine.execReduce b c h epoch participants values s
  | .gather b c h epoch participants values => Sys2Proof.Machine.execGather b c h epoch participants values s
  | .handoff b c h epoch participants values => Sys2Proof.Machine.execHandoff b c h epoch participants values s
  | .towPost b c h descs => Sys2Proof.Machine.execTowPost b c h descs s
  | .bargeArrival b h data => Sys2Proof.Machine.execBargeArrival b h data s
  | .bargeComplete b slot status => Sys2Proof.Machine.execBargeComplete b slot status s
  | .towComplete b c => Sys2Proof.Machine.execTowComplete b c s
  | .halfLanded t half => Sys2Proof.Machine.execHalfLanded t half s
  | .lpddrReread b c page line kind l => Sys2Proof.Machine.execLpddrReread b c page line kind l s
  | .chunkReload t c chunk data sourceOk readbackOk => Sys2Proof.Machine.execChunkReload t c chunk data sourceOk readbackOk s
  | .scrubPass t => Sys2Proof.Machine.execScrubPass t s
  | .scrubError t word rereadOk => Sys2Proof.Machine.execScrubError t word rereadOk s
  | .gapMove b row gapB west => Sys2Proof.Machine.execGapMove b row gapB west s
  | .gapMoveHoldReached b row => Sys2Proof.Machine.execGapMoveHoldReached b row s
  | .lockageStart b remote => Sys2Proof.Machine.execLockageStart b remote s
  | .lock b sent tLock slots keeper => Sys2Proof.Machine.execLock b sent tLock slots keeper s
  | .lockAck b ordinal unsynchronized => Sys2Proof.Machine.execLockAck b ordinal unsynchronized s
  | .lockTick b => Sys2Proof.Machine.execLockTick b s
  | .lockResend b ordinal => Sys2Proof.Machine.execLockResend b ordinal s
  | .basinDrained b => Sys2Proof.Machine.execBasinDrained b s
  | .drained b ordinal unsynchronized => Sys2Proof.Machine.execDrained b ordinal unsynchronized s
  | .resume b tResume => Sys2Proof.Machine.execResume b tResume s
  | .resumeAck b ordinal => Sys2Proof.Machine.execResumeAck b ordinal s
  | .resumeVoid b => Sys2Proof.Machine.execResumeVoid b s
  | .slotSwitch b => Sys2Proof.Machine.execSlotSwitch b s
  | .resumeTick b => Sys2Proof.Machine.execResumeTick b s
  | .lockDrainTimeout b => Sys2Proof.Machine.execLockDrainTimeout b s
  | .contextTeardown b remote => Sys2Proof.Machine.execContextTeardown b remote s
  | .stepOverdue b p => Sys2Proof.Machine.execStepOverdue b p s
  | .gen b ordinal generation => Sys2Proof.Machine.execGen b ordinal generation s
  | .fenceDrainEnd b writebackOk => Sys2Proof.Machine.execFenceDrainEnd b writebackOk s
  | .crashDump b unresponsive => Sys2Proof.Machine.execCrashDump b unresponsive s
  | .dumpReadTimeout kind index => Sys2Proof.Machine.execDumpReadTimeout kind index s
  | .dumpCopy => Sys2Proof.Machine.execDumpCopy s
  | .dumpExport => Sys2Proof.Machine.execDumpExport s
  | .basinReset b selfRefreshOk pprOk trainFailed => Sys2Proof.Machine.execBasinReset b selfRefreshOk pprOk trainFailed s
  | .restorationComplete b ok pprOk => Sys2Proof.Machine.execRestorationComplete b ok pprOk s
  | .deviceWarmReset found lost unresponsive => Sys2Proof.Machine.execDeviceWarmReset found lost unresponsive s
  | .watchdogFailover => Sys2Proof.Machine.execWatchdogFailover s
  | .dualWatchdogMiss found lost unresponsive => Sys2Proof.Machine.execDualWatchdogMiss found lost unresponsive s
  | .mgmtHandover startOk => Sys2Proof.Machine.execMgmtHandover startOk s
  | .basinImageStart b ok => Sys2Proof.Machine.execBasinImageStart b ok s
  | .flashImageSwitch => Sys2Proof.Machine.execFlashImageSwitch s
  | .dredgeWindowOpen b routerFail => Sys2Proof.Machine.execDredgeWindowOpen b routerFail s
  | .dredgeWindowClose b => Sys2Proof.Machine.execDredgeWindowClose b s
  | .lpddrCalibrationDone m ok => Sys2Proof.Machine.execLpddrCalibrationDone m ok s
  | .laneRecalibration => Sys2Proof.Machine.execLaneRecalibration s
  | .leavingExpiry n => Sys2Proof.Machine.execLeavingExpiry n s
  | .calComplete n => Sys2Proof.Machine.execCalComplete n s
  | .calTimeout n => Sys2Proof.Machine.execCalTimeout n s
  | .selfTestStart b clockOk railOk => Sys2Proof.Machine.execSelfTestStart b clockOk railOk s
  | .selfTestLimitCheck b clockOk railOk => Sys2Proof.Machine.execSelfTestLimitCheck b clockOk railOk s
  | .selfTestComplete b pass => Sys2Proof.Machine.execSelfTestComplete b pass s
  | .tileFailure t passThrough => Sys2Proof.Machine.execTileFailure t passThrough s
  | .flitReceive n h fecOk corrected => Sys2Proof.Machine.execFlitReceive n h fecOk corrected s
  | .grantArrival g => Sys2Proof.Machine.execGrantArrival g s
  | .gack b slot first last => Sys2Proof.Machine.execGack b slot first last s
  | .gnak b slot grant => Sys2Proof.Machine.execGnak b slot grant s
  | .grantResendTimeout b slot grant => Sys2Proof.Machine.execGrantResendTimeout b slot grant s
  | .refuse b slot => Sys2Proof.Machine.execRefuse b slot s
  | .qcredit b p qid credits => Sys2Proof.Machine.execQcredit b p qid credits s
  | .qcreditTimer b qid => Sys2Proof.Machine.execQcreditTimer b qid s
  | .mask position seq live => Sys2Proof.Machine.execMask position seq live s
  | .linkFailure n => Sys2Proof.Machine.execLinkFailure n s
  | .linkRetrain n => Sys2Proof.Machine.execLinkRetrain n s
  | .towpathForward dst => Sys2Proof.Machine.execTowpathForward dst s
  | .time n v hops delayTicks => Sys2Proof.Machine.execTime n v hops delayTicks s
  | .tsyncFrame preamble v crc => Sys2Proof.Machine.execTsyncFrame preamble v crc s
  | .thermalSample basins management => Sys2Proof.Machine.execThermalSample basins management s
  | .thermalRelease b => Sys2Proof.Machine.execThermalRelease b s
  | .sysRstFall => Sys2Proof.Machine.execSysRstFall s
  | .sysRstRise found => Sys2Proof.Machine.execSysRstRise found s
  | .memPgFall => Sys2Proof.Machine.execMemPgFall s
  | .startUp found => Sys2Proof.Machine.execStartUp found s
  | .railRetry found => Sys2Proof.Machine.execRailRetry found s
  | .rehydration b ok => Sys2Proof.Machine.execRehydration b ok s
  | .flashCodewordRead place out spoiled => Sys2Proof.Machine.execFlashCodewordRead place out spoiled s
  | .grownBadBlock chan block spoiled => Sys2Proof.Machine.execGrownBadBlock chan block spoiled s
  | .extentMove extent superblock firstStepOk => Sys2Proof.Machine.execExtentMove extent superblock firstStepOk s
  | .readDisturbRefresh chan block spoiled => Sys2Proof.Machine.execReadDisturbRefresh chan block spoiled s
  | .wearLevel chan low high firstStepOk => Sys2Proof.Machine.execWearLevel chan low high firstStepOk s
  | .patrolRead extent found mismatch spoiled => Sys2Proof.Machine.execPatrolRead extent found mismatch spoiled s
  | .ftlCountSave => Sys2Proof.Machine.execFtlCountSave s
  | .chainShard model edition deviceOrdinal shard what => Sys2Proof.Machine.execChainShard model edition deviceOrdinal shard what s
  | .intakeTimeout model edition => Sys2Proof.Machine.execIntakeTimeout model edition s
  | .loadComplete b c model edition ok => Sys2Proof.Machine.execLoadComplete b c model edition ok s
  | .drbgReseed healthOk => Sys2Proof.Machine.execDrbgReseed healthOk s
  | .perturbExpiry slot => Sys2Proof.Machine.execPerturbExpiry slot s
  | .traceTrigger b source ctx data => Sys2Proof.Machine.execTraceTrigger b source ctx data s
  | .resetWindowDecay b => Sys2Proof.Machine.execResetWindowDecay b s
  | .linkTrainingComplete n partner => Sys2Proof.Machine.execLinkTrainingComplete n partner s
  | .partnerSignalReturn n => Sys2Proof.Machine.execPartnerSignalReturn n s
  | .memPgRise => Sys2Proof.Machine.execMemPgRise s
  | .ethLinkLoss => Sys2Proof.Machine.execEthLinkLoss s
  | .ethTrainingComplete mode => Sys2Proof.Machine.execEthTrainingComplete mode s
  | .cutFillComplete b c slot crcOk => Sys2Proof.Machine.execCutFillComplete b c slot crcOk s
  | .wayMoveComplete b => Sys2Proof.Machine.execWayMoveComplete b s
  | .staticCopyComplete b row => Sys2Proof.Machine.execStaticCopyComplete b row s
  | .idleTick => Sys2Proof.Machine.execIdleTick s
  | .keptReplyExpiry session seq => Sys2Proof.Machine.execKeptReplyExpiry session seq s
  | .challengeExpiry session => Sys2Proof.Machine.execChallengeExpiry session s
  | .fuseBurnComplete image => Sys2Proof.Machine.execFuseBurnComplete image s
  | .newStandbyStarted => Sys2Proof.Machine.execNewStandbyStarted s
  | .i3cDynamicAddress address => Sys2Proof.Machine.execI3cDynamicAddress address s
  | .tclkLoss => Sys2Proof.Machine.execTclkLoss s
  | .holdover => Sys2Proof.Machine.execHoldover s
  | .powerBoundary => Sys2Proof.Machine.execPowerBoundary s
  | .planStep => Sys2Proof.Machine.execPlanStep s
  | .shedFall => Sys2Proof.Machine.execShedFall s
  | .shedRise => Sys2Proof.Machine.execShedRise s
  | .rmLost => Sys2Proof.Machine.execRmLost s
  | .safeCap => Sys2Proof.Machine.execSafeCap s
  | .inputLow => Sys2Proof.Machine.execInputLow s
  | .inputRestored => Sys2Proof.Machine.execInputRestored s
  | .inputCollapse => Sys2Proof.Machine.execInputCollapse s
  | .standbySupplyLoss => Sys2Proof.Machine.execStandbySupplyLoss s

end Sys2Proof.Machine
end

