-- ==== Sys2Proof/Safety.lean ====
section
/-! DEFINITION. The terms of the statements: when the endpoint runs a command at once, what its final reply says, and which parts of
the state a command or an event leaves alone. -/

namespace Sys2Proof.Machine

/-! ### A command of an open session -/

/-- A session once a packet of it is accepted: the host's counter, the packets of its key, the tick, the carriage and the address (R412, R414, R424). -/
def Session.heard (x : Session) (h : Hdr) (now : Nat) : Session :=
  { x with rx := h.counter.toNat, rxCount := x.rxCount + 1, lastTick := now, carriage := h.carriage, peer := h.peer }

/-- The state once a packet of session `x` is accepted and its sequence stands in the reply cache (steps 6 and 7 of Table 11.7). -/
def State.heard (s : State) (x : Session) (h : Hdr) (cmd : HostCmd) : State :=
  (s.setSession h.session.toNat (some (x.heard h s.now))).cacheOpen h.session.toNat h.seq.toNat cmd

/-- The state in which the command's own work begins: a long command has answered ACCEPTED first (R418). -/
def State.begun (s : State) (x : Session) (h : Hdr) (cmd : HostCmd) : State :=
  if longClass (classOf (opcodeOf cmd)) then (s.heard x h cmd).acceptedReply h.session.toNat h cmd else s.heard x h cmd

/-- Every check of Table 11.7 that comes before a command's own checks passes for a command of session `x`, and its not-before has
come: the carriage is up, the key is not used up, the counter rises, the sequence is new, role and scope permit it, and neither
OUT_OF_SERVICE, recovery, the mask rule nor a fenced basin turns it away. -/
def Starts (s : State) (x : Session) (h : Hdr) (cmd : HostCmd) : Prop :=
  let op := opcodeOf cmd
  s.session h.session.toNat = some x ∧ h.session ≠ 0#16 ∧ classOf op ≠ 13 ∧ opcodeKnown op = true ∧
  s.reaches h.carriage op = true ∧ s.unclaimedDrops cmd = false ∧ State.keySpent x op = false ∧ x.rx < h.counter.toNat ∧
  s.i3cFull h.carriage = false ∧ s.cached x h.seq.toNat = none ∧ permitted s x h cmd = true ∧ h.notBefore.toNat ≤ s.now ∧
  (s.mgmt.oos = true → ¬ (3 ≤ classOf op ∧ classOf op ≤ 6)) ∧ (s.pins.recovery = true → recoveryCmd op = true) ∧
  h.context.toNat ≤ 3 ∧ maskOk s h cmd = true ∧
  (classOf op = 11 ∨ namesBasins cmd = false ∨ (maskBasins h.mask).any (fun b => (s.basin b).st.state == .fenced) = false)

/-- The reply cache of the command's session holds its final reply (R420): its status, its extents and its parameters from 0x20. -/
def Replied (t : State) (h : Hdr) (st : Status) (committed touched : Nat) (body : List Byte) : Prop :=
  ∃ x e p, t.session h.session.toNat = some x ∧ e ∈ x.cache ∧ e.seq = h.seq.toNat ∧ e.reply = some p ∧
    p.status = st ∧ p.committed = committed ∧ p.touched = touched ∧ p.body = body

/-- The final reply of a command stands among those that COMPLETION_QUERY can give (R457). -/
def KeptReply (t : State) (h : Hdr) (st : Status) : Prop :=
  ∃ k ∈ t.ep.kept, k.session = h.session.toNat ∧ k.seq = h.seq.toNat ∧ k.reply.status = st

/-- The command runs on: the endpoint holds it until an event ends it (R418). -/
def Runs (t : State) (h : Hdr) (cmd : HostCmd) : Prop := ∃ r ∈ t.ep.running, r.hdr = h ∧ r.cmd = cmd

/-- `t` is `s` but for the endpoint (sessions, replies, packets) and ALERT_N. -/
def EndpointOnly (s t : State) : Prop := t = { s with ep := t.ep, pins := { s.pins with alertN := t.pins.alertN } }

/-- The keeper of the slice of basin `b` stands on this device, or there is none: nothing goes out to it (R135, R138). -/
def keeperHere (s : State) (b : Nat) : Prop :=
  ∀ k, s.keeperOrdinal b = some k → s.ordinalHere (s.basin b).sliceId.toNat k = true

/-- The units that commands on requests and contexts do not reach: time, power, memory channels, fabric, the port, tiles, the model store,
self-test and reset of the device, and the queue. -/
def UnitsKept (s t : State) : Prop :=
  t.time = s.time ∧ t.power = s.power ∧ t.memDev = s.memDev ∧ t.fab = s.fab ∧ t.eth = s.eth ∧ t.store = s.store ∧ t.mgmt = s.mgmt ∧
  t.tiles = s.tiles ∧ t.pending = s.pending

/-! ### What a schedule word of one tile may change -/

/-- Nothing of a basin changes but the taint of pounds (R241). -/
def TaintsOnly (s t : State) : Prop :=
  ∀ b, t.basin b = { s.basin b with pounds := (t.basin b).pounds } ∧
    ∀ p, (t.basin b).pound p = { (s.basin b).pound p with taint := ((t.basin b).pound p).taint }

/-- Tile `i` alone changes, and beside it only the taint of a pound whose tile consumed a damaged word. -/
def TileOnly (s t : State) (i : Nat) : Prop :=
  (∀ j, j ≠ i → t.tile j = s.tile j) ∧ TaintsOnly s t ∧ t = { s with tiles := t.tiles, basins := t.basins }

/-- Nothing of a basin changes but the taint of pounds and the count of late landings, BSN_BRG_LATE and the running context's (R241, R326, R328). -/
def LatesOnly (s t : State) : Prop :=
  ∀ b, t.basin b = { s.basin b with
      pounds := (t.basin b).pounds, eng := { (s.basin b).eng with late := (t.basin b).eng.late }, ctxs := (t.basin b).ctxs } ∧
    (∀ p, (t.basin b).pound p = { (s.basin b).pound p with taint := ((t.basin b).pound p).taint }) ∧
    ∀ c, (t.basin b).ctx c = { (s.basin b).ctx c with barges := ((t.basin b).ctx c).barges }

/-- Tile `i` alone changes, and beside it only what its reads of the operand buffer record: the taint of its pound and, in a piece of a paced
phrase, late landings. -/
def ReadsOnly (s t : State) (i : Nat) : Prop :=
  (∀ j, j ≠ i → t.tile j = s.tile j) ∧ t = { s with tiles := t.tiles, basins := t.basins } ∧ LatesOnly s t ∧
  ((s.tile i).core.phrase.bind (·.half) = none → TaintsOnly s t ∧ (t.tile i).core.halves = (s.tile i).core.halves)

/-- Tile `i` changes in bytes [a, a + n) of its operand buffer, their parity, its arithmetic counters and the state of its landing halves alone. -/
def WritesOpbuf (s t : State) (i a n : Nat) : Prop :=
  (∀ x, (x < a ∨ a + n ≤ x) → Memory.byte (t.tile i).mem.opbuf x = Memory.byte (s.tile i).mem.opbuf x) ∧
  t.tile i = { s.tile i with
    cnt := (t.tile i).cnt,
    core := { (s.tile i).core with halves := (t.tile i).core.halves },
    mem := { (s.tile i).mem with opbuf := (t.tile i).mem.opbuf, parity := (t.tile i).mem.parity } } ∧
  ReadsOnly s t i

/-- Tile `i` issues a schedule word of operation `o`, and `u` is the state once it has issued: no other word of its unit stands in the cycle
(R101, R104), and no flit was overwritten in an input register (R106). -/
def Issues (s : State) (i : Nat) (o : SchedOp) (u : State) : Prop :=
  s.issues i = true ∧ decodeSched (s.fetch i) = some o ∧
  State.overwritten (s.tile i) ((s.tile i).core.cyc + schedWait (s.fetch i)) = false ∧
  (schedWait (s.fetch i) = 0 → (s.tile i).core.used.contains o.unit = false) ∧
  u = (s.consume i .sched (wordByte (s.runSlot i) (s.tile i).core.pc / 4) 2).issued i o.unit (schedWait (s.fetch i))

/-- The rows of the vector unit's operations for a tile, by the code of Table 3.17. -/
def vuRows (i : TileId) : List Instr :=
  [.fma32 i, .add32 i, .mul32 i, .min32 i, .max32 i, .cmp32 i, .sel i, .convert i, .fma16 i, .add16 i, .mul16 i, .min16 i, .max16 i,
    .exp i, .rcp i, .rsqrt i, .topk i]

/-- The row of a tile's schedule word that carries an operation (Tables 3.6, 3.17). -/
def WordRow (i : TileId) (c : Instr) (o : SchedOp) : Prop :=
  (c = .nop i ∧ o = .nop) ∨
  (∃ f maps k a m sp, c = .muLoad i f maps ∧ o = .muLoad k a m sp) ∨
  (∃ f z k a blk fr n, c = .muStream i f z ∧ o = .muStream k a blk fr n) ∨
  (∃ sup x n f st fn k a, c = .drain i sup ∧ o = .drain x n f st fn k a) ∨
  (∃ k a b v, o = .vu k a b v ∧ (vuRows i)[k.toNat]? = some c) ∨
  (∃ x k a n, (c = .sramRead i ∧ o = .sram false x k a n) ∨ (c = .sramWrite i ∧ o = .sram true x k a n)) ∨
  (∃ ph x y acc n e w v own r, c = .route i ph x y acc ∧ o = .route n e w v own r) ∨
  (∃ q k a n, c = .queuePush i ∧ o = .queue false q k a n) ∨
  (∃ acc q k a n, c = .queuePop i acc ∧ o = .queue true q k a n) ∨
  (∃ r n, c = .counter i ∧ o = .counter r n) ∨
  (∃ n fr k, c = .loop i ∧ o = .loop n fr k) ∨
  (c = .endWord i ∧ o = .endWord)

/-- The dumps fit where they stand: the retention SRAM holds 16 MiB and the crash-dump area of flash 64 slots (R531). -/
def DumpsBounded (s : State) : Prop :=
  (s.dumps.retention.map Dump.bytes).foldl (· + ·) 0 ≤ 16 * 2 ^ 20 ∧ s.dumps.flash.length ≤ 64

/-- A packet stands in the I3C queue, with the host, or waits for its carriage. -/
def Handed (t : State) (p : Pkt) : Prop := p ∈ t.ep.i3c ∨ p ∈ t.ep.sent ∨ p ∈ t.ep.waiting

/-- The words of a vector span: 64 lanes a vector (Table 3.6). -/
def vuWords (v : VuSpan) : Nat := 64 * spanVectors v

end Sys2Proof.Machine
end

