-- ==== Sys2Proof/Certificates/Slice0/Obligations.lean ====
section
/-! DEFINITION. The statements about the ASG4 model. A statement of a command of a session has the premise `Starts`: every check of
Table 11.7 that stands before the command's own passes. `s.begun x h cmd` is the state in which the command's own work begins; it
differs from `s` in the endpoint alone. -/

open Sys2Proof Sys2Proof.Machine

/-! ### The queue of commands -/

/-- A step takes the command at the front of the queue and runs it on the rest of the state. -/
def Obligations.StepRunsFrontCommand : Prop :=
  ∀ (c : Instr) (s : State) (rest : List Instr), step { s with pending := c :: rest } = exec c { s with pending := rest }

/-- The model's choice (log entry 3): with no command waiting, a step is one rack tick. -/
def Obligations.EmptyQueuePassesOneTick : Prop := ∀ s : State, s.pending = [] → step s = .next (rackTick s)

/-- Headline: no command stops the block, and every step, the idle one too, takes exactly the front command off the queue: no command's
meaning puts one in or takes one out. -/
def Obligations.EveryStepAnswersAndTakesOneCommand : Prop := ∀ s : State, ∃ t, step s = .next t ∧ t.pending = s.pending.tail

/-! ### Rinzan commands: sessions and state words -/

/-- Class 0x01. OPEN_SESSION whose ciphertext opens under the identity key, whose plaintext passes the checks of R409, and that carries the
operator's signature or a ticket under the admission key (R410) opens a session with the key, role and scope of its plaintext and keeps the
digest of its ciphertext; CLOSE_SESSION of a session without a running request, or with the force flag, leaves no session (R415). -/
def Obligations.SessionCommandsOpenAndClose : Prop :=
  (∀ (s : State) (h : Hdr) (cipher sig : List Byte) (p : KeyPlain),
    s.reaches h.carriage 0x0101 = true → s.unclaimedDrops (.openSession cipher sig) = false → h.session = 0#16 → s.unwrap cipher = some p →
    p.reserved = 0#8 → p.role.toNat ≤ 1 → p.context = h.context → p.context.toNat ≤ 3 → p.basins = h.mask →
    s.now ≤ p.notAfter.toNat → p.notAfter.toNat ≤ s.now + 6000000000 → (∀ d ∈ s.ep.digests, d.1 = shaNum cipher → d.2 < s.now) →
    (s.pins.recovery = true → p.role = 0#8) → (p.role = 0#8 → (s.signer sig cipher).isSome = true) →
    (p.role = 1#8 → s.ticketOk p = true) →
    s.sessionsFull (if p.role = 0#8 then Role.operator else Role.tenant) p.context.toNat p.basins = false → h.notBefore.toNat ≤ s.now →
    ∃ t n y, exec (.openSession h cipher sig) s = .next t ∧ t.session n = some y ∧ y.key = p.key ∧
      y.role = (if p.role = 0#8 then Role.operator else Role.tenant) ∧ y.ctx = p.context.toNat ∧ y.basins = p.basins ∧
      y.rx = h.counter.toNat ∧ (shaNum cipher, p.notAfter.toNat) ∈ t.ep.digests ∧
      EndpointOnly { s with freeCtr := t.freeCtr } t) ∧
  (∀ (s : State) (x : Session) (h : Hdr) (flags : Byte), Starts s x h (.closeSession flags) → flags.toNat ≤ 1 →
    (flags = 0#8 → ∀ e ∈ s.man.entries, e.2.session = h.session.toNat → e.2.active = false) →
    ∃ t, exec (.closeSession h flags) s = .next t ∧ t.session h.session.toNat = none ∧ KeptReply t h .ok ∧
      (flags = 0#8 → t.man = s.man) ∧ t.power = s.power ∧ t.time = s.time ∧ t.store = s.store)

/-- Class 0x01. ROTATE_KEY with a fresh ciphertext that leaves role and scope unchanged puts the new key in, counts it from 0 and keeps the
old one for 1 s for its own retry (R413, R414); SET_NOTICE_TARGET sets the session's target (R423). Neither touches anything but the
endpoint. -/
def Obligations.SessionCommandsRekeyAndTarget : Prop :=
  (∀ (s : State) (x : Session) (h : Hdr) (cipher : List Byte) (p : KeyPlain), Starts s x h (.rotateKey cipher) →
    s.unwrap cipher = some p → p.reserved = 0#8 → p.role.toNat = (if x.role = .operator then 0 else 1) →
    p.context.toNat = x.ctx → p.basins = x.basins → s.now ≤ p.notAfter.toNat → p.notAfter.toNat ≤ s.now + 6000000000 →
    (∀ d ∈ s.ep.digests, d.1 = shaNum cipher → d.2 < s.now) →
    ∃ t y, exec (.rotateKey h cipher) s = .next t ∧ t.session h.session.toNat = some y ∧ y.key = p.key ∧ y.rx = h.counter.toNat ∧ y.rxCount = 0 ∧
      y.txCount = 0 ∧ (y.oldKey.map fun k => (k.key, k.until_)) = some (x.key, s.now + 100000000) ∧ y.role = x.role ∧
      y.ctx = x.ctx ∧ y.basins = x.basins ∧ (shaNum cipher, p.notAfter.toNat) ∈ t.ep.digests ∧ EndpointOnly s t) ∧
  (∀ (s : State) (x : Session) (h : Hdr) (carriage mask : Byte) (port : BitVec 16) (address : BitVec 128),
    Starts s x h (.setNoticeTarget carriage mask port address) → carriage.toNat ≤ 2 → mask.toNat ≤ 63 →
    ∃ t y, exec (.setNoticeTarget h carriage mask port address) s = .next t ∧ t.session h.session.toNat = some y ∧
      y.target = some ⟨carriage.toNat, mask, ⟨address, port⟩⟩ ∧ Replied t h .ok 1 1 [] ∧ EndpointOnly s t)

/-- Class 0x02. READ_STATE answers with the words that stand at its addresses and changes nothing but the latch of TIM_NOW_HI;
WRITE_STATE writes its words in ascending address and answers with the status of each (R12, R434, R438). -/
def Obligations.StateWordCommandsReadAndWrite : Prop :=
  (∀ (s : State) (x : Session) (h : Hdr) (a : BitVec 32) (k : BitVec 16), Starts s x h (.readState a k) → a.toNat % 4 = 0 →
    1 ≤ k.toNat → k.toNat ≤ 2048 → 4 * k.toNat ≤ paramCap h.carriage - 32 →
    ∃ t, exec (.readState h a k) s = .next t ∧
      Replied t h .ok k.toNat k.toNat ((s.readWords h.session.toNat a.toNat k.toNat).1.flatMap fun w => natBe 4 w.toNat) ∧
      EndpointOnly { s with time := { s.time with latchHi := t.time.latchHi } } t) ∧
  (∀ (s : State) (x : Session) (h : Hdr) (a : BitVec 32) (vs : List (BitVec 32)), Starts s x h (.writeState a vs) →
    a.toNat % 4 = 0 → vs ≠ [] → vs.length ≤ 2048 →
    ∃ t r, exec (.writeState h a vs) s = .next t ∧ r = (s.begun x h (.writeState a vs)).writeWords h.session.toNat a.toNat vs ∧
      Replied t h ((r.1.find? fun x => x != .ok).getD .ok) (r.1.filter fun x => x == .ok || x == .deferred).length vs.length
        (r.1.flatMap fun x => natBe 2 x.code) ∧
      EndpointOnly { r.2 with flash := { r.2.flash with journal := t.flash.journal } } t)

/-! ### Rinzan commands: the model store and residency -/

/-- Class 0x03. STORE_BEGIN opens an object on extents that no other object holds (R289); STORE_SHARD of a whole image that passes its
checks acknowledges the shard (R290); STORE_COMMIT of a complete object makes it COLD, or NOT_READY where one of its shards is damaged (R295, Table 7.11); STORE_DELETE of an object that is HOT,
WARM or LOADING nowhere removes it (R302); STORE_LIST and STORE_VERIFY of an undamaged object report it (R300, R440), and the page reads of STORE_VERIFY
count in the blocks of flash (R272). -/
def Obligations.StoreCommandsKeepTheCatalog : Prop :=
  (∀ (s : State) (x : Session) (h : Hdr) (p : StoreBeginP), Starts s x h (.storeBegin p) → p.mode.toNat ≤ 1 → 1 ≤ p.shards.toNat →
    p.shards.toNat ≤ 16384 → (p.mode = 0#8 → p.digest = 0#256) → s.object p.model.toNat p.edition.toNat = none →
    12 ≤ s.flash.opPct.toNat →
    s.usedExtents.length + max 1 ((p.bytes.toNat + extentBytes - 1) / extentBytes) ≤ s.flash.capacity.toNat →
    ∃ t o, exec (.storeBegin h p) s = .next t ∧ t.store.objects = s.store.objects ++ [o] ∧ o.model = p.model.toNat ∧
      o.edition = p.edition.toNat ∧ o.mode = p.mode.toNat ∧ o.count = p.shards.toNat ∧ o.committed = false ∧ o.shards = [] ∧
      o.intakeMs = (if p.intakeMs = 0#32 then 600000 else p.intakeMs.toNat) ∧
      (∀ k ∈ o.extents, k < s.flash.capacity.toNat ∧ k ∉ s.usedExtents) ∧ Replied t h .ok 1 1 (natBe 4 o.extents.length) ∧
      t.basins = s.basins ∧ t.tiles = s.tiles ∧ t.man = s.man) ∧
  (∀ (s : State) (x : Session) (h : Hdr) (m : BitVec 32) (e : BitVec 16) (i : BitVec 32) (data : List Byte) (o : StoreObj),
    Starts s x h (.storeShard m e i 0 data) → s.object m.toNat e.toNat = some o → i.toNat < o.count → o.committed = false →
    (o.shard i.toNat).acked = false → (o.shard i.toNat).pieces = [] → data ≠ [] → data.length ≤ 8192 → data.length = imageBytes data →
    shardHead data ≤ 4194304 → headerOk o i.toNat data = true → intakeOk o data = true →
    max (o.bytesBut i.toNat) (o.placeFor i.toNat data.length) + data.length ≤ extentBytes * o.extents.length →
    ∃ t q, exec (.storeShard h m e i 0 data) s = .next t ∧ t.object m.toNat e.toNat = some q ∧ (q.shard i.toNat).acked = true ∧
      (q.shard i.toNat).image = data ∧ (∀ j, j ≠ i.toNat → q.shard j = o.shard j) ∧ Replied t h .ok 1 1 (natBe 1 1 ++ natBe 7 0) ∧
      s.flash.journal < t.flash.journal ∧ t.basins = s.basins ∧ t.tiles = s.tiles) ∧
  (∀ (s : State) (x : Session) (h : Hdr) (m : BitVec 32) (e : BitVec 16) (o : StoreObj), Starts s x h (.storeCommit m e) →
    s.object m.toNat e.toNat = some o → o.committed = false → o.missing = [] → objectDigestOk o = true →
    ∃ t, exec (.storeCommit h m e) s = .next t ∧ t.object m.toNat e.toNat = some { o with committed := true, damagedCommit := !o.damaged.isEmpty } ∧
      Replied t h .ok o.count o.count (natBe 4 o.count ++ bitBytes o.count fun i => (o.shard i).acked) ∧
      t.flash.journal = s.flash.journal + 1 ∧ t.basins = s.basins ∧ t.tiles = s.tiles) ∧
  (∀ (s : State) (x : Session) (h : Hdr) (m : BitVec 32) (e : BitVec 16) (o : StoreObj), Starts s x h (.storeDelete m e) →
    s.object m.toNat e.toNat = some o →
    (∀ r ∈ s.residents m.toNat e.toNat, r.2.2.state ≠ .hot ∧ r.2.2.state ≠ .warm ∧ r.2.2.state ≠ .loading) →
    ∃ t, exec (.storeDelete h m e) s = .next t ∧ t.object m.toNat e.toNat = none ∧
      (∀ x ∈ o.extents, Tbl.get 0 x t.flash.map = 0) ∧ Replied t h .ok 1 1 [] ∧ t.flash.journal = s.flash.journal + 1 ∧
      t.tiles = s.tiles ∧ t.man = s.man) ∧
  (∀ (s : State) (x : Session) (h : Hdr) (first : BitVec 32) (count : BitVec 16), Starts s x h (.storeList first count) →
    1 ≤ count.toNat → count.toNat ≤ 256 →
    ∃ t l, exec (.storeList h first count) s = .next t ∧ l = (s.store.objects.drop first.toNat).take count.toNat ∧
      (8 + 32 * l.length ≤ paramCap h.carriage - 32 → Replied t h .ok l.length l.length (natBe 2 l.length ++
        natBe 2 (if first.toNat + count.toNat < s.store.objects.length then 1 else 0) ++ natBe 4 0 ++ l.flatMap StoreObj.listing)) ∧
      EndpointOnly s t) ∧
  (∀ (s : State) (x : Session) (h : Hdr) (m : BitVec 32) (e : BitVec 16) (o : StoreObj), Starts s x h (.storeVerify m e) →
    s.object m.toNat e.toNat = some o → o.missing = [] → o.committed = true → o.damagedCommit = false → o.count ≤ 4096 →
    (∀ i < o.count, (o.shard i).damaged = false ∧ intakeOk o (o.shard i).image = true) → objectDigestOk o = true →
    (∀ r ∈ s.residents m.toNat e.toNat, r.2.2.state ≠ .notReady) →
    ∃ t, exec (.storeVerify h m e) s = .next t ∧
      Replied t h .ok o.count o.count (natBe 4 o.count ++ List.replicate ((o.count + 3) / 4) 0#8) ∧ t.object m.toNat e.toNat = some o ∧
      EndpointOnly { s with store := t.store, flash := { s.flash with blocks := t.flash.blocks } } t)

/-- Class 0x04. MAKE_WARM and MAKE_HOT of an object that fits put it in LOADING in every named basin (Table 7.12, R284, R285); EVICT
takes every named basin's copy that is WARM, or HOT without an active cut, to the state of Table 7.12, and runs on where a WARM copy's reload is not
complete (Table 6.11); RESIDENCY_QUERY reports (R283). -/
def Obligations.ResidencyCommandsMoveObjects : Prop :=
  (∀ (s : State) (x : Session) (h : Hdr) (m : BitVec 32) (e : BitVec 16) (o : StoreObj), Starts s x h (.makeWarm m e) →
    s.object m.toNat e.toNat = some o → o.lanes = (maskBasins h.mask).length →
    (∀ b ∈ maskBasins h.mask, ((s.basin b).ctx h.context.toNat).exist = true ∧
      s.residency b h.context.toNat m.toNat e.toNat = .cold) →
    (∀ i, ∀ b ∈ maskBasins h.mask, o.lanePages i false ≤ ((s.basin b).ctx h.context.toNat).pagesFree) →
    ∃ t, exec (.makeWarm h m e) s = .next t ∧ Runs t h (.makeWarm m e) ∧
      (∀ b ∈ maskBasins h.mask, t.residency b h.context.toNat m.toNat e.toNat = .loading) ∧ t.store = s.store ∧ t.tiles = s.tiles) ∧
  (∀ (s : State) (x : Session) (h : Hdr) (m : BitVec 32) (e flags : BitVec 16) (o : StoreObj), Starts s x h (.makeHot m e flags) →
    flags.toNat ≤ 1 → s.object m.toNat e.toNat = some o → o.lanes = (maskBasins h.mask).length →
    (∀ b ∈ maskBasins h.mask, ((s.basin b).ctx h.context.toNat).exist = true ∧
      (s.residency b h.context.toNat m.toNat e.toNat = .cold ∨ s.residency b h.context.toNat m.toNat e.toNat = .warm)) →
    (∀ i, ∀ b ∈ maskBasins h.mask, o.lanePages i true ≤ ((s.basin b).ctx h.context.toNat).pagesFree ∧
      ∀ r, (s.hotPlace b h.context.toNat o i r).isSome = true) →
    ∃ t, exec (.makeHot h m e flags) s = .next t ∧ Runs t h (.makeHot m e flags) ∧
      (∀ b ∈ maskBasins h.mask, t.residency b h.context.toNat m.toNat e.toNat = .loading) ∧ t.store = s.store ∧ t.tiles = s.tiles) ∧
  (∀ (s : State) (x : Session) (h : Hdr) (m : BitVec 32) (e : BitVec 16) (o : StoreObj), Starts s x h (.evict m e) →
    s.object m.toNat e.toNat = some o → o.committed = true → o.damagedCommit = false →
    (∀ b ∈ maskBasins h.mask, s.residency b h.context.toNat m.toNat e.toNat = .warm ∨
      (s.residency b h.context.toNat m.toNat e.toNat = .hot ∧ s.cutActive b h.context.toNat m.toNat e.toNat = false)) →
    ((∃ b ∈ maskBasins h.mask, s.evictWaits b h.context.toNat m.toNat e.toNat = true) →
      ∃ t, exec (.evict h m e) s = .next t ∧ Runs t h (.evict m e) ∧ t.basins = s.basins ∧ t.tiles = s.tiles ∧ t.store = s.store) ∧
    ((∀ b ∈ maskBasins h.mask, s.evictWaits b h.context.toNat m.toNat e.toNat = false) → ∃ t, exec (.evict h m e) s = .next t ∧ Replied t h .ok (maskBasins h.mask).length (maskBasins h.mask).length
        (perBasin h.mask fun b => (t.residency b h.context.toNat m.toNat e.toNat).code) ∧
      (∀ b ∈ maskBasins h.mask, t.residency b h.context.toNat m.toNat e.toNat =
        (if s.residency b h.context.toNat m.toNat e.toNat = .hot ∧ (s.resOf b h.context.toNat m.toNat e.toNat).any (fun r => r.warm) then
          .warm else .cold)) ∧ t.store = s.store ∧ t.man = s.man)) ∧
  (∀ (s : State) (x : Session) (h : Hdr) (m : BitVec 32) (e : BitVec 16), Starts s x h (.residencyQuery m e) →
    (s.object m.toNat e.toNat).isSome = true →
    ∃ t, exec (.residencyQuery h m e) s = .next t ∧
      Replied t h .ok 1 1 (perBasin h.mask fun b => (s.residency b h.context.toNat m.toNat e.toNat).code) ∧ EndpointOnly s t)

/-! ### Rinzan commands: contexts, cuts and requests -/

/-- Class 0x05. CREATE_CONTEXT defines the context in every named basin, each of which has room for it (R442); DESTROY_CONTEXT ends its
requests and takes it out of them (R443); LOAD_CUT takes the slot and fills it (R444); SELECT_CUT waits for the coming lockages (R445);
SET_BALANCE waits for the keeper's next evaluation (R355). -/
def Obligations.ContextCommandsDefineAndRemove : Prop :=
  (∀ (s : State) (x : Session) (h : Hdr) (p : CreateCtxP), Starts s x h (.createContext p) → createOk p = true →
    s.runCmd h.session.toNat h.seq.toNat = none →
    (∀ b ∈ maskBasins h.mask, ((s.basin b).ctx h.context.toNat).exist = false ∧
      ((s.basin b).st.state = .ready ∨ (s.basin b).st.state = .serving)) →
    (s.defineAll h.context.toNat p (maskBasins h.mask)).isSome = true →
    ∃ t, exec (.createContext h p) s = .next t ∧ (Runs t h (.createContext p) ∨ KeptReply t h .ok) ∧
      (∀ b ∈ maskBasins h.mask, ((t.basin b).ctx h.context.toNat).exist = true ∧
        ((t.basin b).ctx h.context.toNat).slots = p.slots.setWidth 4 ∧ ((t.basin b).ctx h.context.toNat).pages = p.pages.toNat ∧
        ((t.basin b).ctx h.context.toNat).key = p.key ∧ ((t.basin b).sramCtx h.context.toNat).store = p.store ∧
        ((t.basin b).sramCtx h.context.toNat).size = p.share ∧ ((t.basin b).brgCtx h.context.toNat).quota = p.barges.setWidth 11 ∧
        ((t.basin b).manCtx h.context.toNat).count = 128) ∧
      (∀ b c, (b ∉ maskBasins h.mask ∨ c ≠ h.context.toNat) → (t.basin b).ctx c = (s.basin b).ctx c) ∧
      UnitsKept { s with fab := t.fab } t ∧
      ((∀ b ∈ maskBasins h.mask, keeperHere s b) → t.fab = s.fab)) ∧
  (∀ (s : State) (x : Session) (h : Hdr), Starts s x h .destroyContext →
    (∀ b ∈ maskBasins h.mask, ((s.basin b).ctx h.context.toNat).exist = true) →
    ∃ t, exec (.destroyContext h) s = .next t ∧
      (∀ b ∈ maskBasins h.mask, ((t.basin b).ctx h.context.toNat).exist = false) ∧
      (∀ i, (s.entry i).st ≠ .free → (s.entry i).ctx = h.context.toNat → (s.entry i).basin ∈ maskBasins h.mask →
        (t.entry i).st = .free) ∧ t.power = s.power ∧ t.time = s.time) ∧
  (∀ (s : State) (x : Session) (h : Hdr) (m : BitVec 32) (e : BitVec 16) (k : Byte) (id : BitVec 32), Starts s x h (.loadCut m e k id) →
    k.toNat ≤ 3 → (∀ b ∈ maskBasins h.mask, ((s.basin b).ctx h.context.toNat).exist = true ∧
      s.residency b h.context.toNat m.toNat e.toNat = .hot ∧ ((s.basin b).slot k.toNat).assigned = true ∧
      ((s.basin b).slot k.toNat).ctx.toNat = h.context.toNat ∧ (s.basin b).sliceId ≠ 0#16 ∧
      (s.cutPayload b h.context.toNat m.toNat e.toNat id.toNat).isSome = true ∧ s.slotBusy b k.toNat = false) →
    ∃ t, exec (.loadCut h m e k id) s = .next t ∧ Runs t h (.loadCut m e k id) ∧
      (∀ b ∈ maskBasins h.mask, (t.basin b).slot k.toNat = { (s.basin b).slot k.toNat with
        valid := false, filling := true, model := m.toNat, edition := e.toNat, cutId := id }) ∧
      (∀ b j, (b ∉ maskBasins h.mask ∨ j ≠ k.toNat) → (t.basin b).slot j = (s.basin b).slot j) ∧ UnitsKept s t) ∧
  (∀ (s : State) (x : Session) (h : Hdr) (l : List Byte), Starts s x h (.selectCut l) → l.length = 8 →
    (∀ b < 8, l[b]? ≠ some 0xFF#8 → b ∈ maskBasins h.mask ∧ ∃ v g, l[b]? = some v ∧ v.toNat < 4 ∧
      ((s.basin b).slot v.toNat).valid = true ∧ ((s.basin b).slot v.toNat).assigned = true ∧
      ((s.basin b).slot v.toNat).ctx.toNat = h.context.toNat ∧ (s.basin b).shareOf v.toNat = some g ∧ s.buffersFit b h.context.toNat g = true ∧ s.requestsFit b h.context.toNat g = true) →
    (∀ b ∈ maskBasins h.mask, (x.role = .tenant → (s.basin b).running = some h.context.toNat) ∧ (s.ordinal b).isSome = true ∧ s.oneCut (s.basin b).sliceId.toNat (fun a => match l[a]? with
      | some v => if v = 0xFF#8 then none else some v.toNat
      | none => none) = true) →
    ∃ t, exec (.selectCut h l) s = .next t ∧ Runs t h (.selectCut l) ∧
      (∃ new, t.selects = s.selects ++ new ∧ (∀ q ∈ new, q.session = h.session.toNat ∧ q.seq = h.seq.toNat ∧ q.bytes = l) ∧
        ∀ b ∈ maskBasins h.mask, ∃ q ∈ new, q.slice = (s.basin b).sliceId.toNat) ∧
      t.basins = s.basins ∧ t.man = s.man ∧ UnitsKept { s with fab := t.fab } t ∧
      (∀ b ∈ maskBasins h.mask, ∀ k, s.keeperOrdinal b = some k → s.ordinalHere (s.basin b).sliceId.toNat k = false →
        ∃ m ∈ t.msgs, m.src = b ∧ m.dest = .member (s.basin b).sliceId.toNat k ∧ ∃ o v, m.msg = .pendingItem o v)) ∧
  (∀ (s : State) (x : Session) (h : Hdr) (p : BalanceP) (id units first : Nat), Starts s x h (.setBalance p) → id ≠ 0 →
    (∀ b ∈ maskBasins h.mask, (s.basin b).sliceId.toNat = id) → (maskBasins h.mask).head? = some first →
    units = ((((s.localMembers id).filterMap fun b => (s.basin b).activeShare).head?).map (·.units)).getD 0 →
    p.minPrefill.toNat ≤ p.maxPrefill.toNat → p.maxPrefill.toNat < units → p.minPrefill ≠ 0 → 10000 ≤ p.evalTicks.toNat →
    p.evalTicks.toNat ≤ 100000000 →
    ∃ t, exec (.setBalance h p) s = .next t ∧ Replied t h .ok 1 1 [] ∧ t.man.entries = s.man.entries ∧ t.basins = s.basins ∧
      ((∀ o, s.keeperOrdinal first = some o → (s.localOfOrdinal id o).isSome = true) →
        (∃ b ∈ t.man.balance, b.sliceId = id ∧ b.pending = some p) ∧ UnitsKept s t) ∧
      (∀ o, s.keeperOrdinal first = some o → s.localOfOrdinal id o = none →
        ∃ m ∈ t.msgs, m.dest = .member id o ∧ m.msg = .balance p))

/-- SUBMIT and APPEND. SUBMIT takes an entry of its context's range and makes it a QUEUED request with its sampling fields, first budget and
token log (R335, R336, R446); APPEND adds the rest of a prompt, or opens the next turn of a request on hold (R339, R448). No other entry
changes. -/
def Obligations.SubmitAndAppendQueueRequests : Prop :=
  (∀ (s : State) (x : Session) (h : Hdr) (p : SubmitP) (b i : Nat), Starts s x h (.submit p) → maskBasins h.mask = [b] →
    submitParamsOk p = true → s.power.inputLow = false →
    (s.basin b).lenOk h.context.toNat (p.promptLen.toNat + p.genLimit.toNat) p.draftReq.toNat = true →
    (s.basin b).draftOk h.context.toNat (p.promptLen.toNat + p.genLimit.toNat) p.draftReq.toNat = true →
    s.takeEntry b h.context.toNat = some i →
    logPagesFor (p.promptLen.toNat + p.genLimit.toNat) ≤ (((s.releaseEntry i).basin b).ctx h.context.toNat).pagesFree →
    ∃ t e, exec (.submit h p) s = .next t ∧ t.entry i = e ∧ e.st = .queued ∧ e.session = h.session.toNat ∧
      e.requestId = p.requestId.toNat ∧ e.promptLen = p.promptLen.toNat ∧ e.genLimit = p.genLimit.toNat ∧ e.genLen = 0 ∧
      e.tSubmit = max s.now h.notBefore.toNat ∧ e.deadline = deadlineOf e.tSubmit p.firstBudget.toNat ∧
      e.firstBudget = p.firstBudget.toNat ∧ e.nextBudget = p.nextBudget.toNat ∧ e.holdTicks = p.holdTicks.toNat ∧
      e.draftReq = p.draftReq.toNat ∧ e.stopToken = p.stopToken.toNat ∧ e.basin = b ∧ e.ctx = h.context.toNat ∧
      e.priority = p.priority.toNat ∧ e.latePolicy = p.latePolicy.toNat ∧ e.hold = p.flags.getLsbD 0 ∧
      e.temperature = p.temperature ∧ e.topP = p.topP ∧ e.topK = p.topK.toNat ∧ e.log = p.tokens ∧ e.turnSeq = h.seq.toNat ∧
      Replied t h .ok p.tokens.length p.tokens.length (natBe 2 i ++ natBe 2 0 ++ natBe 4 p.tokens.length) ∧
      (∀ j, j ≠ i → t.entry j = s.entry j) ∧ UnitsKept s t) ∧
  (∀ (s : State) (x : Session) (h : Hdr) (p : AppendP) (e : Entry), Starts s x h (.append p) → 1 ≤ p.tokens.length →
    p.tokens.length ≤ 2048 → s.namedEntry h p.entry p.requestId = some e → e.st = .queued → p.genLimit = 0 → p.turnTokens = 0 →
    e.log.length + p.tokens.length ≤ e.promptLen →
    (s.basin e.basin).lenOk e.ctx (e.promptLen + e.genLimit) e.draftReq = true →
    ∃ t, exec (.append h p) s = .next t ∧ t.entry p.entry.toNat = { e with log := e.log ++ p.tokens } ∧
      Replied t h .ok p.tokens.length p.tokens.length (natBe 4 (e.log.length + p.tokens.length)) ∧
      (∀ j, j ≠ p.entry.toNat → t.entry j = s.entry j) ∧ (∀ b, b ≠ e.basin → t.basin b = s.basin b) ∧
      t.basin e.basin = { s.basin e.basin with dram := (t.basin e.basin).dram } ∧ UnitsKept s t) ∧
  (∀ (s : State) (x : Session) (h : Hdr) (p : AppendP) (e : Entry) (len : Nat), Starts s x h (.append p) → 1 ≤ p.tokens.length →
    p.tokens.length ≤ 2048 → s.namedEntry h p.entry p.requestId = some e → e.onHold = true → p.genLimit ≠ 0 →
    p.tokens.length ≤ p.turnTokens.toNat → len = e.promptLen + e.genLen + p.turnTokens.toNat →
    (s.basin e.basin).lenOk e.ctx (len + p.genLimit.toNat) e.draftReq = true →
    logPagesFor (len + p.genLimit.toNat) ≤ ((s.basin e.basin).ctx e.ctx).pagesFree + e.logPages →
    ∃ t f, exec (.append h p) s = .next t ∧ t.entry p.entry.toNat = f ∧ f.st = .queued ∧ f.promptLen = len ∧
      f.genLimit = p.genLimit.toNat ∧ f.genLen = 0 ∧ f.prefilled = e.promptLen + e.genLen - 1 ∧ f.tSubmit = s.now ∧
      f.deadline = deadlineOf s.now e.firstBudget ∧ f.log = e.log ++ p.tokens ∧ f.turnSeq = h.seq.toNat ∧
      Replied t h .ok p.tokens.length p.tokens.length (natBe 4 (e.log.length + p.tokens.length)) ∧
      (∀ j, j ≠ p.entry.toNat → t.entry j = s.entry j) ∧ UnitsKept s t)

/-- CANCEL, TOKENS and SET_DRAFT of a request that the session may name. CANCEL ends it with ABORTED, at once or with the step in flight
(R340, R449); TOKENS sends the tokens of the turn from a position again, up to nine in a delivery, and changes no request
(R421), unless a line of the token log fails its re-read (R254);
SET_DRAFT sets the requested draft length (R357). -/
def Obligations.RequestCommandsActOnTheNamedEntry : Prop :=
  (∀ (s : State) (x : Session) (h : Hdr) (i : BitVec 16) (r : BitVec 64) (e : Entry), Starts s x h (.cancel i r) →
    s.namedEntry h i r = some e → e.active = true → e.inStep = false → (∀ k ∈ e.cancelBy, s.runCmd k.1 k.2 = none) →
    ∃ t, exec (.cancel h i r) s = .next t ∧ (t.entry i.toNat).st = .done ∧ (t.entry i.toNat).status = .aborted ∧
      Replied t h .ok e.genLen (e.genLen + e.undelivered) [] ∧ (∀ j, j ≠ i.toNat → t.entry j = s.entry j) ∧ UnitsKept s t) ∧
  (∀ (s : State) (x : Session) (h : Hdr) (i : BitVec 16) (r : BitVec 64) (e : Entry), Starts s x h (.cancel i r) →
    s.namedEntry h i r = some e → e.active = true → e.inStep = true →
    ∃ t, exec (.cancel h i r) s = .next t ∧ t.entry i.toNat = { e with cancelBy := e.cancelBy ++ [(h.session.toNat, h.seq.toNat)] } ∧
      Runs t h (.cancel i r) ∧ (∀ j, j ≠ i.toNat → t.entry j = s.entry j) ∧ t.basins = s.basins ∧ UnitsKept s t) ∧
  (∀ (s : State) (x : Session) (h : Hdr) (i : BitVec 16) (r : BitVec 64) (p : BitVec 32) (e : Entry) (l : List (BitVec 32)),
    Starts s x h (.tokens i r p) → s.namedEntry h i r = some e → p.toNat ≤ e.genLen → l = e.turnTokensOut.drop p.toNat →
    (s.logStuck i.toNat (e.promptLen + p.toNat) (e.genLen - p.toNat) = true →
      ∃ t, exec (.tokens h i r p) s = .next t ∧ Replied t h .parityUnrecovered 0 0 []) ∧
    (s.logStuck i.toNat (e.promptLen + p.toNat) (e.genLen - p.toNat) = false →
    ∃ t, exec (.tokens h i r p) s = .next t ∧ Replied t h .ok l.length l.length [] ∧
      EndpointOnly { s with basins := t.basins } t ∧ (∀ b, t.basin b = { s.basin b with dram := (t.basin b).dram }) ∧
      ((s.session e.session).isSome = true → s.mgmt.warmDue = none → s.ep.pause = false → s.eth.st = 2#2 → s.eth.portReset = false →
        s.eth.pfcA.toNat ∉ s.eth.paused → ∀ j < (l.length + 8) / 9, ∃ q ∈ t.ep.sent, q.kind = .delivery ∧ q.opcode = 0x0604 ∧
          q.session = e.session ∧ q.seq = e.turnSeq ∧ q.body = natBe 2 i.toNat ++ natBe 2 4 ++ natBe 8 e.requestId ++
            natBe 4 (p.toNat + 9 * j) ++ natBe 2 ((l.drop (9 * j)).take 9).length ++ natBe 2 0 ++
            ((l.drop (9 * j)).take 9).flatMap fun t => natBe 4 t.toNat))) ∧
  (∀ (s : State) (x : Session) (h : Hdr) (i : BitVec 16) (d : Byte) (r : BitVec 64) (e : Entry), Starts s x h (.setDraft i d r) →
    d.toNat ≤ 8 → s.namedEntry h i r = some e → e.active = true →
    (s.basin e.basin).draftOk e.ctx (e.promptLen + e.genLimit) d.toNat = true →
    ∃ t, exec (.setDraft h i d r) s = .next t ∧ (t.entry i.toNat).draftReq = d.toNat ∧
      (t.entry i.toNat).draftLen = (if e.inStep then e.draftLen else if e.draftOff then 0 else d.toNat) ∧
      (t.entry i.toNat).st = e.st ∧ (t.entry i.toNat).log = e.log ∧ Replied t h .ok 1 1 [] ∧
      (∀ j, j ≠ i.toNat → t.entry j = s.entry j) ∧ t.basins = s.basins ∧ UnitsKept s t)

/-- Class 0x07. MANIFEST_READ answers with the 128 B of each entry, zero where the session may not address it (R330, R331);
MANIFEST_STATS answers with a body that begins with the turns of the named basins, and starts their turn
statistics anew (R350, R450). -/
def Obligations.ManifestCommandsReport : Prop :=
  (∀ (s : State) (x : Session) (h : Hdr) (first count : BitVec 16), Starts s x h (.manifestRead first count) → 1 ≤ count.toNat →
    count.toNat ≤ 64 → first.toNat + count.toNat ≤ 4096 → 128 * count.toNat ≤ paramCap h.carriage - 32 →
    ∃ t, exec (.manifestRead h first count) s = .next t ∧ EndpointOnly s t ∧
      Replied t h .ok count.toNat count.toNat ((List.range count.toNat).flatMap fun j =>
        if mayAddress x (s.entry (first.toNat + j)).basin (s.entry (first.toNat + j)).ctx then (s.entry (first.toNat + j)).bytes
        else List.replicate 128 0#8)) ∧
  (∀ (s : State) (x : Session) (h : Hdr), Starts s x h .manifestStats →
    ∃ t body, exec (.manifestStats h) s = .next t ∧ Replied t h .ok 1 1 body ∧
      body.take 4 = natBe 4 (((maskBasins h.mask).map fun b => ((s.basin b).ctx h.context.toNat).stats.turns).foldl (· + ·) 0) ∧
      (∀ b ∈ maskBasins h.mask, ((t.basin b).ctx h.context.toNat).stats = TurnStats.fresh) ∧ t.man = s.man ∧ UnitsKept s t)

/-! ### Rinzan commands: fabric, power and time, self-test, recovery -/

/-- Class 0x08. SET_ROUTES writes the device table and the position while no basin is SERVING (R381); LINK_STATE answers with the link
words and queues an admin value for the next tick; SET_SLICE gives a slice its member list and its local basins (R383, R451); SET_CHAIN
sets the weight chain of an open object (R291). -/
def Obligations.FabricCommandsConfigureTheDevice : Prop :=
  (∀ (s : State) (x : Session) (h : Hdr) (table : List (BitVec 32)) (position : Byte), Starts s x h (.setRoutes table position) →
    table.length = 128 → position.toNat ≤ 127 → table.all routeEntryOk = true → (∀ b < 8, (s.basin b).st.state ≠ .serving) →
    ∃ t, exec (.setRoutes h table position) s = .next t ∧ (∀ p < 128, Tbl.get DevEntry.fresh p t.fab.devTable = routeEntry ((table[p]?).getD 0)) ∧
      t.fab = { s.fab with devTable := t.fab.devTable, valid := true, position := position.setWidth 7 } ∧ Replied t h .ok 1 1 [] ∧
      EndpointOnly { s with fab := t.fab, flash := { s.flash with journal := s.flash.journal + 1 } } t) ∧
  (∀ (s : State) (x : Session) (h : Hdr) (link admin : Byte) (l : List Nat), Starts s x h (.linkState link admin) →
    (link.toNat ≤ 95 ∨ link = 0xFF#8) → (admin.toNat ≤ 3 ∨ admin = 0xFF#8) → l = (if link = 0xFF#8 then List.range 96 else [link.toNat]) →
    ∃ t, exec (.linkState h link admin) s = .next t ∧
      t.live = s.live ++ (if admin = 0xFF#8 then [] else l.map fun i => (0x02001000 + 16 * i, admin.setWidth 32, h.session.toNat)) ∧
      Replied t h .ok 1 1 (l.flatMap fun i =>
        ((List.range 3).flatMap fun k => natBe 4 ((s.fabWord (0x1000 + 16 * i + 4 * k)).getD 0)) ++ natBe 4 0) ∧
      EndpointOnly { s with live := t.live } t) ∧
  (∀ (s : State) (x : Session) (h : Hdr) (id : BitVec 16) (l : List (BitVec 16)), Starts s x h (.setSlice id l) →
    s.memberListOk l = true → (∀ m ∈ l.map memberOf, m.1 = s.fab.position.toNat → (s.basin m.2).stopped = true) →
    ∃ t, exec (.setSlice h id l) s = .next t ∧ Replied t h .ok 1 1 [] ∧ (id ≠ 0#16 → t.membersOf id.toNat = l.map memberOf) ∧
      (∀ m ∈ l.map memberOf, m.1 = s.fab.position.toNat → (t.basin m.2).sliceId = id) ∧
      (∀ b, (s.fab.position.toNat, b) ∉ l.map memberOf → t.basin b = s.basin b) ∧
      t.flash = { s.flash with journal := s.flash.journal + 1 } ∧ t.tiles = s.tiles ∧ t.man = s.man ∧ t.store = s.store ∧
      t.fab = { s.fab with members := t.fab.members }) ∧
  (∀ (s : State) (x : Session) (h : Hdr) (m : BitVec 32) (e : BitVec 16) (u d : Byte) (source : BitVec 64) (o : StoreObj),
    Starts s x h (.setChain m e u d source) → (u.toNat < 6 ∨ u.toNat = 0xFF) → (d.toNat < 6 ∨ d.toNat = 0xFF) →
    s.object m.toNat e.toNat = some o → o.committed = false →
    ∃ t, exec (.setChain h m e u d source) s = .next t ∧
      t.object m.toNat e.toNat = some { o with upstream := u.toNat, downstream := d.toNat, source := source.toNat } ∧
      Replied t h .ok 1 1 [] ∧ EndpointOnly { s with store := t.store } t)

/-- Class 0x09. SET_RAMP_PLAN replaces the plan and the safe cap (R453, R585), SET_CAP asks for a cap from the next tick (R585),
POWER_REPORT and TIME_STATUS report (R454, R575); each is a heartbeat where an OPERATOR session sends it, and none where a tenant does
(R589). -/
def Obligations.PowerCommandsSetAndReport : Prop :=
  (∀ (s : State) (x : Session) (h : Hdr) (safe : BitVec 16) (l : List PlanStepP), Starts s x h (.setRampPlan safe l) → l ≠ [] →
    l.length ≤ 64 → 260 ≤ safe.toNat → safe.toNat ≤ 1200 → risingStarts l = true → (∀ k ∈ l, capSlewOk k.cap.toNat k.slew.toNat = true) →
    ∃ t, exec (.setRampPlan h safe l) s = .next t ∧ t.power.safeCap = wattUnits safe.toNat ∧
      t.power.plan = (l.filter fun k => decide (s.now < k.start.toNat)).map (fun k => ⟨k.start.toNat, wattUnits k.cap.toNat, k.slew.toNat⟩) ∧
      (∀ k, (l.filter fun k => decide (k.start.toNat ≤ s.now)).getLast? = some k → t.power.target = wattUnits k.cap.toNat ∧
        t.power.slew = k.slew.toNat ∧ t.power.planSlew = k.slew.toNat) ∧
      t.power.heartbeat = s.now ∧ t.power.rmLost = false ∧ t.power.safe = false ∧ Replied t h .ok 1 1 [] ∧
      EndpointOnly { s with power := t.power } t) ∧
  (∀ (s : State) (x : Session) (h : Hdr) (cap slew : BitVec 16), Starts s x h (.setCap cap slew) → 260 ≤ cap.toNat → cap.toNat ≤ 1200 →
    (slew = 0#16 ∨ (5 ≤ slew.toNat ∧ slew.toNat ≤ 400)) →
    ∃ t, exec (.setCap h cap slew) s = .next t ∧
      t.power.capNext = some (wattUnits cap.toNat, if slew = 0#16 then s.power.planSlew else slew.toNat) ∧
      t.power.heartbeat = s.now ∧ t.power.rmLost = false ∧ t.power.safe = false ∧ t.power.plan = s.power.plan ∧
      Replied t h .ok 1 1 (natBe 2 (min (wattUnits cap.toNat) (s.settleCap.power.capAtTick (s.now + 1)) / 100000) ++ natBe 6 0) ∧
      EndpointOnly { s with power := t.power } t) ∧
  (∀ (s : State) (x : Session) (h : Hdr), Starts s x h .powerReport →
    ∃ t body, exec (.powerReport h) s = .next t ∧ Replied t h .ok 1 1 body ∧ body.take 8 = natBe 1 s.power.level.toNat ++ natBe 7 0 ∧
      (x.role = .tenant → body.length = 8 ∧ t.power = s.power) ∧
      (x.role = .operator → t.power.overrun = 0 ∧ t.power.heartbeat = s.now ∧ t.power.rmLost = false) ∧
      EndpointOnly { s with power := t.power } t) ∧
  (∀ (s : State) (x : Session) (h : Hdr), Starts s x h .timeStatus →
    ∃ t, exec (.timeStatus h) s = .next t ∧ Replied t h .ok 1 1 (natBe 8 s.now ++ natBe 1 s.time.source.toNat ++
        natBe 1 (bit s.time.locked) ++ natBe 2 0 ++ natBe 4 s.time.missed.toNat) ∧
      (x.role = .tenant → t.power = s.power) ∧ (x.role = .operator → t.power.heartbeat = s.now) ∧
      EndpointOnly { s with power := t.power } t)

/-- Classes 0x0A and 0x0B. The self-test policy waits for the next tick (R497) and the reports answer (R495, R500); FENCE closes the
named basins and drains them (R520, R456); RESET_BASIN has them reset (R537); WARM_RESET is due 1 ms later (R455); READMIT returns the
device or basins to service (R537); COMPLETION_QUERY tells what became of a command (R457, R528). -/
def Obligations.RecoveryCommandsFenceResetAndReadmit : Prop :=
  (∀ (s : State) (x : Session) (h : Hdr) (e f : Byte) (p : BitVec 16), Starts s x h (.bistPolicy e f p) → e.toNat ≤ 1 → f.toNat ≤ 1 →
    10 ≤ p.toNat → p.toNat ≤ 60 →
    ∃ t, exec (.bistPolicy h e f p) s = .next t ∧ t.mgmt.bistNext = some (e.getLsbD 0, f.getLsbD 0, p.toNat, e ++ f ++ p) ∧
      Replied t h .ok 1 1 [] ∧
      EndpointOnly { s with mgmt := { s.mgmt with bistNext := t.mgmt.bistNext }, flash := { s.flash with journal := s.flash.journal + 1 } } t) ∧
  (∀ (s : State) (x : Session) (h : Hdr), Starts s x h .bistReport → 544 * (maskBasins h.mask).length ≤ paramCap h.carriage - 32 →
    ∃ t, exec (.bistReport h) s = .next t ∧ EndpointOnly s t ∧
      Replied t h .ok (136 * (maskBasins h.mask).length) (136 * (maskBasins h.mask).length)
        ((maskBasins h.mask).flatMap fun b => (basinTiles b).flatMap fun i => natBe 4 ((s.tile i).maint.lastTest * 2 ^ 24 +
          (if (s.tile i).maint.lastTest = 3 then 0 else (s.now - (s.tile i).maint.testTick) / 100000000 % 2 ^ 24)))) ∧
  (∀ (s : State) (x : Session) (h : Hdr), Starts s x h .spareReport →
    ∃ t, exec (.spareReport h) s = .next t ∧ EndpointOnly s t ∧
      Replied t h .ok (4 * (maskBasins h.mask).length) (4 * (maskBasins h.mask).length)
        ((maskBasins h.mask).flatMap fun b => (List.range 4).flatMap fun j =>
          natBe 4 ((if 2 ≤ ((s.basin b).row j).failures then 2 ^ 31 else 0) + ((s.basin b).row j).word))) ∧
  (∀ (s : State) (x : Session) (h : Hdr), Starts s x h .fence → s.runCmd h.session.toNat h.seq.toNat = none →
    (∀ q ∈ s.selects, ¬ (q.session = h.session.toNat ∧ q.seq = h.seq.toNat)) →
    (∀ b ∈ maskBasins h.mask, s.fenceable b = true ∧ (s.basin b).st.state ≠ .offline) →
    ∃ t, exec (.fence h) s = .next t ∧ Runs t h .fence ∧ (∀ b ∈ maskBasins h.mask, (t.basin b).st.state = .fenced ∧
        (t.basin b).st.cause = .operator ∧ (t.basin b).st.draining = true ∧ (t.basin b).st.resetDue = false) ∧
      (∀ b, b ∉ maskBasins h.mask → (t.basin b).st = (s.basin b).st) ∧ t.power = s.power ∧ t.time = s.time) ∧
  (∀ (s : State) (x : Session) (h : Hdr), Starts s x h .resetBasin → s.runCmd h.session.toNat h.seq.toNat = none →
    (∀ q ∈ s.selects, ¬ (q.session = h.session.toNat ∧ q.seq = h.seq.toNat)) →
    (∀ b ∈ maskBasins h.mask, (s.basin b).st.state ≠ .retired ∧ (s.basin b).st.state ≠ .offline) →
    ∃ t, exec (.resetBasin h) s = .next t ∧ Runs t h .resetBasin ∧ (∀ b ∈ maskBasins h.mask, (t.basin b).st.resetDue = true ∧
        (s.fenceable b = true → (t.basin b).st.state = .fenced ∧ (t.basin b).st.cause = .operator)) ∧
      (∀ b, b ∉ maskBasins h.mask → (t.basin b).st = (s.basin b).st) ∧ t.power = s.power ∧ t.time = s.time) ∧
  (∀ (s : State) (x : Session) (h : Hdr), Starts s x h .warmReset →
    ∃ t, exec (.warmReset h) s = .next t ∧ t.mgmt.warmDue = some (s.now + 100000) ∧
      EndpointOnly { s with mgmt := { s.mgmt with warmDue := t.mgmt.warmDue } } t) ∧
  (∀ (s : State) (x : Session) (h : Hdr), Starts s x h (.readmit 1#8) → s.mgmt.oos = true →
    ((List.range 8).filter fun b => (s.basin b).st.state == .retired).length < 3 →
    ∃ t, exec (.readmit h 1#8) s = .next t ∧ t.mgmt.oos = false ∧ t.mgmt.failovers = [] ∧ t.pins.pgRun = true ∧
      Replied t h .ok 1 1 (perBasin 0#8 fun _ => 0) ∧ t.basins = s.basins ∧ t.tiles = s.tiles ∧ t.man = s.man) ∧
  (∀ (s : State) (x : Session) (h : Hdr), Starts s x h (.readmit 0#8) →
    (∀ b ∈ maskBasins h.mask, readmittable (s.basin b).st = true) →
    ∃ t, exec (.readmit h 0#8) s = .next t ∧ (∀ b ∈ maskBasins h.mask, (t.basin b).gen = nextGen (s.basin b).gen ∧
        ((s.basin b).st.state = .retired → (t.basin b).st.state = .ready ∧ (t.basin b).st.restoring = true ∧ (t.basin b).st.window = 0#8) ∧
        ((s.basin b).st.state = .fenced → (t.basin b).st.state = .ready ∨ (t.basin b).st.state = .serving)) ∧
      t.power = s.power ∧ t.time = s.time) ∧
  (∀ (s : State) (x : Session) (h : Hdr) (n : BitVec 16) (q : BitVec 32), Starts s x h (.completionQuery n q) →
    (∀ e ∈ s.ep.held, ¬ (e.hdr.session = n ∧ e.hdr.seq = q)) →
    ∃ t, exec (.completionQuery h n q) s = .next t ∧ EndpointOnly s t ∧
      (∀ r, s.runCmd n.toNat q.toNat = some r → Replied t h .ok 1 1 (if mayQuery x r.scope then
        natBe 2 (opcodeOf r.cmd) ++ natBe 1 1 ++ natBe 5 0 else natBe 8 0)) ∧
      (s.runCmd n.toNat q.toNat = none → (∀ k ∈ s.ep.kept, ¬ (k.session = n.toNat ∧ k.seq = q.toNat)) → Replied t h .ok 1 1 (natBe 8 0)) ∧
      (∀ k, s.runCmd n.toNat q.toNat = none → (s.ep.kept.reverse.find? fun k => k.session == n.toNat && k.seq == q.toNat) = some k →
        s.now < k.tick + 6000000000 → mayQuery x (k.ctx, k.basins) = true →
        Replied t h .ok 1 1 (natBe 2 k.opcode ++ natBe 1 2 ++ natBe 5 0 ++ k.reply.prefixBytes ++ k.reply.body)))

/-! ### Rinzan commands: firmware, identity, debug -/

/-- Class 0x0C. FW_STAGE holds a piece of an image, and verifies a whole one (R458, R544); FW_ACTIVATE of a verified image has it run:
at the next start-up, after the handover, at the lockages of its basins, or at the switch of the flash controller (R509, R512-R514);
FW_STATUS reports (R508). -/
def Obligations.FirmwareCommandsStageAndActivate : Prop :=
  (∀ (s : State) (x : Session) (h : Hdr) (i : Byte) (bytes off : BitVec 32) (data : List Byte),
    Starts s x h (.fwStage i bytes off data) → i.toNat ≤ 3 → off.toNat % 1024 = 0 → data ≠ [] → data.length ≤ 8192 →
    data.length % 1024 = 0 → off.toNat + data.length < bytes.toNat → (s.image i.toNat).st = .none → (s.image i.toNat).burning = false →
    ∃ t, exec (.fwStage h i bytes off data) s = .next t ∧ (t.image i.toNat).st = .staging ∧ (t.image i.toNat).bytes = bytes.toNat ∧
      (∀ j < data.length / 1024, (t.image i.toNat).held (off.toNat / 1024 + j) = (data.drop (1024 * j)).take 1024) ∧
      (∀ k, k ≠ i.toNat → t.image k = s.image k) ∧ Replied t h .ok (data.length / 1024) (data.length / 1024) (natBe 1 0 ++ natBe 7 0) ∧
      t.basins = s.basins ∧ t.tiles = s.tiles ∧ t.man = s.man) ∧
  (∀ (s : State) (x : Session) (h : Hdr) (i : Byte) (bytes : BitVec 32) (data : List Byte),
    Starts s x h (.fwStage i bytes 0 data) → i.toNat ≤ 3 → data.length ≤ 8192 → data.length = bytes.toNat → (s.image i.toNat).st = .none →
    (s.image i.toNat).burning = false → s.fwVerdict i.toNat data = .ok →
    ∃ t, exec (.fwStage h i bytes 0 data) s = .next t ∧ (t.image i.toNat).st = .verified ∧
      (t.image i.toNat).staged = shaNum (data.take 64) ∧ (t.image i.toNat).version = shardField data 8 4 ∧
      (t.image i.toNat).security = shardField data 7 1 ∧ (t.image i.toNat).running = (s.image i.toNat).running ∧
      (∀ k, k ≠ i.toNat → t.image k = s.image k) ∧ t.basins = s.basins ∧ t.tiles = s.tiles ∧ t.man = s.man) ∧
  (∀ (s : State) (x : Session) (h : Hdr) (i : Byte), Starts s x h (.fwActivate i) → i.toNat ≤ 3 → (s.image i.toNat).st = .verified →
    s.stillValid i.toNat = true → s.pins.recovery = false →
    (i = 2#8 → ∀ b ∈ maskBasins h.mask, (s.basin b).st.state ≠ .offline ∧ (s.basin b).st.state ≠ .retired ∧ (s.basin b).image = false) →
    ∃ t, exec (.fwActivate h i) s = .next t ∧ (t.image i.toNat).st = (if i = 0#8 then .pending else .activating) ∧
      (∀ k, k ≠ i.toNat → t.image k = s.image k) ∧ (i ≠ 0#8 → Runs t h (.fwActivate i)) ∧ (i = 1#8 → t.mgmt.activating = true) ∧
      (i = 2#8 → ∀ b ∈ maskBasins h.mask, if (s.basin b).sliceId = 0#16 then (t.basin b).imageArmed = true else (t.basin b).imageDue = some s.now) ∧
      (i ≠ 2#8 → t.basins = s.basins) ∧ t.tiles = s.tiles ∧ t.man = s.man) ∧
  (∀ (s : State) (x : Session) (h : Hdr), Starts s x h .fwStatus →
    ∃ t, exec (.fwStatus h) s = .next t ∧ EndpointOnly s t ∧ Replied t h .ok 1 1 ((List.range 4).flatMap fun i =>
      natBe 4 (s.image i).runVersion ++ natBe 4 (if (s.image i).st = .none then 0 else (s.image i).version) ++
        natBe 1 (s.image i).st.code ++ natBe 1 (s.image i).burned ++ natBe 6 0))

/-- Class 0x0D, from an open session or from none (R405, R559): ATTEST counts a report that begins with its nonce and goes out under the
attestation key (R555), IDENTITY gives a piece of the certificate chain under the identity key (R554). -/
def Obligations.IdentityCommandsAnswerUnderDeviceKeys : Prop :=
  (∀ (s : State) (h : Hdr) (cmd : HostCmd) (c : Instr), ((∃ nonce, cmd = .attest nonce ∧ c = .attest h nonce ∧ nonce.length = 32) ∨
      (∃ p, cmd = .identity p ∧ c = .identity h p ∧ (1024 * p.toNat < min Config.certLength 6144 ∨ p = 0#16))) →
    s.reaches h.carriage (opcodeOf cmd) = true → h.context.toNat ≤ 3 → h.mask = 0#8 →
    ((s.session h.session.toNat = none ∧ (s.now < s.ep.identTick + 100000000 → s.ep.identRate < 100)) ∨
      (∃ x, s.session h.session.toNat = some x ∧ s.cached x h.seq.toNat = none ∧ permitted s x h cmd = true ∧ h.notBefore.toNat ≤ s.now)) →
    ∃ t, exec c s = .next t ∧ EndpointOnly { s with sec := t.sec } t ∧
      t.sec = { s.sec with attests := s.sec.attests + (if opcodeOf cmd = 0x0D01 then 1 else 0), drbg := t.sec.drbg } ∧
      (h.carriage = .ethernet → s.mgmt.warmDue = none → h.priority.toNat ∉ s.eth.paused → ∃ q ∈ t.ep.sent, q.kind = .reply ∧
        q.opcode = opcodeOf cmd ∧ q.status = .ok ∧ q.seq = h.seq.toNat ∧ q.sign = (if opcodeOf cmd = 0x0D01 then 2 else 1) ∧
        (∀ nonce, cmd = .attest nonce → q.body.take 32 = nonce) ∧
        (∀ p, cmd = .identity p → q.body = natBe 2 (min Config.certLength 6144) ++ natBe 2 p.toNat ++
          (List.range (min 1024 (min Config.certLength 6144 - 1024 * p.toNat))).map fun i => Config.certByte (1024 * p.toNat + i))))

/-- Classes 0x0E and 0x0F. TRACE_CONFIG sets what is recorded and arms or stops it (R612-R614); TRACE_READ, DUMP_READ and COUNTERS_READ
return bytes and change nothing (R611, R531, R87); PERTURB_SET and PERTURB_CLEAR name slots for the next tick (R616). -/
def Obligations.DebugCommandsTraceReadAndPerturb : Prop :=
  (∀ (s : State) (x : Session) (h : Hdr) (a g f : BitVec 32), Starts s x h (.traceConfig a g f) → a.toNat / 2 ^ 9 % 2 ^ 15 = 0 →
    (g = 0xFFFFFFFF#32 ∨ g.toNat / 2 ^ 28 ≤ 8) → f.toNat < 8 →
    ∃ t, exec (.traceConfig h a g f) s = .next t ∧ t.trace.sources = a.setWidth 16 ∧ t.trace.basins = BitVec.ofNat 8 (a.toNat / 2 ^ 24) ∧
      t.trace.trigger = g ∧ t.trace.wrap = f.getLsbD 2 ∧
      t.trace.armed = (!f.getLsbD 1 && (f.getLsbD 0 || s.trace.armed)) ∧
      t.trace.recording = (if f.getLsbD 0 || f.getLsbD 1 then [] else s.trace.recording) ∧
      t.trace.buf = (if f.getLsbD 0 then [] else s.trace.buf) ∧ Replied t h .ok 1 1 [] ∧ EndpointOnly { s with trace := t.trace } t) ∧
  (∀ (s : State) (x : Session) (h : Hdr) (o k : BitVec 32), Starts s x h (.traceRead o k) → 1 ≤ k.toNat → k.toNat ≤ 8192 →
    k.toNat ≤ paramCap h.carriage - 32 → o.toNat % 0x100000 + k.toNat ≤ 0x100000 → o.toNat + k.toNat ≤ 0x800000 →
    ∃ t, exec (.traceRead h o k) s = .next t ∧ EndpointOnly s t ∧
      Replied t h .ok k.toNat k.toNat (traceSlice s (o.toNat / 0x100000) (o.toNat % 0x100000) k.toNat)) ∧
  (∀ (s : State) (x : Session) (h : Hdr) (d o k : BitVec 32) (r : Dump), Starts s x h (.dumpRead d o k) → 1 ≤ k.toNat → k.toNat ≤ 8192 →
    k.toNat + 40 ≤ paramCap h.carriage →
    (if d = 0#32 then s.dumps.retention.head? else (s.dumps.flash.drop (d.toNat - 1)).head?) = some r →
    ∃ t, exec (.dumpRead h d o k) s = .next t ∧ EndpointOnly s t ∧
      Replied t h .ok ((r.encode.drop o.toNat).take k.toNat).length ((r.encode.drop o.toNat).take k.toNat).length
        (natBe 4 r.bytes ++ natBe 4 0 ++ (r.encode.drop o.toNat).take k.toNat)) ∧
  (∀ (s : State) (x : Session) (h : Hdr) (kind : Byte) (first count : BitVec 16), Starts s x h (.countersRead kind first count) →
    kind.toNat ≤ 1 → 1 ≤ count.toNat → count.toNat ≤ 256 → first.toNat + count.toNat ≤ (if kind = 0#8 then 1088 else 96) →
    32 * count.toNat ≤ paramCap h.carriage - 32 →
    ∃ t, exec (.countersRead h kind first count) s = .next t ∧ EndpointOnly s t ∧
      Replied t h .ok count.toNat count.toNat ((List.range count.toNat).flatMap fun i => if kind = 0#8 then
          ((List.range 7).flatMap fun j => natBe 4 ((s.tile (first.toNat + i)).cnt.word j).toNat) ++ natBe 4 0
        else ((List.range 3).flatMap fun j => natBe 4 ((s.fabWord (0x1000 + 16 * (first.toNat + i) + 4 * j)).getD 0)) ++ natBe 20 0)) ∧
  (∀ (s : State) (x : Session) (h : Hdr) (kind slot : Byte) (target amount ms : BitVec 32),
    Starts s x h (.perturbSet kind slot target amount ms) → slot.toNat ≤ 15 → perturbOk kind.toNat target.toNat amount.toNat = true →
    ∃ t, exec (.perturbSet h kind slot target amount ms) s = .next t ∧ Replied t h .ok 1 1 [] ∧
      t.ptbNext = s.ptbNext ++ [(slot.toNat, { Perturb.fresh with
        active := true, kind := kind, session := h.session, target := target, amount := amount, left := if ms = 0#32 then 0xFFFFFFFF#32 else ms })] ∧ EndpointOnly { s with ptbNext := t.ptbNext } t) ∧
  (∀ (s : State) (x : Session) (h : Hdr) (slot : Byte) (l : List Nat), Starts s x h (.perturbClear slot) →
    (slot.toNat ≤ 15 ∨ slot = 0xFF#8) → l = (if slot = 0xFF#8 then List.range 16 else [slot.toNat]) →
    ∃ t n, exec (.perturbClear h slot) s = .next t ∧ n = (l.filter fun i => (s.perturb i).active).length ∧ Replied t h .ok n n [] ∧
      t.ptbNext = s.ptbNext ++ l.map (fun i => (i, Perturb.fresh)) ∧ EndpointOnly { s with ptbNext := t.ptbNext } t)

/-! ### State words with a row of their own, and the debug port -/

/-- Words of basins and tiles: a locked word is written while its block is stopped (R8, R622), a staged word is DEFERRED (R9), a live
word waits for the next tick (R6), each with the checks of its own rule (R87, R196, R233, R468, R487). -/
def Obligations.BlockWordsAreWrittenByTheirClass : Prop :=
  (∀ (s : State) (x : Session) (h : Hdr) (i : TileId) (v : BitVec 32) (a : Nat), a = 0x06000000 + i.val * 0x1000 + 0x11C →
    Starts s x h (.writeState (BitVec.ofNat 32 a) [v]) → v.toNat ≤ 1 →
    ∃ t, exec (.arithClear h i v) s = .next t ∧ t.live = s.live ++ [(a, v, h.session.toNat)] ∧ Replied t h .ok 1 1 (natBe 2 0) ∧
      EndpointOnly { s with live := t.live } t) ∧
  (∀ (s : State) (x : Session) (h : Hdr) (b : BasinId) (v : BitVec 32),
    Starts s x h (.writeState (BitVec.ofNat 32 (basinBase b + 0x40)) [v]) → v &&& 0xFFFC#32 = 0#32 → (s.basin b.val).stopped = true →
    ∃ t, exec (.sliceIdWrite h b v) s = .next t ∧ (t.basin b.val).sliceId = BitVec.ofNat 16 (v.toNat / 2 ^ 16) ∧
      (∀ j, j ≠ b.val → t.basin j = s.basin j) ∧ t.flash = { s.flash with journal := s.flash.journal + 1 } ∧
      Replied t h .ok 1 1 (natBe 2 0) ∧ EndpointOnly { s with basins := t.basins, fab := t.fab, flash := t.flash } t) ∧
  (∀ (s : State) (x : Session) (h : Hdr) (b : BasinId) (c : CtxId) (v : BitVec 32),
    Starts s x h (.writeState (BitVec.ofNat 32 (basinBase b + 0x100 + 4 * c.val)) [v]) → v.toNat < 65536 →
    ((s.basin b.val).ctx c.val).exist = true → s.capOk b.val c.val v.toNat = true →
    ∃ t, exec (.slcCapWrite h b c v) s = .next t ∧ t.basin b.val = stage (s.basin b.val) (0x100 + 4 * c.val) v s.now ∧
      (∀ j, j ≠ b.val → t.basin j = s.basin j) ∧ Replied t h .deferred 1 1 (natBe 2 Status.deferred.code) ∧
      EndpointOnly { s with basins := t.basins, fab := t.fab, msgs := t.msgs, freeCtr := t.freeCtr } t ∧ (keeperHere s b.val → t.fab = s.fab ∧ t.msgs = s.msgs)) ∧
  (∀ (s : State) (x : Session) (h : Hdr) (b : BasinId) (c : CtxId) (v : BitVec 32),
    Starts s x h (.writeState (BitVec.ofNat 32 (basinBase b + 0x210 + 4 * c.val)) [v]) → v.toNat < 65536 →
    ((s.basin b.val).ctx c.val).exist = true → s.waysOk b.val c.val v = true →
    ∃ t, exec (.lcWaysWrite h b c v) s = .next t ∧ t.basin b.val = stage (s.basin b.val) (0x210 + 4 * c.val) v s.now ∧
      (∀ j, j ≠ b.val → t.basin j = s.basin j) ∧ t.flash = { s.flash with journal := s.flash.journal + 1 } ∧
      Replied t h .deferred 1 1 (natBe 2 Status.deferred.code) ∧
      EndpointOnly { s with basins := t.basins, flash := t.flash, fab := t.fab, msgs := t.msgs, freeCtr := t.freeCtr } t ∧
      (keeperHere s b.val → t.fab = s.fab ∧ t.msgs = s.msgs)) ∧
  (∀ (s : State) (x : Session) (h : Hdr) (b : BasinId) (c : CtxId) (v : BitVec 32) (a : Nat), a = basinBase b + 0x400 + 4 * c.val →
    Starts s x h (.writeState (BitVec.ofNat 32 a) [v]) → v &&& 0xE000F000#32 = 0#32 →
    ((s.basin b.val).ctx c.val).exist = true → v.toNat % 4096 + v.toNat / 65536 ≤ 4096 →
    State.rangeMeets (v.toNat % 4096) (v.toNat / 65536) (s.otherRanges b.val c.val) = false →
    (∀ e ∈ s.man.entries, e.2.st ≠ .free → e.2.basin = b.val → e.2.ctx = c.val →
      v.toNat % 4096 ≤ e.1 ∧ e.1 < v.toNat % 4096 + v.toNat / 65536) →
    ∃ t, exec (.manCtxWrite h b c v) s = .next t ∧ t.live = s.live ++ [(a, v, h.session.toNat)] ∧
      t.flash = { s.flash with journal := s.flash.journal + 1 } ∧ Replied t h .ok 1 1 (natBe 2 0) ∧
      EndpointOnly { s with live := t.live, flash := t.flash } t) ∧
  (∀ (s : State) (x : Session) (h : Hdr) (b : BasinId) (v : BitVec 32),
    Starts s x h (.writeState (BitVec.ofNat 32 (basinBase b + 0x80)) [v]) → v.toNat ≤ 198 →
    ∃ t, exec (.dredgePhaseWrite h b v) s = .next t ∧ t.basin b.val = stage (s.basin b.val) 0x80 v s.now ∧
      (∀ j, j ≠ b.val → t.basin j = s.basin j) ∧ Replied t h .deferred 1 1 (natBe 2 Status.deferred.code) ∧
      EndpointOnly { s with basins := t.basins, flash := { s.flash with journal := s.flash.journal + 1 }, fab := t.fab, msgs := t.msgs, freeCtr := t.freeCtr } t ∧
      (keeperHere s b.val → t.fab = s.fab ∧ t.msgs = s.msgs))

/-- Words of the device: ETH_CTL waits for the next tick (R399); a read of TIM_NOW_LO latches TIM_NOW_HI (R575); PTB_AUTH_CTL waits for the tick
likewise, and draws a challenge or revokes the session's authorization there; the write of the last response word verifies, and the authorization holds from
the tick (R561-R563). -/
def Obligations.DeviceWordsResetLatchAndAuthorize : Prop :=
  (∀ (s : State) (x : Session) (h : Hdr) (v : BitVec 32), Starts s x h (.writeState 0x03000004#32 [v]) → v.toNat ≤ 1 →
    ∃ t, exec (.portResetWrite h v) s = .next t ∧ t.live = s.live ++ [(0x03000004, v, h.session.toNat)] ∧ Replied t h .ok 1 1 (natBe 2 0) ∧
      EndpointOnly { s with live := t.live } t) ∧
  (∀ (s : State) (x : Session) (h : Hdr), Starts s x h (.readState 0x00100008#32 1#16) →
    ∃ t, exec (.timNowLatch h) s = .next t ∧ t.time = { s.time with latchHi := BitVec.ofNat 32 (s.now / 2 ^ 32) } ∧
      Replied t h .ok 1 1 (natBe 4 (s.now % 2 ^ 32)) ∧ EndpointOnly { s with time := t.time } t) ∧
  (∀ (s : State) (x : Session) (h : Hdr), Starts s x h (.writeState 0x0F00F000#32 [1#32]) →
    ∃ t, exec (.authChallenge h) s = .next t ∧ t.live = s.live ++ [(0x0F00F000, 1#32, h.session.toNat)] ∧ Replied t h .ok 1 1 (natBe 2 0) ∧
      EndpointOnly { s with live := t.live } t) ∧
  (∀ (s : State) (n : Nat), s.live = [(0x0F00F000, 1#32, n)] →
    ∃ l, Tbl.get none n s.liveTick.sec.challenges = some (l, s.now) ∧ l.length = 32 ∧
      s.liveTick = { s with live := [], sec := { s.sec with challenges := s.liveTick.sec.challenges, drbg := s.liveTick.sec.drbg } }) ∧
  (∀ (s : State) (x : Session) (h : Hdr), Starts s x h (.writeState 0x0F00F000#32 [2#32]) →
    ∃ t, exec (.authRevoke h) s = .next t ∧ t.live = s.live ++ [(0x0F00F000, 2#32, h.session.toNat)] ∧ Replied t h .ok 1 1 (natBe 2 0) ∧
      EndpointOnly { s with live := t.live } t) ∧
  (∀ (s : State) (n : Nat), s.live = [(0x0F00F000, 2#32, n)] →
    s.liveTick.authOf n = none ∧
      ((s.authOf n).isSome = true → ∀ i < 16, (s.liveTick.perturb i).active = true → (s.liveTick.perturb i).session.toNat ≠ n) ∧
      s.liveTick = { s with live := [], sec := s.liveTick.sec, ptb := s.liveTick.ptb, ptbNext := s.liveTick.ptbNext }) ∧
  (∀ (s : State) (x : Session) (h : Hdr) (v : BitVec 32) (c : List Byte × Tick) (sig : List Byte),
    Starts s x h (.writeState 0x0F00F27C#32 [v]) → Tbl.get none h.session.toNat s.sec.challenges = some c → s.now ≤ c.2 + 6000000000 →
    sig = ((List.range 95).flatMap fun j => natLe 4 (Tbl.get 0#32 (96 * h.session.toNat + j) s.sec.resp).toNat) ++ natLe 4 v.toNat →
    ∃ t, exec (.authResponse h v) s = .next t ∧ t.live = s.live ++ [(0x0F00F27C, v, h.session.toNat)] ∧ t.respBytes h.session.toNat = sig ∧
      ((s.signer sig (c.1 ++ natBe 2 h.session.toNat ++ s.identityDigest)).isSome = true → Replied t h .ok 1 1 (natBe 2 0)) ∧
      (s.signer sig (c.1 ++ natBe 2 h.session.toNat ++ s.identityDigest) = none →
        Replied t h .notPermitted 0 1 (natBe 2 Status.notPermitted.code)) ∧
      EndpointOnly { s with live := t.live, sec := { s.sec with resp := t.sec.resp } } t) ∧
  (∀ (s : State) (n : Nat) (v : BitVec 32) (c : List Byte × Tick), s.live = [(0x0F00F27C, v, n)] → Tbl.get none n s.sec.challenges = some c →
    s.now ≤ c.2 + 6000000000 →
    (∀ k, s.signer (s.respBytes n) (c.1 ++ natBe 2 n ++ s.identityDigest) = some k → s.liveTick.authOf n = some k) ∧
      (s.signer (s.respBytes n) (c.1 ++ natBe 2 n ++ s.identityDigest) = none → s.liveTick.authOf n = s.authOf n ∧
        Tbl.get none n s.liveTick.sec.challenges = none) ∧
      s.liveTick = { s with live := [], sec := { s.sec with challenges := s.liveTick.sec.challenges, auths := s.liveTick.sec.auths } })

/-- The debug port, identity and debug timers: OPERATOR_KEY programs or revokes a slot (R552, R553); AUTH draws a challenge or verifies the
port's response (R562); EXTEST fences every basin that is up (R602); a challenge expires after 60 s, the DRBGs reseed (R560), fuses
burn (R549, R550), and a perturbation ends with its duration (R616). -/
def Obligations.DebugPortAndKeyEvents : Prop :=
  (∀ (s : State) (modulus : List Byte), s.sec.opProg = 0#4 → modulus.length = 384 →
    ∃ t, exec (.operatorKey 0 false modulus) s = .next t ∧ t.sec.opProg = 1#4 ∧ Tbl.get 0#256 0 t.sec.opHash = shaNum modulus ∧
      Tbl.get [] 0 t.sec.opStored = modulus ∧ t = { s with sec := { s.sec with
        opProg := t.sec.opProg, opHash := t.sec.opHash, opStored := t.sec.opStored } }) ∧
  (∀ (s : State) (k : Fin 4) (revoke : Bool) (modulus : List Byte), s.sec.opProg ≠ 0#4 → s.authOf 0xFFFF = none →
    exec (.operatorKey k revoke modulus) s = .next s) ∧
  (∀ (s : State) (k : Fin 4) (modulus : List Byte), s.sec.opProg ≠ 0#4 → (s.authOf 0xFFFF).isSome = true →
    s.sec.opProg &&& ~~~(s.sec.opRev ||| BitVec.ofNat 4 (2 ^ k.val)) ≠ 0#4 →
    exec (.operatorKey k true modulus) s =
      .next { s with sec := { s.sec with opRev := s.sec.opRev ||| BitVec.ofNat 4 (2 ^ k.val) } }) ∧
  (∀ (s : State), ∃ t l, exec (.auth .challenge) s = .next t ∧ Tbl.get none 0xFFFF t.sec.challenges = some (l, s.now) ∧ l.length = 32 ∧
    t = { s with sec := { s.sec with challenges := t.sec.challenges, drbg := t.sec.drbg } }) ∧
  (∀ (s : State) (sig : List Byte) (k : Fin 4) (c : List Byte × Tick), Tbl.get none 0xFFFF s.sec.challenges = some c →
    s.now ≤ c.2 + 6000000000 → s.signer sig (c.1 ++ natBe 2 0xFFFF ++ s.identityDigest) = some k → exec (.auth (.response sig)) s =
      .next { s with sec := { s.sec with auths := Tbl.set none 0xFFFF (some k) s.sec.auths } }) ∧
  (∀ (s : State), (s.sec.opProg = 0#4 ∨ (s.authOf 0xFFFF).isSome = true) →
    ∃ t, exec .extest s = .next t ∧ t.pins.extest = true ∧ (∀ b < 8, s.fenceable b = true → (s.basin b).st.state ≠ .offline →
      (t.basin b).st.state = .fenced ∧ (t.basin b).st.cause = .operator) ∧ t.power = s.power ∧ t.time = s.time) ∧
  (∀ (s : State) (n : BitVec 16) (c : List Byte × Tick), Tbl.get none n.toNat s.sec.challenges = some c → c.2 + 6000000000 < s.now →
    exec (.challengeExpiry n) s =
      .next { s with sec := { s.sec with challenges := Tbl.set none n.toNat none s.sec.challenges } }) ∧
  (∀ (s : State), ∃ t, exec (.drbgReseed true) s = .next t ∧
    (∀ b < 8, t.basin b = { s.basin b with drbg := (t.basin b).drbg } ∧
      ((s.basin b).drbg.key ≠ [] → (t.basin b).drbg.requests = 1) ∧ ((s.basin b).drbg.key = [] → (t.basin b).drbg = (s.basin b).drbg)) ∧
    t = { s with sec := { s.sec with drbg := t.sec.drbg, entropyFails := 0, entropyFlag := false },
                 basins := t.basins, freeCtr := s.freeCtr + 1 }) ∧
  (∀ (s : State), ∃ t, exec (.drbgReseed false) s = .next t ∧ (s.sec.entropyFails = 2 → t.sec.entropyFlag = true) ∧
    t = { s with sec := { s.sec with entropyFails := s.sec.entropyFails + 1, entropyFlag := t.sec.entropyFlag } }) ∧
  (∀ (s : State) (i : Fin 4), (s.image i.val).burning = true →
    ∃ t, exec (.fuseBurnComplete i) s = .next t ∧ (t.image i.val).burned = max (s.image i.val).burned (s.image i.val).security ∧
      (t.image i.val).burning = false ∧ (t.image i.val).st = .none ∧ (i.val = 2 → ∀ b < 8, (t.basin b).image = false) ∧
      t.sec.vendorRev = (if (s.image i.val).revokeLower then s.sec.vendorRev ||| lowerSlots (s.image i.val).vendorSlot else s.sec.vendorRev) ∧
      (∀ k, k ≠ i.val → t.image k = s.image k) ∧ t.tiles = s.tiles ∧ t.man = s.man) ∧
  (∀ (s : State) (i : Fin 16), (s.perturb i.val).active = true → (s.perturb i.val).left ≠ 0xFFFFFFFF#32 →
    (s.perturb i.val).since + (s.perturb i.val).left.toNat * 100000 ≤ s.now →
    exec (.perturbExpiry i) s = .next (s.setPerturb i.val Perturb.fresh))

/-! ### The endpoint -/

/-- A packet on either carriage: what fails its format gets an unauthenticated BAD_FORMAT (R406, R408); one of an open session whose MAC is
correct is the command that its parameters spell (R406, R430), and one whose parameters have no layout of its opcode is a malformed
command. An Ethernet frame for the Rinzan port carries one; a neighbour solicitation for the device is answered (R396). -/
def Obligations.PacketsBecomeCommands : Prop :=
  (∀ (s : State) (x : Session) (c : Carriage) (p : BitVec 3) (peer : Peer) (l : List Byte) (h : Hdr) (cmd : HostCmd),
    h = parseHdr l c p peer → cmd = (if opcodeKnown (fld l 2 2) then
      (parseCmd (fld l 2 2) ((l.drop 32).take (fld l 20 2))).getD (.malformed (BitVec.ofNat 16 (fld l 2 2)) ((l.drop 32).take (fld l 20 2)))
      else .malformed (BitVec.ofNat 16 (fld l 2 2)) ((l.drop 32).take (fld l 20 2))) →
    s.reaches c (fld l 2 2) = true → s.unclaimedDrops cmd = false → formatOk l c = true →
    classOf (fld l 2 2) ≠ 13 → h.session ≠ 0#16 → s.session h.session.toNat = some x → State.keySpent x (fld l 2 2) = false →
    macOk x.key l = true →
    exec (.rinzanPacket c p peer l) s = .next (s.inSession h cmd) ∧
      (c = .i3c → p = 0#3 → peer = ⟨0, 0⟩ → exec (.i3cPrivateWrite l) s = .next (s.inSession h cmd)) ∧
      (∀ (length : Nat) (vlan : Option (BitVec 12)) (target : BitVec 128), s.oursAny target = true → c = .ethernet → s.eth.st = 2#2 → s.eth.portReset = false → length ≤ 9216 →
        (s.eth.vlanEn = true → ∀ id, vlan = some id → id = s.eth.vlanId) →
        Tbl.get 0 (s.bufferOf p).1 s.eth.levels + length ≤ (s.bufferOf p).2 →
        exec (.ethFrame length vlan p (.rinzan l false 47104 target peer)) s = .next (s.inSession h cmd))) ∧
  (∀ (s : State) (c : Carriage) (p : BitVec 3) (peer : Peer) (l : List Byte), s.reaches c (fld l 2 2) = true → s.sec.opProg ≠ 0#4 →
    formatOk l c = false → exec (.rinzanPacket c p peer l) s =
      .next (s.unauthReply c p.toNat peer (fld l 2 2) (fld l 4 2 % 2 ^ 16) (fld l 8 4 % 2 ^ 32) .badFormat)) ∧
  (∀ (s : State) (length : Nat) (p : BitVec 3) (target source : BitVec 128) (mac : BitVec 48), s.eth.st = 2#2 →
    s.eth.portReset = false → length ≤ 9216 → Tbl.get 0 (s.bufferOf p).1 s.eth.levels + length ≤ (s.bufferOf p).2 →
    s.ours6 target = true →
    ∃ t, exec (.ethFrame length none p (.neighbourSolicitation target source mac)) s = .next t ∧
      t.eth.answers = s.eth.answers ++ [.advertisement target source mac] ∧ (source.toNat, mac.toNat) ∈ t.eth.neighbours ∧
      t = { s with eth := { s.eth with answers := t.eth.answers, neighbours := t.eth.neighbours } })

/-- Flow control and the I3C queue: XOFF at 2 MiB and XON below 1 MiB of a buffer of pfc_a or pfc_b (R398); a paused priority holds its
packets; a private read takes the oldest packet and leaves ALERT_N high over an empty queue (R426). -/
def Obligations.PortFlowControlAndQueue : Prop :=
  (∀ (s : State) (p : BitVec 3) (level : Nat), (p = s.eth.pfcA ∨ p = s.eth.pfcB) → s.eth.pfcEn = true →
    ∃ t, exec (.pfcThreshold p level) s = .next t ∧ Tbl.get 0 p.toNat t.eth.levels = level ∧ (0x200000 ≤ level → p.toNat ∈ t.eth.xoff) ∧
      (level < 0x100000 → p.toNat ∉ t.eth.xoff) ∧ (0x100000 ≤ level → level < 0x200000 → t.eth.xoff = s.eth.xoff) ∧
      (∀ j, j ≠ p.toNat → (j ∈ t.eth.xoff ↔ j ∈ s.eth.xoff)) ∧
      t = { s with eth := { s.eth with levels := t.eth.levels, xoff := t.eth.xoff } }) ∧
  (∀ (s : State) (p : BitVec 3), (p = s.eth.pfcA ∨ p = s.eth.pfcB) → s.eth.pfcEn = true →
    ∃ t u, exec (.pfcPause p true) s = .next t ∧ p.toNat ∈ t.eth.paused ∧ t = { s with eth := { s.eth with paused := t.eth.paused } } ∧
      exec (.pfcPause p false) s = .next u ∧ p.toNat ∉ u.eth.paused ∧ (s.ep.pause = false →
        ∀ q ∈ u.ep.waiting, q.carriage = .ethernet → q.priority ≠ p.toNat) ∧
      EndpointOnly { s with eth := { s.eth with paused := u.eth.paused } } u) ∧
  (∀ (s : State) (q : Pkt) (l : List Pkt), s.ep.i3c = q :: l →
    exec .i3cPrivateRead s = .next { s with
      ep := { s.ep with i3c := l, sent := s.ep.sent ++ [q] }, pins := { s.pins with alertN := l.isEmpty } })

/-- Timers of the endpoint: a held command starts at its not-before (R404), a command that runs out of time is answered or fences its
basins (R516, Table 15.9), a tenant's own timeout ends its wait alone (R517), and sessions, old keys and kept replies expire (R413, R415,
R420, R457). -/
def Obligations.EndpointTimersExpire : Prop :=
  (∀ (s : State) (x : Session) (e : Held), s.ep.held = [e] → e.hdr.notBefore.toNat ≤ s.now → e.owner = some x →
    exec .notBeforeReached s = .next ({ s with ep := { s.ep with held := [] } }.start x e.hdr e.cmd true)) ∧
  (∀ (s : State) (e : Held) (cipher sig : List Byte) (p : KeyPlain), s.ep.held = [e] → e.hdr.notBefore.toNat ≤ s.now → e.owner = none →
    e.cmd = .openSession cipher sig → s.unwrap cipher = some p →
    exec .notBeforeReached s = .next ({ s with ep := { s.ep with held := [] } }.openSession e.hdr e.cmd cipher sig p)) ∧
  (∀ (s : State), ∃ t, exec .notBeforeReached s = .next t ∧ ∀ e ∈ t.ep.held, e ∈ s.ep.held ∧ s.now < e.hdr.notBefore.toNat) ∧
  (∀ (s : State) (n : BitVec 16) (q : BitVec 32) (r : RunCmd), s.runCmd n.toNat q.toNat = some r → r.deadline ≤ s.now →
    classOf (opcodeOf r.cmd) ≠ 6 →
    ∃ t, exec (.commandTimeout n q) s = .next t ∧
      (r.mask = 0#8 → t.runCmd n.toNat q.toNat = none ∧ (classOf (opcodeOf r.cmd) ∉ [2, 7, 13, 14] → KeptReply t r.hdr .timedOut) ∧
        t.basins = s.basins ∧ t.tiles = s.tiles ∧ t.man = s.man) ∧
      (∀ b ∈ maskBasins (r.mask &&& ~~~r.doneMask), s.fenceable b = true → (s.basin b).st.state ≠ .offline →
        (t.basin b).st.state = .fenced ∧ (t.basin b).st.cause = .commandTimeout ∧ (t.basin b).st.resetDue = true)) ∧
  (∀ (s : State) (n : BitVec 16) (q : BitVec 32) (r : RunCmd) (d : Tick), s.runCmd n.toNat q.toNat = some r → r.shortDeadline = some d →
    d ≤ s.now → r.waitOver = false →
    ∃ t, exec (.shortTimeout n q) s = .next t ∧ (∃ k ∈ t.ep.running, k = { r with waitOver := true }) ∧ EndpointOnly s t) ∧
  (∀ (s : State) (n : BitVec 16) (x : Session), s.session n.toNat = some x → x.lastTick + 360000000000 ≤ s.now →
    (∀ e ∈ s.man.entries, e.2.session = n.toNat → e.2.active = false) →
    ∃ t, exec (.sessionIdle n) s = .next t ∧ t.session n.toNat = none ∧ (∀ m, m ≠ n.toNat → t.session m = s.session m) ∧
      EndpointOnly { s with sec := t.sec, ptb := t.ptb, ptbNext := t.ptbNext } t) ∧
  (∀ (s : State) (n : BitVec 16) (x : Session) (o : OldKey), s.session n.toNat = some x → x.oldKey = some o → o.until_ ≤ s.now →
    ∃ t, exec (.oldKeyExpiry n) s = .next t ∧ t.session n.toNat = some { x with oldKey := none } ∧ EndpointOnly s t) ∧
  (∀ (s : State) (n : BitVec 16) (q : BitVec 32) (x : Session), s.session n.toNat = some x →
    ∃ t y, exec (.replyCacheExpiry n q) s = .next t ∧ t.session n.toNat = some y ∧ EndpointOnly s t ∧
      ∀ e, e ∈ y.cache ↔ e ∈ x.cache ∧ ¬ (e.seq = q.toNat ∧ e.tick + 1000000000 ≤ s.now)) ∧
  (∀ (s : State) (n : BitVec 16) (q : BitVec 32), ∃ t, exec (.keptReplyExpiry n q) s = .next t ∧ EndpointOnly s t ∧
      ∀ k, k ∈ t.ep.kept ↔ k ∈ s.ep.kept ∧ ¬ (k.session = n.toNat ∧ k.seq = q.toNat ∧ k.tick + 6000000000 ≤ s.now))

/-! ### Requests and steps -/

/-- The life of a request: admission reserves its pages and starts its prefill (R237, R337); a rebuild that seals returns it to DECODE
(Table 9.4); a deadline that passes counts late and acts by its policy, at once or with the step in flight (R351-R353); a hold expires
and an ended entry is released (Table 9.4), each behind the commands of its tick (R334); a draft pass counts (R358); the keeper puts a pending balance policy in force (R356). -/
def Obligations.RequestEventsMoveTheEntry : Prop :=
  (∀ (s : State) (i : Fin 4096) (e : Entry), s.entry i.val = e → e.st = .queued → s.admissible e = true →
    ∃ t, exec (.admission i) s = .next t ∧ t.entry i.val = { e with st := .prefill, kvMoved := false } ∧
      (∀ b ∈ s.servingBasins e, (Tbl.get KvSlot.fresh e.kvTag ((t.basin b).ctx e.ctx).kvDir).pages.length =
        max (s.kvNeed b e) (Tbl.get KvSlot.fresh e.kvTag ((s.basin b).ctx e.ctx).kvDir).pages.length) ∧
      (∀ j, j ≠ i.val → t.entry j = s.entry j) ∧
      t = { s with basins := t.basins, man := { s.man with entries := t.man.entries }, trace := t.trace }) ∧
  (∀ (s : State) (i : Fin 4096), ((s.entry i.val).st ≠ .queued ∨ s.admissible (s.entry i.val) = false) →
    exec (.admission i) s = .next s) ∧
  (∀ (s : State) (i : Fin 4096) (e : Entry), s.entry i.val = e → e.st = .decode → e.draftDone < e.draftNow →
    ∃ t, exec (.draftPass i) s = .next t ∧ t.entry i.val = { e with draftDone := e.draftDone + 1 } ∧
      (∀ j, j ≠ i.val → t.entry j = s.entry j) ∧ t = { s with man := { s.man with entries := t.man.entries } }) ∧
  (∀ (s : State) (i : Fin 4096) (e : Entry), s.entry i.val = e → e.st = .paused → e.pause = .rebuild → e.rebuilt < e.promptLen + e.genLen - 1 →
    exec (.kvRebuildSeal i) s = .next s) ∧
  (∀ (s : State) (i : Fin 4096) (e : Entry), s.entry i.val = e → e.st = .paused → e.pause = .rebuild → e.promptLen + e.genLen - 1 ≤ e.rebuilt →
    ∃ t, exec (.kvRebuildSeal i) s = .next t ∧ t.entry i.val = { e with st := .decode, pause := .none } ∧
      (∀ b ∈ s.servingBasins e, (Tbl.get KvSlot.fresh e.kvTag ((t.basin b).ctx e.ctx).kvDir).rebuild = false) ∧
      (∀ j, j ≠ i.val → t.entry j = s.entry j) ∧
      t = { s with basins := t.basins, man := { s.man with entries := t.man.entries }, trace := t.trace }) ∧
  (∀ (s : State) (i : Fin 4096) (e : Entry) (d : Tick), s.entry i.val = e → e.deadline = some d → d < s.now → e.active = true →
    e.onHold = false → e.lateNext = false → e.latePending = false → s.commandsWait = false →
    ∃ t f, exec (.deadlinePass i) s = .next t ∧ t.entry i.val = f ∧ (∀ j, j ≠ i.val → t.entry j = s.entry j) ∧
      (e.inStep = true → e.st ≠ .paused → f = { e with latePending := true }) ∧
      ((e.inStep = false ∨ e.st = .paused) → e.latePolicy = 0 → f = { e with lateNext := true }) ∧
      ((e.inStep = false ∨ e.st = .paused) → e.latePolicy = 1 → f = { e with
        lateNext := true, priority := 0, demoted := true, firstBudget := 0, nextBudget := 0, deadline := none }) ∧
      ((e.inStep = false ∨ e.st = .paused) → e.latePolicy = 2 → f.st = .done ∧ f.status = .timedOut)) ∧
  (∀ (s : State) (i : Fin 4096), s.commandsWait = true →
    exec (.deadlinePass i) s = .next { s with man := { s.man with due := s.man.due ++ [.deadline i] } } ∧
      exec (.holdExpiry i) s = .next { s with man := { s.man with due := s.man.due ++ [.hold i] } } ∧
      exec (.entryRelease i) s = .next { s with man := { s.man with due := s.man.due ++ [.release i] } }) ∧
  (∀ (s : State) (i : Fin 4096) (e : Entry), s.entry i.val = e → e.onHold = true → e.pauseTick + e.holdTicks ≤ s.now → s.commandsWait = false →
    ∃ t, exec (.holdExpiry i) s = .next t ∧ (t.entry i.val).st = .done ∧ (t.entry i.val).status = .ok ∧
      (∀ j, j ≠ i.val → t.entry j = s.entry j)) ∧
  (∀ (s : State) (i : Fin 4096) (e : Entry), s.entry i.val = e → (e.st = .done ∨ e.st = .failed) → e.endTick + 100000000 ≤ s.now →
    s.commandsWait = false →
    ∃ t, exec (.entryRelease i) s = .next t ∧ t.entry i.val = Entry.fresh ∧ (∀ j, j ≠ i.val → t.entry j = s.entry j) ∧
      Tbl.get [] i.val ((t.basin e.basin).ctx e.ctx).logPages = [] ∧
      t = { s with basins := t.basins, man := { s.man with entries := t.man.entries }, trace := t.trace }) ∧
  (∀ (s : State) (b : BasinId) (z : Balance) (p : BalanceP),
    (s.man.balance.find? fun x => x.sliceId == (s.basin b.val).sliceId.toNat) = some z → z.pending = some p → s.isKeeper b.val = true →
    z.lastEval + ((z.policy.getD p).evalTicks).toNat ≤ s.now →
    ∃ t y, exec (.balanceEvaluation b) s = .next t ∧ y ∈ t.man.balance ∧ y.sliceId = z.sliceId ∧ y.policy = some p ∧ y.pending = none ∧
      y.lastEval = s.now ∧ y.firstLate = 0 ∧ y.nextLate = 0 ∧
      (s.balanceMove z.sliceId z p = none → t.selects = s.selects) ∧
      (∀ k l, s.balanceMove z.sliceId z p = some (k, l) → ∃ q, t.selects = s.selects ++ [q] ∧ q.slice = z.sliceId ∧ q.session = 0 ∧
        q.bytes = slotBytes fun j => if l.contains j then (s.basin j).otherSlot k else none) ∧
      t = { s with man := { s.man with balance := t.man.balance }, selects := t.selects })

/-- The start of a step: a source pound forms one from the manifest (R343), a pound starts it under the conditions of R107 with lanes and
commit bitmap clear and its shape sent on (R143, R157), a shape record and a seal and a void seal reach a consumer (R143, R242, R245), and
the next phrase of the sequencer program starts in every tile of the pound with the length of its phrase-table entry and the step parameters
SP0 to SP5 (R100, R103, R142, R164). No step forms from the lock tick on (R133). -/
def Obligations.StepsFormStartAndCarryRecords : Prop :=
  (∀ (s : State) (b : BasinId) (p : PoundId) (g : Share) (c : Nat) (q : Pound), (s.basin b.val).pound p.val = q →
    (s.basin b.val).activeShare = some g → (s.basin b.val).running = some c → q.pdef.source = true → q.pdef.height ≠ 0 → q.ctx = c →
    q.nextFormed = none → (s.basin b.val).st.state = .serving → s.beforeLock b.val = true → s.formRows b.val p.val c g ≠ [] →
    ∃ t n f, exec (.stepFormation b p) s = .next t ∧ n = (if q.running then q.step + 1 else q.step) ∧
      t.man.flights = s.man.flights ++ [f] ∧ f.home = b.val ∧ f.pound = p.val ∧ f.step = n ∧ f.started = false ∧
      f.rows = s.formRows b.val p.val c g ∧ (t.basin b.val).pound p.val = { q with nextFormed := some n } ∧
      (∀ h i, ¬ (h = b.val ∧ i = p.val) → (t.basin h).pound i = (s.basin h).pound i) ∧
      t.tiles = s.tiles ∧ t.store = s.store ∧ t.power = s.power ∧ t.time = s.time) ∧
  (∀ (s : State) (b : BasinId) (p : PoundId), s.beforeLock b.val = false → exec (.stepFormation b p) s = .next s) ∧
  (∀ (s : State) (b : BasinId) (p : PoundId) (r : ShapeRec) (q : Pound), (s.basin b.val).pound p.val = q →
    s.stepShape b.val p.val = some r → s.mayStart b.val p.val r = true →
    ∃ t u, exec (.stepStart b p) s = .next t ∧ (t.basin b.val).pound p.val = u ∧ u.step = r.step ∧ u.running = true ∧ u.startTick = s.now ∧
      u.startDuty = s.power.duty.toNat ∧ u.rows = r.rows ∧ u.seqs = r.seqs ∧ u.lanes = [] ∧ u.commits = [] ∧ u.taint = false ∧
      u.replays = 0 ∧
      (∀ k ∈ State.usedQueues q.pdef.outQ, ∃ m ∈ t.msgs, m.src = b.val ∧ m.msg = .shape b.val p.val { r with qid := k }) ∧
      (∀ i, i ∉ s.poundTiles b.val p.val → t.tile i = s.tile i) ∧ (∀ i, (t.tile i).mem = (s.tile i).mem ∧ (t.tile i).net = (s.tile i).net ∧
        (t.tile i).core = { (s.tile i).core with stale := (t.tile i).core.stale }) ∧
      t = { s with basins := t.basins, tiles := t.tiles, man := t.man, msgs := t.msgs, fab := t.fab, freeCtr := t.freeCtr }) ∧
  (∀ (s : State) (b : BasinId) (p : PoundId) (k : BitVec 8) (n rows seqs a m : Nat),
    ∃ t, exec (.shape b p k n rows seqs a m) s = .next t ∧
      (⟨k.toNat, n, rows, seqs, a, m⟩ : ShapeRec) ∈ ((t.basin b.val).pound p.val).shapes ∧
      (∀ h i, ¬ (h = b.val ∧ i = p.val) → (t.basin h).pound i = (s.basin h).pound i) ∧ (rows = 0 → t = { s with basins := t.basins }) ∧
      t.tiles = s.tiles ∧ t.man = s.man ∧ t.store = s.store ∧ t.power = s.power ∧ t.time = s.time) ∧
  (∀ (s : State) (b : BasinId) (p : PoundId) (k : BitVec 8) (n : Nat),
    ∃ t, exec (.seal b p k n) s = .next t ∧ (k.toNat, n) ∈ ((t.basin b.val).pound p.val).sealed ∧
      (∀ i, i ≠ p.val → (t.basin b.val).pound i = (s.basin b.val).pound i) ∧ t = { s with basins := t.basins }) ∧
  (∀ (s : State) (b : BasinId) (p : PoundId) (k : BitVec 8) (n : Nat),
    ∃ t, exec (.void b p k n) s = .next t ∧ (k.toNat, n) ∈ ((t.basin b.val).pound p.val).voids ∧
      (∀ i, i ≠ p.val → (t.basin b.val).pound i = (s.basin b.val).pound i) ∧ t = { s with basins := t.basins, tiles := t.tiles }) ∧
  (∀ (s : State) (b : BasinId) (p : PoundId) (ph : PhraseP) (q y : Pound) (k e rows : Nat) (it : ProgItem) (plan : PhrasePlan),
    (s.basin b.val).pound p.val = q → q.piece = 0 → s.nextPhrases b.val p.val = [.issue k it e] →
    ph.layer = it.layer → ph.phrase = it.phrase → ph.kind = it.kind →
    (it.kind = .dense → e = 0) →
    (it.kind = .attention → ph.seq = e ∧ 0 < ph.len ∧ ∀ n, s.seqLen b.val p.val ph.seq = some n → ph.len = n) →
    (it.kind = .grouped → ph.slot.toNat = e ∧ s.routeAt b.val p.val it.layer = some ph.route.toNat) →
    (ph.half = none ∨ ph.half = some false) →
    ph.half.isSome = (ph.kind == .attention && decide (0 < Config.halfBytes (s.cutOf b.val) p.val ph.phrase)) → q.running = true → q.phraseOn = false → q.stopped = false →
    (s.basin b.val).st.state = .serving → plan = planOf ((((s.basin b.val).activeShare).map (·.cutId)).getD 0) p.val ph.phrase q.pdef.ring →
    y = { q with phrase := some ph, phraseOn := true, plan := plan, lanes := [], laneSeg := 0, commits := [] } →
    rows = s.phraseRows b.val y → q.pdef.ring.rings * plan.segs * State.groupCount q.pdef.ring.g rows ≤ 4096 →
    ∃ t u, exec (.phraseStart b p ph) s = .next t ∧ (t.basin b.val).pound p.val = u ∧ u.phrase = some ph ∧ u.phraseOn = true ∧
      u.plan = plan ∧ u.lanes = [] ∧ u.commits = [] ∧ u.step = q.step ∧
      (ph.half = none → u.at_ = (k, e + 1) ∧ u.piece = 0) ∧ (ph.half = some false → u.at_ = (k, e) ∧ u.piece = 1 ∧ u.pieceTick = s.now) ∧
      (∀ i ∈ s.poundTiles b.val p.val, (t.tile i).core.inPhrase = true ∧ (t.tile i).core.phrase = some ph ∧
        (t.tile i).core.pc = (s.tileEntry i ph.phrase).1 ∧ (t.tile i).core.cyc = 0 ∧
        (t.tile i).core.len = (s.tileEntry i ph.phrase).2.1 +
          (Tbl.get 0#32 (s.tileEntry i ph.phrase).2.2.2 (t.tile i).core.sp).toNat * (s.tileEntry i ph.phrase).2.2.1 ∧
        (∀ j < 6, Tbl.get 0#32 j (t.tile i).core.sp = ((stepParams y ph plan rows)[j]?).getD 0#32)) ∧
      (∀ i, i ∉ s.poundTiles b.val p.val → t.tile i = s.tile i) ∧
      t = { s with basins := t.basins, tiles := t.tiles, trace := t.trace }) ∧
  (∀ (s : State), (s.issueTick = true → exec .idleTick s = .next s) ∧ (s.issueTick = false → exec .idleTick s = .next (rackTick s)))

/-- The end of a step: one without a taint is sealed (R242); a taint in a pound without a route record holds it for a local replay, which
runs at most twice (R244, R245), and in a pound with one voids it (R246); the requests of a void step join a later one once the slice runs, three times at
one position at most (R30, R247, R254); a sink hands the tokens of a sealed step to their requests (R242, R338). -/
def Obligations.StepsSealVoidReplayAndDeliver : Prop :=
  (∀ (s : State) (b : BasinId) (p : PoundId) (q : Pound), (s.basin b.val).pound p.val = q → q.running = true → q.phraseOn = false →
    q.stopped = false → s.programDone b.val p.val = true → s.exchangesDone b.val p.val = true → (∀ v ∈ q.voids, v.2 ≠ q.step) →
    (∀ y ∈ s.poundBasins b.val p.val, (s.basin y).st.state ≠ .fenced) →
    ∃ t u, exec (.stepEnd b p) s = .next t ∧ (t.basin b.val).pound p.val = u ∧
      (q.taint = false → s.passesBad b.val p.val = false → u.running = false ∧ u.step = q.step + 1 ∧
        ∀ k ∈ State.usedQueues q.pdef.outQ, ∃ m ∈ t.msgs, m.src = b.val ∧ m.msg = .seal b.val p.val k q.step) ∧
      ((q.taint || s.passesBad b.val p.val) = true → s.poundRoute b.val p.val = none → q.unrepaired = false → q.replays < 2 → u = { q with replaying := true }) ∧
      ((q.taint || s.passesBad b.val p.val) = true → ((s.poundRoute b.val p.val).isSome = true ∨ q.unrepaired = true ∨ 2 ≤ q.replays) →
        u.running = false ∧ u.step = q.step + 1 ∧
        (∀ k ∈ State.usedQueues q.pdef.outQ, ∃ m ∈ t.msgs, m.src = b.val ∧ m.msg = .void b.val p.val k q.step)) ∧
      t.power = s.power ∧ t.time = s.time ∧ t.store = s.store) ∧
  (∀ (s : State) (b : BasinId) (p : PoundId) (q : Pound), (s.basin b.val).pound p.val = q → q.running = true → q.replaying = true →
    q.taint = true → q.phraseOn = false → q.replays < 2 → s.programDone b.val p.val = true → q.unrepaired = false → (s.repairSources b.val p.val).inputBad b.val p.val = false →
    (s.repairSources b.val p.val).sourcesPending b.val p.val = false →
    ∃ t u, exec (.localReplay b p) s = .next t ∧ (t.basin b.val).pound p.val = u ∧ u.taint = false ∧ u.replays = q.replays + 1 ∧
      u.step = q.step ∧ u.at_ = (0, 0) ∧ u.phrase = none ∧ u.lanes = [] ∧ u.commits = [] ∧ t.man = s.man ∧ t.store = s.store ∧
      t.power = s.power ∧ t.time = s.time) ∧
  (∀ (s : State) (b : BasinId) (p : PoundId) (n : Nat), (∃ y ∈ s.sliceBasins b.val, (s.basin y).st.held = true) →
    exec (.readmission b p n) s = .next s) ∧
  (∀ (s : State) (b : BasinId) (p : PoundId) (n k : Nat) (f : Flight) (r : FormRow) (e : Entry),
    (∀ y ∈ s.sliceBasins b.val, (s.basin y).st.held = false ∧ (s.basin y).st.state ≠ .fenced ∧ (s.basin y).st.state ≠ .resetting) →
    k = (if e.readmitPos = r.pos then e.readmits else 0) + 1 →
    (s.man.flights.find? fun f => f.home == b.val && f.pound == p.val && f.step == n && f.voided) = some f → f.kind ≠ 2 →
    f.rows = [r] → s.entry r.entry = e → e.active = true → e.failWith = none → e.cancelBy = [] → e.latePending = false →
    r.rebuild = false → f.byFence = false →
    ∃ t g, exec (.readmission b p n) s = .next t ∧ t.man.flights = (s.man.flights.filter fun g => !(g == f)).map (fun g =>
        if k < 3 then g else { g with rows := g.rows.filter fun x => x.entry != r.entry }) ∧ t.entry r.entry = g ∧
      (k < 3 → g.st = e.st ∧ g.readmits = k ∧ g.readmitPos = r.pos ∧ g.draftDone = 0 ∧ g.genLen = e.genLen) ∧
      (3 ≤ k → g.st = .failed ∧ g.status = .parityUnrecovered) ∧
      (∀ j, j ≠ r.entry → t.entry j = s.entry j)) ∧
  (∀ (s : State) (b : BasinId) (p : PoundId) (n : Nat) (toks : List StepTokens) (f : Flight) (r : FormRow) (e : Entry) (k : StepTokens)
      (kept : List (BitVec 32)),
    (s.man.flights.find? fun f => f.step == n && f.sealed && s.onPath f b.val p.val) = some f →
    ((s.basin b.val).pound p.val).pdef.sink = true → f.rows = [r] → s.entry r.entry = e → e.active = true → e.failWith = none →
    e.cancelBy = [] → e.latePending = false → e.st ≠ .paused → (toks.find? fun k => k.entry == r.entry) = some k →
    kept = keptTokens e.stopToken (e.genLimit - e.genLen) (verifyStep (e.temperature == 0#32) r.draft k).2 → e.genLen + kept.length < e.genLimit →
    (∀ x ∈ kept, e.stopToken ≠ 0xFFFFFFFF → x.toNat ≠ e.stopToken) →
    ∃ t g, exec (.tokenHandoff b p n toks) s = .next t ∧ t.entry r.entry = g ∧ g.st = .decode ∧ g.genLen = e.genLen + kept.length ∧
      g.log = e.log ++ kept ∧ g.tLast = s.now ∧ g.tFirst = (if e.st = .prefill then s.now else e.tFirst) ∧
      g.deadline = deadlineOf s.now e.nextBudget ∧ g.readmits = 0 ∧ g.inStep = false ∧
      t.man.flights = (s.man.flights.filter fun g => !(g == f)) ∧ (∀ j, j ≠ r.entry → t.entry j = s.entry j))

/-! ### Schedule words -/

/-- A tile in a phrase issues its schedule words in program order, each its wait after the last (R103, R104); a reserved unit, value or bit, two words
for one unit in a cycle and a reserved vector code raise UNIT_FAULT (R101, R102, Table 3.16), unless the word has a parity error, which is recorded
alone (R83, R141); a flit overwritten in an input register before the word raises OVERFLOW_FAULT (R106); a row of another kind than the word
fetched does nothing (log entry 5). -/
def Obligations.ScheduleWordsIssueInOrder : Prop :=
  (∀ (s : State) (i : TileId) (c : Instr) (o : SchedOp), WordRow i c o → s.issues i.val = false → exec c s = .next s) ∧
  (∀ (s : State) (i : TileId) (c : Instr) (o : SchedOp), WordRow i c o → s.issues i.val = true → decodeSched (s.fetch i.val) = none →
    ((s.tile i.val).mem.damaged .sched (wordByte (s.runSlot i.val) (s.tile i.val).core.pc / 4) 2 = false →
      exec c s = .next (s.arrayFaultAt i.val ((s.tile i.val).core.cyc + schedWait (s.fetch i.val)) .unit)) ∧
    ((s.tile i.val).mem.damaged .sched (wordByte (s.runSlot i.val) (s.tile i.val).core.pc / 4) 2 = true →
      exec c s = .next ((s.consume i.val .sched (wordByte (s.runSlot i.val) (s.tile i.val).core.pc / 4) 2).issued i.val 0
        (schedWait (s.fetch i.val))))) ∧
  (∀ (s : State) (i : TileId) (c : Instr) (o : SchedOp), WordRow i c o → s.issues i.val = true → decodeSched (s.fetch i.val) = some o →
    schedWait (s.fetch i.val) = 0 → (s.tile i.val).core.used.contains o.unit = true →
    (s.tile i.val).mem.damaged .sched (wordByte (s.runSlot i.val) (s.tile i.val).core.pc / 4) 2 = false →
    ∃ t, exec c s = .next t ∧ t = (s.consume i.val .sched (wordByte (s.runSlot i.val) (s.tile i.val).core.pc / 4) 2).arrayFault i.val .unit ∧
      (t.tile i.val).core.stopped = true ∧ (t.tile i.val).core.pc = (s.tile i.val).core.pc) ∧
  (∀ (s : State) (i : TileId) (c : Instr) (o : SchedOp), WordRow i c o → s.issues i.val = true → decodeSched (s.fetch i.val) = some o →
    (schedWait (s.fetch i.val) = 0 → (s.tile i.val).core.used.contains o.unit = false) →
    State.overwritten (s.tile i.val) ((s.tile i.val).core.cyc + schedWait (s.fetch i.val)) = true →
    ∃ t, exec c s = .next t ∧ t = ((s.consume i.val .sched (wordByte (s.runSlot i.val) (s.tile i.val).core.pc / 4) 2).issued i.val o.unit
        (schedWait (s.fetch i.val))).arrayFault i.val .overflow ∧ (t.tile i.val).core.stopped = true) ∧
  (∀ (s : State) (i : TileId) (c : Instr) (o o' : SchedOp), WordRow i c o → decodeSched (s.fetch i.val) = some o' → ¬ WordRow i c o' →
    (∀ k a b v, o' = .vu k a b v → k.toNat < 17) → exec c s = .next s) ∧
  (∀ (s u : State) (i : TileId) (c : Instr) (k : BitVec 6) (a b : BitVec 4) (v : VuSpan), Issues s i.val (.vu k a b v) u → 17 ≤ k.toNat →
    c ∈ vuRows i → exec c s = .next (u.arrayFault i.val .unit)) ∧
  (∀ (s u : State) (i : TileId) (o : SchedOp), Issues s i.val o u →
    (u.tile i.val).core = { (s.tile i.val).core with
      pc := (s.tile i.val).core.pc + 1, cyc := (s.tile i.val).core.cyc + schedWait (s.fetch i.val), used := (u.tile i.val).core.used } ∧
    (u.tile i.val).mem = { (s.tile i.val).mem with parity := (u.tile i.val).mem.parity } ∧ (u.tile i.val).net = (s.tile i.val).net ∧
    (u.tile i.val).cnt = (s.tile i.val).cnt ∧ TileOnly s u i.val) ∧
  (∀ (s u : State) (i : TileId), Issues s i.val .nop u → exec (.nop i) s = .next u)

/-- The vector unit's two- and one-operand words, lane by lane: source with destination over the destination, each result rounded once,
the counters of Table 2.11 advanced by what the lanes count (R102, Tables 2.11 and 3.17). A span beyond its bank stops the tile
(log entry 21). -/
def Obligations.VectorWordsComputeLaneByLane : Prop :=
  (∀ (s u : State) (i : TileId) (v : VuSpan) (n k : Nat) (c : Instr) (f : BitVec 32 → BitVec 32 → BitVec 32 × Ev), n = vuWords v →
    Issues s i.val (.vu (BitVec.ofNat 6 k) 0#4 0#4 v) u → inBank (spanSrc v) (4 * n) = true → inBank (spanDst v) (4 * n) = true →
    ((c = .add32 i ∧ k = 1 ∧ f = lane32 FVal.add) ∨ (c = .mul32 i ∧ k = 2 ∧ f = lane32 FVal.mul) ∨
      (c = .min32 i ∧ k = 3 ∧ f = lane32 FVal.min2) ∨ (c = .max32 i ∧ k = 4 ∧ f = lane32 FVal.max2) ∨
      (c = .add16 i ∧ k = 9 ∧ f = halves2 (lane16 FVal.add)) ∨ (c = .mul16 i ∧ k = 10 ∧ f = halves2 (lane16 FVal.mul)) ∨
      (c = .min16 i ∧ k = 11 ∧ f = halves2 (lane16 FVal.min2)) ∨ (c = .max16 i ∧ k = 12 ∧ f = halves2 (lane16 FVal.max2))) →
    ∃ t r, r = ((s.opWords i.val (spanSrc v) n).zip (s.opWords i.val (spanDst v) n)).map (fun p => f p.1 p.2) ∧ exec c s = .next t ∧
      t.opWords i.val (spanDst v) n = r.map (·.1) ∧ (t.tile i.val).cnt = (s.tile i.val).cnt.count (Ev.total (r.map (·.2))) ∧
      WritesOpbuf u t i.val (spanDst v) (4 * n)) ∧
  (∀ (s u : State) (i : TileId) (v : VuSpan) (n k : Nat) (c : Instr) (f : BitVec 32 → BitVec 32 × Ev), n = vuWords v →
    Issues s i.val (.vu (BitVec.ofNat 6 k) 0#4 0#4 v) u → inBank (spanSrc v) (4 * n) = true → inBank (spanDst v) (4 * n) = true →
    ((c = .exp i ∧ k = 13 ∧ f = fnExp) ∨ (c = .rcp i ∧ k = 14 ∧ f = fnRcp) ∨ (c = .rsqrt i ∧ k = 15 ∧ f = fnRsqrt)) →
    ∃ t r, r = (s.opWords i.val (spanSrc v) n).map f ∧ exec c s = .next t ∧ t.opWords i.val (spanDst v) n = r.map (·.1) ∧
      (t.tile i.val).cnt = (s.tile i.val).cnt.count (Ev.total (r.map (·.2))) ∧ WritesOpbuf u t i.val (spanDst v) (4 * n)) ∧
  (∀ (s u : State) (i : TileId) (v : VuSpan) (k : Nat) (c : Instr), Issues s i.val (.vu (BitVec.ofNat 6 k) 0#4 0#4 v) u →
    ((c = .add32 i ∧ k = 1) ∨ (c = .mul32 i ∧ k = 2) ∨ (c = .min32 i ∧ k = 3) ∨ (c = .max32 i ∧ k = 4) ∨ (c = .add16 i ∧ k = 9) ∨
      (c = .mul16 i ∧ k = 10) ∨ (c = .min16 i ∧ k = 11) ∨ (c = .max16 i ∧ k = 12) ∨ (c = .exp i ∧ k = 13) ∨ (c = .rcp i ∧ k = 14) ∨
      (c = .rsqrt i ∧ k = 15)) →
    (inBank (spanSrc v) (4 * vuWords v) = false ∨ inBank (spanDst v) (4 * vuWords v) = false) →
      ∃ t, exec c s = .next t ∧ t = u.arrayFault i.val .overflow ∧ (t.tile i.val).core.stopped = true ∧
        (t.tile i.val).mem = (u.tile i.val).mem)

/-- The vector unit's other words: fused multiply-adds with the addend after the destination span, compare flags, selection by them,
conversion between formats and TOPK (R73, R102, Table 3.17), and the operand values that Table 3.16 makes a UNIT_FAULT. -/
def Obligations.VectorWordsFuseCompareSelectConvert : Prop :=
  (∀ (s u : State) (i : TileId) (v : VuSpan) (n k : Nat) (c : Instr) (f : BitVec 32 → BitVec 32 → BitVec 32 → BitVec 32 × Ev),
    n = vuWords v → Issues s i.val (.vu (BitVec.ofNat 6 k) 0#4 0#4 v) u → inBank (spanSrc v) (4 * n) = true →
    inBank (spanDst v) (8 * n) = true →
    ((c = .fma32 i ∧ k = 0 ∧ f = fma32Lane) ∨ (c = .fma16 i ∧ k = 8 ∧ f = halves3 fma16Lane)) →
    ∃ t r, r = ((s.opWords i.val (spanSrc v) n).zip ((s.opWords i.val (spanDst v) n).zip
          (s.opWords i.val (spanDst v + 4 * n) n))).map (fun p => f p.1 p.2.1 p.2.2) ∧ exec c s = .next t ∧
      t.opWords i.val (spanDst v) n = r.map (·.1) ∧ (t.tile i.val).cnt = (s.tile i.val).cnt.count (Ev.total (r.map (·.2))) ∧
      WritesOpbuf u t i.val (spanDst v) (4 * n)) ∧
  (∀ (s u : State) (i : TileId) (v : VuSpan) (n : Nat) (k : BitVec 4), n = vuWords v → Issues s i.val (.vu 5#6 k 0#4 v) u →
    inBank (spanSrc v) (4 * n) = true → inBank (spanDst v) (4 * n) = true → k.toNat < 4 →
    ∃ t r, r = ((s.opWords i.val (spanSrc v) n).zip (s.opWords i.val (spanDst v) n)).map (fun p => cmpLane k.toNat p.1 p.2) ∧
      exec (.cmp32 i) s = .next t ∧
      (t.tile i.val).core = { (u.tile i.val).core with cmp := r.map (·.1), halves := (t.tile i.val).core.halves } ∧
      (t.tile i.val).mem.opbuf = (s.tile i.val).mem.opbuf ∧
      (t.tile i.val).cnt = (s.tile i.val).cnt.count (Ev.total (r.map (·.2))) ∧ ReadsOnly u t i.val) ∧
  (∀ (s u : State) (i : TileId) (v : VuSpan) (n : Nat), n = vuWords v → Issues s i.val (.vu 6#6 0#4 0#4 v) u →
    inBank (spanSrc v) (4 * n) = true → inBank (spanDst v) (4 * n) = true →
    ∃ t, exec (.sel i) s = .next t ∧ WritesOpbuf u t i.val (spanDst v) (4 * n) ∧
      ∀ j, j < n → ∃ x y z, (s.opWords i.val (spanSrc v) n)[j]? = some x ∧ (s.opWords i.val (spanDst v) n)[j]? = some y ∧
        (t.opWords i.val (spanDst v) n)[j]? = some z ∧
        (((s.tile i.val).core.cmp[j]?).getD false = false → z = y) ∧
        (((s.tile i.val).core.cmp[j]?).getD false = true → z = if (dec32 x).2 then (enc32 (dec32 x).1).1 else x)) ∧
  (∀ (s u : State) (i : TileId) (v : VuSpan) (n : Nat) (x y : BitVec 4) (f g : Fmt) (bs out : List Byte), n = vuWords v →
    Issues s i.val (.vu 7#6 x y v) u → fmtOfCode x.toNat = some f → fmtOfCode y.toNat = some g →
    inBank (spanSrc v) (packedBytes f n) = true → inBank (spanDst v) (packedBytes g n) = true →
    bs = Memory.read (s.tile i.val).mem.opbuf (spanSrc v) (packedBytes f n) →
    out = packCodes g ((unpackCodes f n bs).map fun c => (fmtEncode g (-128) (fmtDecode f c).1).1) →
    ∃ t, exec (.convert i) s = .next t ∧ Memory.read (t.tile i.val).mem.opbuf (spanDst v) out.length = out ∧
      WritesOpbuf u t i.val (spanDst v) out.length) ∧
  (∀ (s u : State) (i : TileId) (v : VuSpan) (n k : Nat) (l : BitVec 4) (ws : List (BitVec 32)) (idx : List Nat), n = vuWords v →
    Issues s i.val (.vu 16#6 l 0#4 v) u → spanVectors v ≤ 64 → k = l.toNat + 1 → inBank (spanSrc v) (4 * n) = true →
    inBank (spanDst v) (8 * k) = true → ws = s.opWords i.val (spanSrc v) n → idx = topK k (ws.map fun w => (dec32 w).1) →
    ∃ t, exec (.topk i) s = .next t ∧
      t.opWords i.val (spanDst v + 4 * idx.length) idx.length = idx.map (BitVec.ofNat 32) ∧
      (∀ (j e : Nat) (w : BitVec 32), idx[j]? = some e → ws[e]? = some w → (dec32 w).2 = false →
        (t.opWords i.val (spanDst v) idx.length)[j]? = some w) ∧
      WritesOpbuf u t i.val (spanDst v) (8 * idx.length)) ∧
  (∀ (s u : State) (i : TileId) (v : VuSpan) (x y : BitVec 4),
    (4 ≤ x.toNat → Issues s i.val (.vu 5#6 x 0#4 v) u → exec (.cmp32 i) s = .next (u.arrayFault i.val .unit)) ∧
    ((fmtOfCode x.toNat = none ∨ fmtOfCode y.toNat = none) → Issues s i.val (.vu 7#6 x y v) u →
      exec (.convert i) s = .next (u.arrayFault i.val .unit)) ∧
    (64 < spanVectors v → Issues s i.val (.vu 16#6 x 0#4 v) u → exec (.topk i) s = .next (u.arrayFault i.val .unit)))

/-- The next weight tile loads into the shadow plane, and the planes swap once the current tile's streams are through (R40, R41), in the formats of the
phrase's plan (R43); a tile whose every pair the zero maps skip takes its turn unread (R61); a stream adds each valid row's products to the accumulator (R39),
a row's first stream of a tile operation from zero (R146), does nothing for a block without valid rows (R45), and counts a pair that the zero map skips
(R60); in the beat of a null unit no row streams, and the weight tile leaves with its turn (R152). -/
def Obligations.MatrixWordsLoadAndStream : Prop :=
  (∀ (s u : State) (i : TileId) (k : BitVec 2) (a : BitVec 12) (m : MuMode) (sp : Sparsity) (f f' : Fmt) (maps : List ZMap) (x : Tile),
    Issues s i.val (.muLoad k a m sp) u → f' = ((s.phraseForm i.val).map (·.wgt)).getD f → x = (u.tile i.val).planes (u.rowBlocks i.val) →
    (muLoadOk m sp f' = false → exec (.muLoad i f maps) s = .next (u.arrayFault i.val .unit)) ∧
    (muLoadOk m sp f' = true →
      (allSkipped (s.tile i.val).mem.opbuf maps (tileK m sp / 32) = true →
        ∃ t w, exec (.muLoad i f maps) s = .next t ∧ w.mode = m ∧ w.sp = sp ∧ w.real = false ∧
          (t.tile i.val).core = { x.core with
            shadow := w, loaded := true, pack := (t.tile i.val).core.pack, halves := (t.tile i.val).core.halves } ∧
          (t.tile i.val).cnt = x.cnt ∧
          (t.tile i.val).mem = { (s.tile i.val).mem with parity := (t.tile i.val).mem.parity } ∧ ReadsOnly u t i.val) ∧
      (allSkipped (s.tile i.val).mem.opbuf maps (tileK m sp / 32) = false → inBank (opAddr k a) (weightBytes m sp f') = true →
        ∃ t w, exec (.muLoad i f maps) s = .next t ∧ w.mode = m ∧ w.sp = sp ∧ w.fmt = f' ∧ w.real = true ∧
          w.q = nextQ x.core.pack m (opAddr k a) ∧
          w.bytes = Memory.read (s.tile i.val).mem.opbuf (opAddr k a) (weightBytes m sp f') ∧
          (t.tile i.val).core = { x.core with
            shadow := w, loaded := true, pack := if m = .t2 then some (opAddr k a, w.q) else none,
            halves := (t.tile i.val).core.halves } ∧
          (t.tile i.val).cnt.muLoadWait = x.cnt.muLoadWait ∧
          (t.tile i.val).mem = { (s.tile i.val).mem with parity := (t.tile i.val).mem.parity } ∧ ReadsOnly u t i.val))) ∧
  (∀ (s u : State) (i : TileId) (k : BitVec 2) (a : BitVec 12) (blk : BitVec 5) (fr : Bool) (rows : BitVec 6) (f f' : Fmt) (z : Option ZMap)
      (x y : Tile) (w : WPlane) (v kb bb : Nat), Issues s i.val (.muStream k a blk fr rows) u → u.nullBeat i.val = false →
    f' = ((s.phraseForm i.val).map (·.act)).getD f →
    x = ((u.openSet i.val blk.toNat).tile i.val).planes (u.rowBlocks i.val) → w = x.core.active → actOk w.mode f' = true →
    v = streamRows u i.val blk fr rows → kb = tileK w.mode w.sp / 32 → bb = actBlockBytes (isMx w.mode) f' →
    y = x.freshRows blk.toNat (List.range v) →
    (v = 0 → exec (.muStream i f z) s = .next (u.modTile i.val fun _ => { x with core := { x.core with due := x.core.due - 1 } })) ∧
    (v ≠ 0 → allSkipped (s.tile i.val).mem.opbuf z.toList kb = true →
      ∃ t, exec (.muStream i f z) s = .next t ∧ (t.tile i.val).cnt = { x.cnt with skip := satAdd x.cnt.skip 1 } ∧
        (t.tile i.val).core = { y.core with due := x.core.due - 1, halves := (t.tile i.val).core.halves } ∧
        (t.tile i.val).mem = { y.mem with parity := (t.tile i.val).mem.parity } ∧ ReadsOnly u t i.val) ∧
    (v ≠ 0 → allSkipped (s.tile i.val).mem.opbuf z.toList kb = false → inBank (opAddr k a) (kb * bb) = true →
      ∃ t, exec (.muStream i f z) s = .next t ∧
        (t.tile i.val).mem.acc = (streamAll w (isMx w.mode) f' ((List.range kb).map fun j =>
          Memory.read (s.tile i.val).mem.opbuf (opAddr k a + j * bb) bb) blk.toNat v y.mem.acc).1 ∧
        (t.tile i.val).cnt.muActive = satAdd x.cnt.muActive v ∧
        (t.tile i.val).core = { y.core with
          due := x.core.due - 1, rowsMet := x.core.rowsMet + v,
          accMode := Tbl.set .f8 blk.toNat w.mode x.core.accMode, halves := (t.tile i.val).core.halves } ∧
        (t.tile i.val).mem = { (s.tile i.val).mem with acc := (t.tile i.val).mem.acc, parity := (t.tile i.val).mem.parity } ∧
        ReadsOnly u t i.val)) ∧
  (∀ (s u : State) (i : TileId) (k : BitVec 2) (a : BitVec 12) (blk : BitVec 5) (fr : Bool) (rows : BitVec 6) (f : Fmt) (z : Option ZMap)
      (x : Tile), Issues s i.val (.muStream k a blk fr rows) u → x = (u.tile i.val).planes (u.rowBlocks i.val) →
    (u.nullBeat i.val = true → exec (.muStream i f z) s = .next (u.modTile i.val fun _ => { x with core := { x.core with
      due := x.core.due - 1, active := { x.core.active with real := false } } })) ∧
    (u.nullBeat i.val = false → actOk x.core.active.mode (((s.phraseForm i.val).map (·.act)).getD f) = false →
      ∃ t, exec (.muStream i f z) s = .next t ∧ (t.tile i.val).core.stopped = true ∧ (t.tile i.val).mem = (u.tile i.val).mem))

/-- A drain writes its blocks from accumulator blocks in the mode that filled them (R65), a valid row that its operation never streamed as zero (R146), the
zero-map bit of a block (R59) and, with its tile operation's last block, the commit bit of a ring pound (R161, R162); the SRAM port moves spans inside the running context's share and dynamic
region alone (R214, R218). -/
def Obligations.DrainAndSramWordsMoveTheirOperands : Prop :=
  (∀ (s u : State) (i : TileId) (first blocks : BitVec 5) (fc steps : BitVec 4) (fn : BitVec 6) (k : BitVec 2) (a : BitVec 12)
      (sup : DrainSupply) (f : Fmt) (n bb : Nat) (gs : Nat × Nat) (g : Option (Nat × Nat)) (row strip : Nat → Nat)
      (y : Tile) (out : Nat → Drained), Issues s i.val (.drain first blocks fc steps fn k a) u →
    fmtOfCode fc.toNat = some f → (fn = 0 ∨ fn = 13 ∨ fn = 14 ∨ fn = 15) → sup.fan = none → n = blocks.toNat + 1 →
    gs = u.gs i.val → g = u.drainGroup i.val → (∀ q, g = some q → q.2 ≠ 0) →
    bb = actBlockBytes (!sup.partialSum && drainMx f sup) (if sup.partialSum then .fp32 else f) →
    inBank (opAddr k a) (n * bb) = true →
    row = (fun j => rowBlockOf gs.1 gs.2 ((first.toNat + j) % 32)) → strip = (fun j => stripOf gs.1 gs.2 ((first.toNat + j) % 32)) →
    y = (List.range n).foldl (fun x j => x.freshRows ((first.toNat + j) % 32)
      (List.range (match g with | some q => min 32 (q.2 - 32 * row j) | none => 32))) (u.tile i.val) →
    out = (fun j => drainBlock y f steps fn.toNat sup (u.keyRows i.val g (row j)) ((first.toNat + j) % 32) (row j) (strip j)) →
    ∃ t, exec (.drain i sup) s = .next t ∧ (∀ j, j ≠ i.val → t.tile j = s.tile j) ∧
      (t.tile i.val).mem = { (s.tile i.val).mem with
        acc := y.mem.acc, opbuf := (t.tile i.val).mem.opbuf, parity := (t.tile i.val).mem.parity } ∧
      (∀ j < n, Tbl.get 0#32 ((first.toNat + j) % 32) (t.tile i.val).core.stale = 0xFFFFFFFF#32) ∧
      ((sup.partialSum = true ∨ scaledOut (drainMx f sup) f = false) →
        (∀ j < n, ∀ x, x = sup.zeroMap.addr.toNat + (sup.zeroMap.first + 8 * sup.stride * row j + strip j) / 8 →
          x < opAddr k a ∨ opAddr k a + ((List.range n).flatMap fun j => (out j).bytes).length ≤ x) →
        Memory.read (t.tile i.val).mem.opbuf (opAddr k a) ((List.range n).flatMap fun j => (out j).bytes).length =
          (List.range n).flatMap fun j => (out j).bytes) ∧
      ((sup.partialSum = true ∨ scaledOut (drainMx f sup) f = false) → n = 1 →
        zmapBit (t.tile i.val).mem.opbuf ⟨sup.zeroMap.addr, sup.zeroMap.first + 8 * sup.stride * row 0⟩ (strip 0) = (out 0).bit) ∧
      (sup.partialSum = false → scaledOut (drainMx f sup) f = true → n = 1 → ∀ r < 32,
        Memory.word (t.tile i.val).mem.opbuf (sup.outScales.toNat + 128 * row 0 + 4 * r) =
          Memory.word (s.tile i.val).mem.opbuf sup.outScale.toNat) ∧
      (u.poundOf i.val = none → TileOnly u t i.val) ∧
      (∀ hp q, u.poundOf i.val = some hp → (u.basin hp.1).pound hp.2 = q →
        ((s.tile i.val).core.drained + n < gs.1 * gs.2 → ((t.basin hp.1).pound hp.2).commits = q.commits ∧
          (t.tile i.val).core.drained = (s.tile i.val).core.drained + n) ∧
        (gs.1 * gs.2 ≤ (s.tile i.val).core.drained + n → (t.tile i.val).core.drained = 0 ∧ (q.pdef.ring.shape = 0 →
          (t.tile i.val).core.iters = (s.tile i.val).core.iters + 1 ∧ (t.tile i.val).core.sets = (s.tile i.val).core.sets.tail)) ∧
        (gs.1 * gs.2 ≤ (s.tile i.val).core.drained + n → q.pdef.ring.shape ≠ 0 →
          ∀ o l op, (s.tile i.val).core.ops = o :: l → o.rows ≠ 0 →
          op = ((u.ringPlace i.val hp).1 * q.plan.segs + o.seg) * State.groupCount q.pdef.ring.g (u.phraseRows hp.1 q) + o.group →
          (q.commits.contains op = false → op < u.phraseOps hp.1 q → ((t.basin hp.1).pound hp.2).commits = op :: q.commits ∧
            (t.tile i.val).core.stopped = (s.tile i.val).core.stopped) ∧
          ((q.commits.contains op = true ∨ u.phraseOps hp.1 q ≤ op) → (t.tile i.val).core.stopped = true)))) ∧
  (∀ (s u : State) (i : TileId) (first blocks : BitVec 5) (fc steps : BitVec 4) (fn : BitVec 6) (k : BitVec 2) (a : BitVec 12)
      (sup : DrainSupply), Issues s i.val (.drain first blocks fc steps fn k a) u →
    (fmtOfCode fc.toNat = none ∨ (fn ≠ 0 ∧ fn ≠ 13 ∧ fn ≠ 14 ∧ fn ≠ 15)) →
    exec (.drain i sup) s = .next (u.arrayFault i.val .unit)) ∧
  (∀ (s u : State) (i : TileId) (wr : Bool) (col : BitVec 16) (k : BitVec 2) (a : BitVec 12) (l : BitVec 11) (n c : Nat),
    Issues s i.val (.sram wr col k a l) u → n = 128 * (l.toNat + 1) → c = u.unitByte i.val (128 * col.toNat) →
    (wr = false → u.inShare (tileBasin i.val) c n = true → inBank (opAddr k a) n = true →
      ∃ t, exec (.sramRead i) s = .next t ∧
        Memory.read (t.tile i.val).mem.opbuf (opAddr k a) n = Memory.read (s.tile i.val).mem.column c n ∧
        (t.tile i.val).cnt = (s.tile i.val).cnt ∧ (t.tile i.val).core = (u.tile i.val).core ∧ TileOnly u t i.val ∧
        WritesOpbuf u t i.val (opAddr k a) n ∧
        ((s.tile i.val).mem.damaged .column (c / 4) (n / 4) = true → ∀ hp, s.poundOf i.val = some hp →
          ((t.basin hp.1).pound hp.2).taint = true)) ∧
    (wr = false → u.inShare (tileBasin i.val) c n = false →
      exec (.sramRead i) s = .next (u.arrayFault i.val .overflow)) ∧
    (wr = true → u.inDynamic (tileBasin i.val) (128 * col.toNat) n = true → inBank (opAddr k a) n = true →
      ∃ t, exec (.sramWrite i) s = .next t ∧
        Memory.read (t.tile i.val).mem.column (128 * col.toNat) n = Memory.read (s.tile i.val).mem.opbuf (opAddr k a) n ∧
        (∀ x, (x < 128 * col.toNat ∨ 128 * col.toNat + n ≤ x) →
          Memory.byte (t.tile i.val).mem.column x = Memory.byte (s.tile i.val).mem.column x) ∧
        t.tile i.val = { u.tile i.val with
          core := { (u.tile i.val).core with halves := (t.tile i.val).core.halves },
          mem := { (u.tile i.val).mem with column := (t.tile i.val).mem.column, parity := (t.tile i.val).mem.parity } } ∧
        ReadsOnly u t i.val) ∧
    (wr = true → u.inDynamic (tileBasin i.val) (128 * col.toNat) n = false →
      exec (.sramWrite i) s = .next (u.arrayFault i.val .overflow)))

/-- The control words of a schedule: ROUTE hands a flit from an input register to a neighbour in a given frame cycle (R106, R111), QUEUE
pushes with credits and pops what its tile stores (R114-R116, R213, R243), COUNTER claims a row group of its lane (R157-R159), LOOP goes back as
often as its count says (Table 3.6), END ends the phrase in its last cycle (R105, R162). -/
def Obligations.ControlWordsRouteQueueCountAndEnd : Prop :=
  (∀ (s u : State) (i : TileId) (o e : Side) (rep : BitVec 6) (ph : Fin 10) (x y : OpAddr) (acc : Option (BitVec 5)) (pick : Side → RouteSrc),
    pick = (fun d => if d = o then .side e else .none) →
    Issues s i.val (.route (pick .north) (pick .east) (pick .south) (pick .west) .none rep) u →
    ((∃ j, j ≤ rep.toNat ∧ ((frameCycle s.now ph.val + j) % 64 = 0 ∨ (s.tile i.val).given o ((frameCycle s.now ph.val + j) % 64) = false)) →
      ∃ t, exec (.route i ph x y acc) s = .next t ∧ t = u.arrayFault i.val .unit ∧ (t.tile i.val).core.stopped = true) ∧
    (∀ (a w : Nat) (f : Flit), rep = 0#6 → frameCycle s.now ph.val ≠ 0 → (s.tile i.val).given o (frameCycle s.now ph.val) = true →
      (∀ c, (s.tile i.val).net.route = some c → c.fed (u.tile i.val).core.cyc = true) →
      (s.tile i.val).net.input e = [(a, f)] →
      (if eastWest e = true ∧ o ≠ oppositeSide e then a + s.slack i.val f else a) ≤ (u.tile i.val).core.cyc →
      s.neighbour i.val o = some w → w ≠ i.val → s.borderOpen (tileBasin i.val) (tileBasin w) = true → (s.tile w).net.route = none →
      (s.tile w).net.input (oppositeSide o) = [] →
      ∃ t, exec (.route i ph x y acc) s = .next t ∧
        (t.tile w).net.input (oppositeSide o) = [((u.tile i.val).core.cyc + 1, s.outFlit i.val (.side e) o f)] ∧
        (t.tile i.val).net.input e = [] ∧ ((t.tile i.val).net.route.map (·.cycles)) = some 1 ∧
        (t.tile i.val).core = (u.tile i.val).core ∧ (t.tile i.val).mem = (u.tile i.val).mem ∧
        (∀ j, j ≠ i.val → j ≠ w → t.tile j = s.tile j) ∧ t = { u with tiles := t.tiles })) ∧
  (∀ (s u : State) (i : TileId) (q : BitVec 8) (k : BitVec 2) (a : BitVec 12) (m : BitVec 16) (n : Nat) (hp : Nat × Nat) (p : Pound)
      (z : Queue) (d : Nat → Nat × Nat), Issues s i.val (.queue false q k a m) u → n = m.toNat + 1 → u.poundOf i.val = some hp →
    (u.basin hp.1).pound hp.2 = p → z = u.queueOf (tileBasin i.val) q.toNat →
    d = (fun j => ((stripeTile (u.queueTiles z) (z.pushed + j)).bind fun v => u.position v).getD (0, 0)) →
    (p.pdef.outQ.contains q.toNat = false → exec (.queuePush i) s = .next (u.arrayFault i.val .unit)) ∧
    (p.pdef.outQ.contains q.toNat = true →
      (p.replaying = false → Tbl.get 0 q.toNat p.credits < n → exec (.queuePush i) s = .next (u.arrayFault i.val .overflow)) ∧
      (128 < (s.tile i.val).net.egress.length + n → exec (.queuePush i) s = .next (u.arrayFault i.val .overflow)) ∧
      (p.replaying = false → n ≤ Tbl.get 0 q.toNat p.credits → (s.tile i.val).net.egress.length + n ≤ 128 →
        inBank (opAddr k a) (64 * n) = true →
        (z.consumer = 0xFF ∨ ∀ j < n, u.position i.val ≠ some ((d j).1 % 32, (d j).2 % 32)) →
        ∃ t fl, exec (.queuePush i) s = .next t ∧ (t.tile i.val).net = { (s.tile i.val).net with
            egress := (s.tile i.val).net.egress ++ fl } ∧ fl.length = n ∧
          (∀ j, j < n → ∃ f : QFlit, fl[j]? = some f ∧ f.flit.queue = true ∧ f.flit.qid = q ∧ f.flit.dstRow = BitVec.ofNat 5 (d j).1 ∧
            f.flit.dstCol = BitVec.ofNat 5 (d j).2 ∧ f.flit.payload = Memory.words (s.tile i.val).mem.opbuf (opAddr k a + 64 * j) 16 ∧
            f.flit.epoch = (s.basin (tileBasin i.val)).cut.epoch ∧ f.step = p.step ∧ f.num = z.pushed + j ∧
            (∀ h, u.queueHome (tileBasin i.val) q.toNat = some h → f.home = h)) ∧
          Tbl.get 0 q.toNat ((t.basin hp.1).pound hp.2).credits = Tbl.get 0 q.toNat p.credits - n ∧
          (∀ h, u.queueHome (tileBasin i.val) q.toNat = some h → (t.basin h).queue q.toNat = z.push p.step n) ∧
          (t.tile i.val).mem.opbuf = (s.tile i.val).mem.opbuf ∧
          (t.tile i.val).core = { (u.tile i.val).core with halves := (t.tile i.val).core.halves } ∧
          (∀ j, j ≠ i.val → t.tile j = s.tile j) ∧ t = { s with tiles := t.tiles, basins := t.basins }))) ∧
  (∀ (s u : State) (i : TileId) (acc : Option (BitVec 5)) (q : BitVec 8) (k : BitVec 2) (a : BitVec 12) (m : BitVec 16) (n : Nat)
      (hp : Nat × Nat) (p : Pound) (z : Queue) (part : QPart) (got : List (Nat × Nat)), Issues s i.val (.queue true q k a m) u →
    n = m.toNat + 1 → u.poundOf i.val = some hp → (u.basin hp.1).pound hp.2 = p → z = u.queueOf (tileBasin i.val) q.toNat →
    part = Tbl.get QPart.fresh q.toNat (s.tile i.val).net.queue →
    got = ((part.stored.filter fun e => z.stepAt e.1 == some p.step).drop part.taken).take n →
    ((p.pdef.inQ.contains q.toNat = false ∨ got.length < n) → exec (.queuePop i acc) s = .next (u.arrayFault i.val .unit)) ∧
    (p.pdef.inQ.contains q.toNat = true → got.length = n → inBank (opAddr k a) (64 * n) = true →
      ∃ t, exec (.queuePop i acc) s = .next t ∧
        (∀ j e, got[j]? = some e → Memory.read (t.tile i.val).mem.opbuf (opAddr k a + 64 * j) 64 =
          Memory.read (s.tile i.val).mem.column (s.queueByte i.val z e.2) 64) ∧
        (t.tile i.val).net = { (s.tile i.val).net with
          queue := Tbl.set QPart.fresh q.toNat { part with taken := part.taken + n } (s.tile i.val).net.queue } ∧
        (∀ h, u.queueHome (tileBasin i.val) q.toNat = some h → (t.basin h).queue q.toNat = { z with popped := z.popped + n }) ∧
        (t.tile i.val).mem = { (s.tile i.val).mem with
          opbuf := (t.tile i.val).mem.opbuf, parity := (t.tile i.val).mem.parity, acc := (t.tile i.val).mem.acc } ∧
        ((acc = none ∨ p.pdef.splitK = false) →
          (t.tile i.val).mem.acc = (s.tile i.val).mem.acc ∧ (t.tile i.val).cnt = (s.tile i.val).cnt) ∧
        (∀ blk, acc = some blk → p.pdef.splitK = true → (t.tile i.val).mem.acc =
          (addPartials (Tbl.get .f8 blk.toNat (s.tile i.val).core.accMode == .i8) (1024 * blk.toNat)
            (Memory.words (t.tile i.val).mem.opbuf (opAddr k a) (16 * n)) ((u.tile i.val).freshRows blk.toNat
              ((List.range 32).filter fun r => decide (32 * r < 16 * n))).mem.acc).1) ∧
        (t.tile i.val).core = { (u.tile i.val).core with
          halves := (t.tile i.val).core.halves, stale := (t.tile i.val).core.stale } ∧
        ((acc = none ∨ p.pdef.splitK = false) → (t.tile i.val).core = (u.tile i.val).core) ∧ (∀ j, j ≠ i.val → t.tile j = s.tile j) ∧
        t = { s with tiles := t.tiles, basins := t.basins })) ∧
  (∀ (s u : State) (i : TileId) (r : Fin 16) (inc : BitVec 16) (hp : Nat × Nat) (p : Pound) (ph : PhraseP) (e : Nat × Nat × Nat × Nat)
      (c : Option Nat), Issues s i.val (.counter r inc) u → u.poundOf i.val = some hp → (u.basin hp.1).pound hp.2 = p → p.phrase = some ph →
    e = u.tileEntry i.val ph.phrase →
    c = claimFor p.plan (ringSize p.pdef.ring) e.2.2.1 (u.spReg i.val e.2.2.2) (u.tile i.val).core.cyc →
    ((c = none ∨ p.pdef.ring.shape = 0 ∨ (∃ m, c = some m ∧ m < (s.tile i.val).core.claims)) → exec (.counter i) s = .next u) ∧
    (∀ m sg l v n, c = some m → p.pdef.ring.shape ≠ 0 → (s.tile i.val).core.claims ≤ m →
      sg = m / max 1 (passesOf (ringSize p.pdef.ring) (State.groupCount p.pdef.ring.g (u.phraseRows hp.1 p))) →
      l = (u.ringPlace i.val hp).1 → v = Tbl.get 0 l (p.lanesFor sg) → n = groupRows p.pdef.ring.g (u.phraseRows hp.1 p) v →
      ∃ t, exec (.counter i) s = .next t ∧ Tbl.get 0#32 r.val (t.tile i.val).core.regs = BitVec.ofNat 32 v ∧
        Tbl.get 0#32 ((r.val + 1) % 16) (t.tile i.val).core.regs = BitVec.ofNat 32 n ∧
        (∀ x, x ≠ r.val → x ≠ (r.val + 1) % 16 →
          Tbl.get 0#32 x (t.tile i.val).core.regs = Tbl.get 0#32 x (s.tile i.val).core.regs) ∧
        (t.basin hp.1).pound hp.2 = { p with
          laneSeg := max p.laneSeg sg, lanes := Tbl.set 0 l (v + inc.toNat) (p.lanesFor sg) } ∧
        (t.tile i.val).core = { (u.tile i.val).core with
          regs := (t.tile i.val).core.regs, claims := m + 1, ops := (s.tile i.val).core.ops ++ [⟨sg, v, n⟩] } ∧
        (t.tile i.val).mem = (u.tile i.val).mem ∧ (t.tile i.val).net = (s.tile i.val).net ∧
        (∀ j, j ≠ i.val → t.tile j = s.tile j) ∧ t = { s with tiles := t.tiles, basins := t.basins })) ∧
  (∀ (s u : State) (i : TileId) (w : BitVec 6) (fr : Bool) (k : BitVec 16) (pc n left : Nat), Issues s i.val (.loop w fr k) u →
    pc = (s.tile i.val).core.pc → n = (if fr then (Tbl.get 0#32 (k.toNat % 16) (s.tile i.val).core.regs).toNat else k.toNat) →
    left = Tbl.get 0 pc (s.tile i.val).core.loops →
    (left = 0 → n = 0 → ∃ t, exec (.loop i) s = .next t ∧ (t.tile i.val).core = (u.tile i.val).core) ∧
    ((left ≠ 0 ∨ n ≠ 0) → ∃ t l, exec (.loop i) s = .next t ∧
      l = (if left = 0 then n else left - 1) ∧
      (t.tile i.val).core = { (u.tile i.val).core with
        pc := (if left = 1 then pc + 1 else pc - (w.toNat + 1)), loops := Tbl.set 0 pc l (s.tile i.val).core.loops } ∧
      (t.tile i.val).mem = (u.tile i.val).mem ∧ (∀ j, j ≠ i.val → t.tile j = s.tile j) ∧ t = { u with tiles := t.tiles })) ∧
  (∀ (s u : State) (i : TileId) (hp : Nat × Nat) (p : Pound), Issues s i.val .endWord u → u.poundOf i.val = some hp →
    (u.basin hp.1).pound hp.2 = p →
    ((u.tile i.val).core.cyc + 1 ≠ (s.tile i.val).core.len →
      ∃ t, exec (.endWord i) s = .next t ∧ (t.tile i.val).core.stopped = true ∧ ((t.basin hp.1).pound hp.2).stopped = true) ∧
    ((u.tile i.val).core.cyc + 1 = (s.tile i.val).core.len →
      (∀ c, (s.tile i.val).net.route = some c → c.fed (s.tile i.val).core.len = true) →
      (State.overwritten (s.tile i.val) (s.tile i.val).core.len = true →
        exec (.endWord i) s = .next (u.arrayFault i.val .overflow)) ∧
      (State.overwritten (s.tile i.val) (s.tile i.val).core.len = false → p.phrase.bind (·.half) = none → (∀ g, p.phrase = some g → g.kind ≠ .grouped) →
      ∃ t, exec (.endWord i) s = .next t ∧ (t.tile i.val).core.inPhrase = false ∧ (t.tile i.val).core.loops = [] ∧
        (t.tile i.val).mem = (u.tile i.val).mem ∧ (t.tile i.val).net = { (s.tile i.val).net with route := none } ∧
        (p.phraseOn = true → (∀ v ∈ u.poundTiles hp.1 hp.2, v ≠ i.val → (s.tile v).core.inPhrase = false) →
          ((t.basin hp.1).pound hp.2).phraseOn = false ∧
          (commitsWhole u hp.1 p = false → (t.tile i.val).core.stopped = true) ∧
          (commitsWhole u hp.1 p = true → (t.basin hp.1).pound hp.2 = { p with phraseOn := false })) ∧
        ((∃ v ∈ u.poundTiles hp.1 hp.2, v ≠ i.val ∧ (s.tile v).core.inPhrase = true) → t.basins = u.basins) ∧
        (∀ j, j ≠ i.val → t.tile j = s.tile j))))

/-- The next queue flit of a neighbour arrives, in a cycle that its launch mask allows and the pound was not given, and is stored in the column of its
destination, or holds its link for a replay when a word is bad (R98, R113, R250); credits come back (R115); a gather fills its staging area inside
the dynamic region alone, with the flits of the claimed group, at one place for each area and within the rotation before the group's use (R160; log
entry 180); the last barge of a landing half sets its flag where one came and none failed (R326). -/
def Obligations.QueueFlitsCreditsAndGathersLand : Prop :=
  (∀ (s : State) (i : TileId) (d : Side) (ph : Fin 10) (flip : BitVec 16) (f : QFlit) (u fc : Nat) (o : Side) (z : Queue)
      (part : QPart) (tiles : List Nat) (place : Nat),
    s.neighbour i.val d = some u → u ≠ i.val → o = oppositeSide d → fc = frameCycle s.now ph.val → fc ≠ 0 →
    (((s.tile u).net.transit.find? fun g => s.leavesBy u o g) = some f ∨
      (((s.tile u).net.transit.find? fun g => s.leavesBy u o g) = none ∧
        ((s.tile u).net.egress.find? fun g => s.leavesBy u o g && (s.flitQueue g).launch.getLsbD fc) = some f)) →
    ((s.tile u).given o fc = true → ∃ t, exec (.queueFlitArrival i d ph flip) s = .next t ∧ (t.tile u).core.stopped = true ∧
      t.tile i.val = s.tile i.val) ∧
    ((s.tile u).given o fc = false → s.borderOpen (tileBasin u) (tileBasin i.val) = true →
      (∀ k, Tbl.get none (sideCode d) (s.tile i.val).net.replayFrom = some k → ∃ t, exec (.queueFlitArrival i d ph flip) s = .next t ∧
        Tbl.get none (sideCode d) (t.tile i.val).net.replayFrom = some (k + 1) ∧ (t.tile i.val).net.queue = (s.tile i.val).net.queue ∧
        (t.tile i.val).mem = (s.tile i.val).mem ∧ (∀ j, j ≠ i.val → j ≠ u → t.tile j = s.tile j) ∧ t = { s with tiles := t.tiles }) ∧
      (Tbl.get none (sideCode d) (s.tile i.val).net.replayFrom = none →
      (badFlit (struck f flip).flit = true → ∃ t, exec (.queueFlitArrival i d ph flip) s = .next t ∧
        Tbl.get none (sideCode d) (t.tile i.val).net.replayFrom = some 0 ∧ (t.tile i.val).net.queue = (s.tile i.val).net.queue ∧
        (t.tile i.val).mem = (s.tile i.val).mem ∧ (∀ j, j ≠ i.val → j ≠ u → t.tile j = s.tile j) ∧ t = { s with tiles := t.tiles }) ∧
      (badFlit (struck f flip).flit = false → s.position i.val = some (f.flit.dstRow.toNat, f.flit.dstCol.toNat) →
        f.flit.epoch = (s.basin (tileBasin i.val)).cut.epoch → z = s.flitQueue f → tiles = s.queueTiles z →
        tiles.idxOf? i.val = some place → part = Tbl.get QPart.fresh f.flit.qid.toNat (s.tile i.val).net.queue →
        part.stored.length < z.perTile tiles.length →
        ∃ t, exec (.queueFlitArrival i d ph flip) s = .next t ∧
          Tbl.get QPart.fresh f.flit.qid.toNat (t.tile i.val).net.queue =
            ⟨part.arrived + 1, part.stored ++ [(if z.producer = 0xFF then part.arrived * tiles.length + place else f.num,
              part.arrived % max 1 (z.perTile tiles.length))], part.taken⟩ ∧
          Memory.read (t.tile i.val).mem.column (s.queueByte i.val z (part.arrived % max 1 (z.perTile tiles.length))) 64 = flitData f.flit ∧
          (t.tile i.val).core = (s.tile i.val).core ∧
          (∀ j, j ≠ i.val → j ≠ u → t.tile j = s.tile j) ∧ t = { s with tiles := t.tiles })))) ∧
  (∀ (s : State) (i : TileId) (d : Side) (ph : Fin 10) (flip : BitVec 16) (k : Nat) (e : QFlit) (sent after : List QFlit) (u fc : Nat),
    Tbl.get none (sideCode d) (s.tile i.val).net.replayFrom = some k → s.neighbour i.val d = some u → fc = frameCycle s.now ph.val →
    sent = Tbl.get [] (sideCode (oppositeSide d)) (s.tile u).net.last → sent.drop (sent.length - (k + 1)) = e :: after →
    ((fc = 0 ∨ (s.flitQueue e).launch.getLsbD fc = false) → exec (.meshLinkReplay i d ph flip) s = .next s) ∧
    (fc ≠ 0 → (s.flitQueue e).launch.getLsbD fc = true →
      ∃ t, exec (.meshLinkReplay i d ph flip) s = .next t ∧ Tbl.get none (sideCode d) (t.tile i.val).net.replayFrom = none ∧
        (t.basin (tileBasin i.val)).par = { (s.basin (tileBasin i.val)).par with
          link := satAdd (s.basin (tileBasin i.val)).par.link 1 } ∧
        t = { s with basins := t.basins, tiles := t.tiles, trace := t.trace })) ∧
  (∀ (s : State) (i : TileId) (d : Side) (ph : Fin 10) (flip : BitVec 16),
    (s.neighbour i.val d = none → exec (.queueFlitArrival i d ph flip) s = .next s) ∧
    (Tbl.get none (sideCode d) (s.tile i.val).net.replayFrom = none → exec (.meshLinkReplay i d ph flip) s = .next s)) ∧
  (∀ (s : State) (b : BasinId) (p : PoundId) (q : BitVec 8) (n k : Nat), k = min n (s.queueOf b.val q.toNat).owed →
    ∃ t, exec (.creditReturn b p q n) s = .next t ∧
      Tbl.get 0 q.toNat ((t.basin b.val).pound p.val).credits =
        min (s.queueOf b.val q.toNat).depth (Tbl.get 0 q.toNat ((s.basin b.val).pound p.val).credits + k) ∧
      (∀ h, s.queueHome b.val q.toNat = some h → ((t.basin h).queue q.toNat).owed = (s.queueOf b.val q.toNat).owed - k) ∧
      (∀ h i, ¬ (h = b.val ∧ i = p.val) → (t.basin h).pound i = (s.basin h).pound i) ∧ t = { s with basins := t.basins }) ∧
  (∀ (s : State) (i : TileId) (ar : Bool) (col : BitVec 23) (q : BitVec 8) (x n : Nat) (hp : Nat × Nat) (p : Pound) (o : TileOp)
      (y : TileCore), s.poundOf i.val = some hp → (s.basin hp.1).pound hp.2 = p → y = (s.tile i.val).core →
    ((p.pdef.ring.shape = 0 ∧ o = ⟨0, y.gathers, s.iterRows hp y.gathers⟩) ∨
      (p.pdef.ring.shape ≠ 0 ∧ y.gathers < y.claims ∧ y.ops[y.gathers + y.ops.length - y.claims]? = some o)) →
    (s.gatherData hp o q.toNat x n = none → exec (.gatherComplete i ar col q x n) s = .next s) ∧
    (∀ bs bad, s.gatherData hp o q.toNat x n = some (bs, bad) →
      ((ar ≠ decide (y.gathers % 2 = 1) ∨ p.phraseOn = false ∨
          ((∀ g, p.phrase = some g → g.kind ≠ .grouped) ∧
            (x, n) ≠ groupFlits (s.queueOf hp.1 q.toNat) (max 1 p.pdef.ring.g) (s.phraseRows hp.1 p) o.group) ∨
          (∃ c, Tbl.get none (bit1 ar) (y.stage.map fun e => (e.1, some e.2)) = some c ∧ c ≠ col.toNat) ∨
          p.plan.fill + ((p.phrase.map fun g => (s.tileEntry i.val g.phrase).2.2.1).getD 0) * y.gathers < y.cyc) →
        exec (.gatherComplete i ar col q x n) s = .next s) ∧
      (ar = decide (y.gathers % 2 = 1) → p.phraseOn = true →
        ((∃ g, p.phrase = some g ∧ g.kind = .grouped) ∨
          (x, n) = groupFlits (s.queueOf hp.1 q.toNat) (max 1 p.pdef.ring.g) (s.phraseRows hp.1 p) o.group) →
        (∀ c, Tbl.get none (bit1 ar) (y.stage.map fun e => (e.1, some e.2)) = some c → c = col.toNat) →
        y.cyc ≤ p.plan.fill + ((p.phrase.map fun g => (s.tileEntry i.val g.phrase).2.2.1).getD 0) * y.gathers →
        (bs.length ≤ p.pdef.ring.stageBytes → s.inDynamic (tileBasin i.val) col.toNat bs.length = true →
          ∃ t, exec (.gatherComplete i ar col q x n) s = .next t ∧
            Memory.read (t.tile i.val).mem.column col.toNat bs.length = bs ∧
            (∀ z, (z < col.toNat ∨ col.toNat + bs.length ≤ z) →
              Memory.byte (t.tile i.val).mem.column z = Memory.byte (s.tile i.val).mem.column z) ∧
            t.tile i.val = { s.tile i.val with
              core := { y with gathers := y.gathers + 1, stage := Tbl.set 0 (bit1 ar) col.toNat y.stage },
              mem := { (s.tile i.val).mem with column := (t.tile i.val).mem.column, parity := (t.tile i.val).mem.parity } } ∧
            (∀ j, j ≠ i.val → t.tile j = s.tile j) ∧ t = { s with tiles := t.tiles }) ∧
        ((p.pdef.ring.stageBytes < bs.length ∨ s.inDynamic (tileBasin i.val) col.toNat bs.length = false) →
          exec (.gatherComplete i ar col q x n) s = .next (s.arrayFault i.val .overflow))))) ∧
  (∀ (s : State) (i : TileId) (h : Bool),
    ((s.halfComing i.val h = true ∨ Tbl.get 0 (bit1 h) (s.tile i.val).core.came ≠ 1) → exec (.halfLanded i h) s = .next s) ∧
    (s.halfComing i.val h = false → Tbl.get 0 (bit1 h) (s.tile i.val).core.came = 1 →
      ∃ t, exec (.halfLanded i h) s = .next t ∧ Tbl.get 0 (if h then 1 else 0) (t.tile i.val).core.halves = 1 ∧
        Tbl.get 0 (if h then 0 else 1) (t.tile i.val).core.halves = Tbl.get 0 (if h then 0 else 1) (s.tile i.val).core.halves ∧
        t.tile i.val = { s.tile i.val with core := { (s.tile i.val).core with halves := (t.tile i.val).core.halves } } ∧
        (∀ j, j ≠ i.val → t.tile j = s.tile j) ∧ t = { s with tiles := t.tiles }))

/-! ### Sluice and collectives -/

/-- The routing pass sends every peer one dispatch message with the records of its experts, keeps its own, and counts NaN tokens
(R182, R188-R190, R210); a dispatch message is held once for each peer, and a foreign epoch, a wrong kind or step, or a full buffer faults the
route's pound (R192, R211); the mooring pass admits up to the capacity in effect, cap or max_expert_rows of the
active cut (R193), writes the table and counts what it drops (R194-R199, R210); a pass
that reads a damaged word leaves nothing and runs again, one whose buffers met a parity error runs again and counts nothing twice (R204). -/
def Obligations.SluiceRoutesDispatchesAndMoors : Prop :=
  (∀ (s : State) (b : BasinId) (c : CtxId) (r : BitVec 5) (n : BitVec 32) (toks : List RouteTok) (rr : RouteRec) (k0 : RouteStep)
      (recs : Nat → List DispatchRec) (hdr : List DispatchRec → A2AHdr) (got : List (Nat × A2AHdr × List DispatchRec)),
    (s.basin b.val).route c.val r.toNat = rr → (s.basin b.val).routeStep c.val r.toNat n.toNat = k0 →
    (s.basin b.val).routeCurrent c.val r.toNat = true →
    recs = (fun p => toks.filterMap fun x => (selectExperts rr x.logits).bind fun y => dispatchRec rr p x y.1) →
    hdr = (fun l => a2aHdr 1 r.toNat rr.self n.toNat l.length ((l.map fun d => (maskSlots d.mask).length).foldl (· + ·) 0) 0) →
    got = (k0.got.filter fun g => g.1 != rr.self) ++ [(rr.self, hdr (recs rr.self), recs rr.self)] →
    (k0.routed = false → (s.basin b.val).sluice.intake.any (fun w => w.1 == c.val && w.2.1 == n.toNat) = true →
      ∃ t, exec (.routingPass b c r n toks) s = .next t ∧ (t.basin b.val).sluice = { (s.basin b.val).sluice with
          intake := (s.basin b.val).sluice.intake.filter fun w => !(w.1 == c.val && w.2.1 == n.toNat) } ∧ t = { s with basins := t.basins }) ∧
    (k0.routed = false → (s.basin b.val).sluice.intake.any (fun w => w.1 == c.val && w.2.1 == n.toNat) = false →
      s.bufferFull b.val c.val r.toNat n.toNat got = true →
      exec (.routingPass b c r n toks) s = .next (s.sluiceFault b.val c.val r.toNat .overflow)) ∧
    (k0.routed = false → (s.basin b.val).sluice.intake.any (fun w => w.1 == c.val && w.2.1 == n.toNat) = false →
      s.bufferFull b.val c.val r.toNat n.toNat got = false →
      ∃ t k, exec (.routingPass b c r n toks) s = .next t ∧ (t.basin b.val).routeStep c.val r.toNat n.toNat = k ∧ k.routed = true ∧
        k.got = got ∧ k.sent = (List.range rr.peers).map (fun p => (p, recs p)) ∧
        (∀ p, p < rr.peers → p ≠ rr.self → ∃ m ∈ t.msgs, m.src = b.val ∧ m.msg = .dispatch c.val (hdr (recs p)) (recs p)) ∧
        (t.basin b.val).sluice.nanTok = satAdd (s.basin b.val).sluice.nanTok
          ((toks.filter fun x => (selectExperts rr x.logits).isNone).length) ∧
        (t.basin b.val).sluice.drops = (s.basin b.val).sluice.drops ∧
        t = { s with basins := t.basins, msgs := t.msgs, fab := t.fab, freeCtr := t.freeCtr, trace := t.trace }) ∧
    (k0.routed = true → k0.rowBad.any (fun w => w.1 == rr.self) = true →
      ∃ t k, exec (.routingPass b c r n toks) s = .next t ∧ (t.basin b.val).routeStep c.val r.toNat n.toNat = k ∧
        k = { k0 with sent := k.sent, got := got, rowBad := k0.rowBad.filter fun w => w.1 != rr.self } ∧
        (t.basin b.val).sluice.nanTok = (s.basin b.val).sluice.nanTok ∧ t = { s with basins := t.basins })) ∧
  (∀ (s : State) (b : BasinId) (c : CtxId) (r : BitVec 5) (n : BitVec 32) (toks : List RouteTok),
    ((s.basin b.val).routeCurrent c.val r.toNat = false ∨
      (((s.basin b.val).routeStep c.val r.toNat n.toNat).routed = true ∧
        ((s.basin b.val).routeStep c.val r.toNat n.toNat).rowBad.any (fun w => w.1 == ((s.basin b.val).route c.val r.toNat).self) = false)) → exec (.routingPass b c r n toks) s = .next s) ∧
  (∀ (s : State) (b : BasinId) (c : CtxId) (h : A2AHdr) (e : BitVec 2) (recs : List DispatchRec) (k : RouteStep)
      (got : List (Nat × A2AHdr × List DispatchRec)), (s.basin b.val).routeStep c.val h.route.toNat h.step.toNat = k →
    got = k.got ++ [(h.source.toNat, h, recs)] →
    (e ≠ (s.basin b.val).cut.epoch → exec (.dispatch b c h e recs) s = .next (s.sluiceFault b.val c.val h.route.toNat .epoch)) ∧
    (e = (s.basin b.val).cut.epoch → (h.kind ≠ 1#8 ∨ (s.basin b.val).routeCurrent c.val h.route.toNat = false ∨
        s.stepHeld b.val c.val h.route.toNat h.step.toNat = false) →
      exec (.dispatch b c h e recs) s = .next (s.sluiceFault b.val c.val h.route.toNat .unit)) ∧
    (e = (s.basin b.val).cut.epoch → h.kind = 1#8 → (s.basin b.val).routeCurrent c.val h.route.toNat = true →
      s.stepHeld b.val c.val h.route.toNat h.step.toNat = true →
      ((∃ g ∈ k.got, g.1 = h.source.toNat) → exec (.dispatch b c h e recs) s = .next s) ∧
      ((∀ g ∈ k.got, g.1 ≠ h.source.toNat) → s.bufferFull b.val c.val h.route.toNat h.step.toNat got = true →
        exec (.dispatch b c h e recs) s = .next (s.sluiceFault b.val c.val h.route.toNat .overflow)) ∧
      ((∀ g ∈ k.got, g.1 ≠ h.source.toNat) → s.bufferFull b.val c.val h.route.toNat h.step.toNat got = false →
        ∃ t, exec (.dispatch b c h e recs) s = .next t ∧
          (t.basin b.val).routeStep c.val h.route.toNat h.step.toNat = { k with got := got } ∧ t = { s with basins := t.basins }))) ∧
  (∀ (s : State) (b : BasinId) (c : CtxId) (r : BitVec 5) (n : BitVec 32) (k : RouteStep) (rr : RouteRec) (cap : Nat)
      (l : Nat → List (Nat × Nat × Nat × BitVec 32)), (s.basin b.val).routeStep c.val r.toNat n.toNat = k →
    (s.basin b.val).route c.val r.toNat = rr → cap = s.capacity b.val c.val → l = slotPairs (dispatchRows k rr.peers) rr.peers →
    (s.basin b.val).routeCurrent c.val r.toNat = true →
    (∀ p, p < rr.peers → ∃ g ∈ k.got, g.1 = p ∧ g.2.1.records.toNat = g.2.2.length) →
    (k.moored = false → (∀ area, s.mooringArea b.val = some area → 32 + 32 * rr.local_ ≤ area) →
      ∃ t m, exec (.mooringPass b c r n) s = .next t ∧ (t.basin b.val).routeStep c.val r.toNat n.toNat = m ∧ m.moored = true ∧
        (∀ i, i < rr.local_ → (i, (l i).take cap) ∈ m.admitted ∧ (i, ((l i).take cap).length, ((l i).drop cap).length) ∈ m.table) ∧
        m.admitted.length = rr.local_ ∧ m.table.length = rr.local_ ∧
        m.area = mooringBytes ((((s.basin b.val).activeShare).map (·.cutId)).getD 0) r.toNat n.toNat cap rr (dispatchRows k rr.peers)
          ((List.range rr.local_).map fun i => (i, (l i).take cap, ((l i).drop cap).length)) ∧
        (t.basin b.val).sluice.drops = satAdd (s.basin b.val).sluice.drops
          (((List.range rr.local_).map fun i => ((l i).drop cap).length).foldl (· + ·) 0) ∧
        (t.basin b.val).sluice.empty = satAdd (s.basin b.val).sluice.empty
          (((List.range rr.local_).filter fun i => ((l i).take cap).isEmpty).length) ∧
        t = { s with basins := t.basins, msgs := t.msgs, fab := t.fab, freeCtr := t.freeCtr, trace := t.trace }) ∧
    (k.moored = false → (∃ area, s.mooringArea b.val = some area ∧ area < 32 + 32 * rr.local_) →
      exec (.mooringPass b c r n) s = .next (s.sluiceFault b.val c.val r.toNat .overflow)) ∧
    (k.moored = true → k.areaBad ≠ [] →
      ∃ t m, exec (.mooringPass b c r n) s = .next t ∧ (t.basin b.val).routeStep c.val r.toNat n.toNat = m ∧
        m.areaBad = [] ∧ m.rowBad = k.rowBad ∧ m.sent = k.sent ∧ m.got = k.got ∧
        (t.basin b.val).sluice.drops = (s.basin b.val).sluice.drops ∧ t = { s with basins := t.basins })) ∧
  (∀ (s : State) (b : BasinId) (c : CtxId) (r : BitVec 5) (n : BitVec 32),
    ((s.basin b.val).routeCurrent c.val r.toNat = false ∨ (((s.basin b.val).routeStep c.val r.toNat n.toNat).moored = true ∧
      ((s.basin b.val).routeStep c.val r.toNat n.toNat).areaBad = [])) → exec (.mooringPass b c r n) s = .next s) ∧
  (∀ (s : State) (b c cap : Nat) (h : Share), (s.basin b).activeShare = some h → cap = ((s.basin b).cap c).toNat →
    (1 ≤ cap → cap ≤ h.maxExpert → s.capacity b c = cap) ∧ ((cap = 0 ∨ h.maxExpert < cap) → s.capacity b c = h.maxExpert))

/-- Combine messages are held once for each peer under the checks of a dispatch message (R192, R206); when all are there, each token's
contribution adds the own fan-in first, then each peer's in ascending index (R207); REDUCE, GATHER and HANDOFF hold one message for each
sender and give their result when every participant's is there (R387, R388). -/
def Obligations.CombinesAndCollectivesGather : Prop :=
  (∀ (s : State) (b : BasinId) (c : CtxId) (h : A2AHdr) (e : BitVec 2) (recs : List CombineRec) (k : RouteStep),
    (s.basin b.val).routeStep c.val h.route.toNat h.step.toNat = k →
    (e ≠ (s.basin b.val).cut.epoch → exec (.combine b c h e recs) s = .next (s.sluiceFault b.val c.val h.route.toNat .epoch)) ∧
    (e = (s.basin b.val).cut.epoch → (h.kind ≠ 2#8 ∨ (s.basin b.val).routeCurrent c.val h.route.toNat = false ∨
        s.stepHeld b.val c.val h.route.toNat h.step.toNat = false) →
      exec (.combine b c h e recs) s = .next (s.sluiceFault b.val c.val h.route.toNat .unit)) ∧
    (e = (s.basin b.val).cut.epoch → h.kind = 2#8 → (s.basin b.val).routeCurrent c.val h.route.toNat = true →
      s.stepHeld b.val c.val h.route.toNat h.step.toNat = true →
      ((∃ g ∈ k.combined, g.1 = h.source.toNat) → exec (.combine b c h e recs) s = .next s) ∧
      ((∀ g ∈ k.combined, g.1 ≠ h.source.toNat) →
        ∃ t, exec (.combine b c h e recs) s = .next t ∧ (t.basin b.val).routeStep c.val h.route.toNat h.step.toNat =
          { k with combined := k.combined ++ [(h.source.toNat, h, recs)] } ∧ t = { s with basins := t.basins }))) ∧
  (∀ (s : State) (b : BasinId) (c : CtxId) (r : BitVec 5) (n : BitVec 32) (k : RouteStep) (rr : RouteRec),
    (s.basin b.val).routeStep c.val r.toNat n.toNat = k → (s.basin b.val).route c.val r.toNat = rr →
    ((k.routed = false ∨ k.complete = true ∨ combineWhole k rr = false) → exec (.combineComplete b c r n) s = .next s) ∧
    (k.routed = true → k.complete = false → combineWhole k rr = true →
      ∃ t m, exec (.combineComplete b c r n) s = .next t ∧ (t.basin b.val).routeStep c.val r.toNat n.toNat = m ∧
        m = { k with complete := true, contrib := m.contrib } ∧ t = { s with basins := t.basins } ∧
        ∀ e ∈ k.sent, ∀ d ∈ e.2, ∃ v, (d.tag.toNat, v) ∈ m.contrib ∧
          v = (rr.self :: (List.range rr.peers).filter (· != rr.self)).foldl (fun a p =>
            match ((((k.combined.find? fun g => g.1 == p).map (·.2.2)).getD []).find? fun x =>
              x.tag.toNat == d.tag.toNat && x.applied != 0#16) with
            | some x => addRows a x.row
            | none => a) [])) ∧
  (∀ (s : State) (b : BasinId) (c : CtxId) (h : A2AHdr) (e : BitVec 2) (n kind : Nat) (vals : List (BitVec 32)) (i : Instr),
    ((i = .reduce b c h e n vals ∧ kind = 3) ∨ (i = .gather b c h e n vals ∧ kind = 4) ∨ (i = .handoff b c h e n vals ∧ kind = 5)) →
    (e ≠ (s.basin b.val).cut.epoch → exec i s = .next (s.sluiceFault b.val c.val h.route.toNat .epoch)) ∧
    (e = (s.basin b.val).cut.epoch → h.kind.toNat = kind →
      (∀ k ∈ (s.basin b.val).sluice.colls, k.ctx = c.val → k.kind = kind → k.route = h.route.toNat → k.step = h.step.toNat →
        ∀ x ∈ k.parts, x.1 ≠ h.source.toNat) →
      ∃ t k, exec i s = .next t ∧ k ∈ (t.basin b.val).sluice.colls ∧ k.ctx = c.val ∧ k.kind = kind ∧ k.route = h.route.toNat ∧
        k.step = h.step.toNat ∧ (h.source.toNat, vals) ∈ k.parts ∧
        (n ≤ k.parts.length → k.result = some (collResult kind k.parts)) ∧
        (k.parts.length < n → (∀ y ∈ (s.basin b.val).sluice.colls, y.result = none) → k.result = none) ∧
        t = { s with basins := t.basins }))

/-! ### Barges and tows -/

/-- A tow of 1 to 64 descriptors joins its context's queue, and its barge takes the lowest free slot while the quota has one (R308, R309,
R317); a descriptor that fails the checks at issue never starts and its tow records BAD_PARAM (R313); a barge lands whole after the checks of Table 8.6, or not at all (R313, R314); its end frees the slot and counts in its tow (R308,
R318), and the last end writes the tow's completion word and notifies where the header asks for it (R318, Table 8.7). -/
def Obligations.BargesStartLandAndComplete : Prop :=
  (∀ (s : State) (b : BasinId) (c : CtxId) (h : TowHdr) (ds : List BargeHdr) (q : List Tow),
    q = (Tbl.get [] c.val (s.basin b.val).eng.tows).filter (fun t => !t.chained) →
    ((((s.basin b.val).ctx c.val).exist = false ∨ 64 ≤ q.length ∨ ds = [] ∨ 64 < ds.length) → exec (.towPost b c h ds) s = .next s) ∧
    (((s.basin b.val).ctx c.val).exist = true → q.length < 64 → ds ≠ [] → ds.length ≤ 64 →
      (h.next = 0#64 → (∀ d ∈ ds, (hdrOk d && ownChannels d) = true) →
        (∀ v ∈ Tbl.get [] c.val (s.basin b.val).eng.tows, ∀ d ∈ v.waiting, (hdrOk d && ownChannels d) = true) →
        ∃ t w, exec (.towPost b c h ds) s = .next t ∧ w ∈ Tbl.get [] c.val (t.basin b.val).eng.tows ∧ w.hdr = h ∧
          w.id = (s.basin b.val).eng.nextTow ∧ (t.basin b.val).eng.nextTow = (s.basin b.val).eng.nextTow + 1 ∧
          t = { s with basins := t.basins, msgs := t.msgs, fab := t.fab, ptb := t.ptb, freeCtr := t.freeCtr }) ∧
      ∃ t, exec (.towPost b c h ds) s = .next t)) ∧
  (∀ (s : State) (b : BasinId) (c : CtxId) (h : TowHdr) (d : BargeHdr) (x : Basin), s.basin b.val = x → h.next = 0#64 →
    Tbl.get [] c.val x.eng.tows = [] → (x.ctx c.val).exist = true → (x.brgCtx c.val).inUse.toNat < (x.brgCtx c.val).quota.toNat →
    x.st.state = .serving → (hdrOk d && ownChannels d) = false → d.cls ≠ .background →
    (∀ p ∈ x.pounds, p.2.ctx = c.val → p.2.pdef.height = 0) →
    ∃ t w, exec (.towPost b c h [d]) s = .next t ∧ Tbl.get [] c.val (t.basin b.val).eng.tows = [w] ∧ w.waiting = [] ∧ w.running = 0 ∧
      w.first = some .badParam ∧ (t.basin b.val).eng.slots = x.eng.slots ∧ t = { s with basins := t.basins }) ∧
  (∀ (s : State) (b : BasinId) (c : CtxId) (h : TowHdr) (d : BargeHdr) (k : Nat) (x : Basin), s.basin b.val = x →
    h.next = 0#64 → Tbl.get [] c.val x.eng.tows = [] → (x.ctx c.val).exist = true → (x.brgCtx c.val).inUse.toNat < (x.brgCtx c.val).quota.toNat →
    x.st.state = .serving → hdrOk d = true → ownChannels d = true → (s.locBasin b.val (locOrdinal d.dst)).isSome = true → k < 1024 →
    (Tbl.get BargeSlot.fresh k x.eng.slots).hdr.rows = 0 →
    (∀ j, j < k → (Tbl.get BargeSlot.fresh j x.eng.slots).hdr.rows ≠ 0) →
    ∃ t sl w, exec (.towPost b c h [d]) s = .next t ∧ Tbl.get BargeSlot.fresh k (t.basin b.val).eng.slots = sl ∧
      sl.hdr = { d with
        slot := BitVec.ofNat 10 k, generation := x.gen, origin := BitVec.ofNat 10 ((s.ordinal b.val).getD 0),
        epoch := (x.slot x.cut.activeSlot.toNat).tag } ∧
      sl.status = none ∧ sl.remote = false ∧ sl.owner = c.val ∧ (t.basin b.val).eng.issued = satAdd x.eng.issued 1 ∧
      ((t.basin b.val).brgCtx c.val).inUse = (x.brgCtx c.val).inUse + 1 ∧
      Tbl.get [] c.val (t.basin b.val).eng.tows = [w] ∧ w.waiting = [] ∧ w.running = 1 ∧ w.okCount = 0 ∧
      t = { s with basins := t.basins, msgs := t.msgs, fab := t.fab, ptb := t.ptb, freeCtr := t.freeCtr }) ∧
  (∀ (s : State) (b i : BasinId) (h : BargeHdr) (data bs : List Byte) (sl : BargeSlot),
    (s.basin b.val).st.state = .serving → s.locBasin b.val h.origin.toNat = some i.val →
    Tbl.get BargeSlot.fresh h.slot.toNat (s.basin i.val).eng.slots = sl → sl.hdr = h → sl.members = [] → sl.status = none →
    (s.destCheck b.val h [h] = .ok → s.sourceWaits i.val sl.owner h.src (hdrBytes h) = false → s.moveWaits b.val h.dst = false →
      s.behind i.val sl [h] = false →
      bs = (s.sourceBytes i.val sl.owner h.src (hdrBytes h)).getD
        (data.take (hdrBytes h) ++ List.replicate (hdrBytes h - data.length) 0#8) →
      ∃ t, exec (.bargeArrival b h data) s = .next t ∧
        (Tbl.get BargeSlot.fresh h.slot.toNat (t.basin i.val).eng.slots) = { sl with status := some .ok } ∧
        (∀ o p k a, h.dst = .opbuf o p k a →
          Memory.read (t.tile (s.posTile b.val p)).mem.opbuf (65536 * k.toNat + a.toNat) bs.length = bs) ∧
        (∀ o p a, h.dst = .sram o p a → Memory.read (t.tile (s.posTile b.val p)).mem.column a.toNat bs.length = bs) ∧
        (∀ o a, h.dst = .lpddr o a → h.cls ≠ .background → bs.length = hdrBytes h → hdrBytes h + a.toNat % 128 ≤ 128 →
          (∀ k w, ((s.basin b.val).way k w).ctx ≠ 4 → ((s.basin b.val).way k w).bytes.length = 128) →
          (t.basin b.val).peek s.basinLines h.ctx.val a.toNat bs.length = bs) ∧
        (∀ o a, h.dst = .sluice o a → Memory.read (t.basin b.val).sluice.buf a.toNat bs.length = bs) ∧
        (∀ o a, h.dst = .mgmt o a → Memory.read t.mgmt.mem a.toNat bs.length = bs) ∧
        t = { s with
          basins := t.basins, tiles := t.tiles, flash := { s.flash with blocks := t.flash.blocks },
          mgmt := { s.mgmt with mem := t.mgmt.mem } }) ∧
    (s.destCheck b.val h [h] ≠ .ok →
      ∃ t, exec (.bargeArrival b h data) s = .next t ∧
        (Tbl.get BargeSlot.fresh h.slot.toNat (t.basin i.val).eng.slots) = { sl with status := some (s.destCheck b.val h [h]) } ∧
        (∀ j, (t.basin j).dram.mem = (s.basin j).dram.mem) ∧ t = { s with basins := t.basins })) ∧
  (∀ (s : State) (b : BasinId) (k : BitVec 10) (v : BitVec 16) (sl : BargeSlot) (c : Nat),
    Tbl.get BargeSlot.fresh k.toNat (s.basin b.val).eng.slots = sl → sl.hdr.rows ≠ 0 → sl.status = some .ok → c = sl.owner →
    s.startable b.val c = 0 →
    ∃ t, exec (.bargeComplete b k v) s = .next t ∧ Tbl.get BargeSlot.fresh k.toNat (t.basin b.val).eng.slots = BargeSlot.fresh ∧
      ((t.basin b.val).brgCtx c).inUse = ((s.basin b.val).brgCtx c).inUse - 1 ∧
      Tbl.get [] c (t.basin b.val).eng.tows = (Tbl.get [] c (s.basin b.val).eng.tows).map (fun w =>
        if w.id = sl.tow then { w with running := w.running - 1, okCount := w.okCount + max 1 sl.members.length } else w) ∧
      t = { s with basins := t.basins, trace := t.trace, msgs := t.msgs, fab := t.fab, ptb := t.ptb, freeCtr := t.freeCtr }) ∧
  (∀ (s : State) (b : BasinId) (c : CtxId) (w : Tow),
    ((Tbl.get [] c.val (s.basin b.val).eng.tows).find? fun t => t.waiting.isEmpty && t.running == 0) = some w →
    ∃ t, exec (.towComplete b c) s = .next t ∧
      (w.own = true → (t.basin b.val).dram = (s.basin b.val).dram ∧ Tbl.get 0 w.id (t.basin b.val).eng.doneWords = towWord w) ∧
      (w.hdr.notify = false → (t.basin b.val).eng.notices = (s.basin b.val).eng.notices ∧
        ((t.basin b.val).ctx c.val).sems = ((s.basin b.val).ctx c.val).sems ∧ t.freeCtr = s.freeCtr) ∧
      (w.hdr.notify = true → (t.basin b.val).eng.notices = (s.basin b.val).eng.notices ++ [(c.val, towWord w)] ∧
        ∃ k < 64, ∀ j, Tbl.get 0 j ((t.basin b.val).ctx c.val).sems =
          if j = k then satAdd (Tbl.get 0 k ((s.basin b.val).ctx c.val).sems) 1 else Tbl.get 0 j ((s.basin b.val).ctx c.val).sems) ∧
      (w.own = false → w.hdr.done.toNat % 128 ≤ 120 → w.hdr.done.toNat / 128 < s.basinLines →
        (∀ k j, ((s.basin b.val).way k j).ctx ≠ 4 → ((s.basin b.val).way k j).bytes.length = 128) →
        (t.basin b.val).peek s.basinLines c.val w.hdr.done.toNat 8 = natLe 8 (towWord w)) ∧ (∀ x, x ≠ b.val → t.basin x = s.basin x) ∧
      Tbl.get [] c.val (t.basin b.val).eng.tows = (Tbl.get [] c.val (s.basin b.val).eng.tows).filter (fun u => u.id != w.id) ∧
      t = { s with basins := t.basins, freeCtr := t.freeCtr })

/-! ### Lockages -/

/-- The keeper starts a lockage for a pending item and sends LOCK with one T_L and every member's slot to every member (R136, R138); a basin
acknowledges it, each time it comes (R174; in RESETTING, OFFLINE and RETIRED log entry 187), reports to a new keeper what it had reported (R135), starts no step from T_L on and discards what was formed (R133), reports DRAINED once it has drained
(R134, R136), and the keeper sends RESUME with its T_R once all have (R136); LOCK goes again every 1,000 ticks to a member that has not
acknowledged it (R174). -/
def Obligations.LockageStopsAndDrainsTheSlice : Prop :=
  (∀ (s : State) (b : BasinId) (r : List (BitVec 10 × Option (Fin 4))) (id : Nat) (k : Keeper), (s.basin b.val).sliceId.toNat = id →
    (s.basin b.val).keeper = k →
    (s.isKeeper b.val = false → exec (.lockageStart b r) s = .next s) ∧
    (s.isKeeper b.val = true → k.active = true →
      ∃ t, exec (.lockageStart b r) s = .next t ∧ t = { s with basins := t.basins } ∧
        (t.basin b.val).keeper = { k with remote := k.remote ++ r.map fun e => (e.1.toNat, e.2.map (·.val)) }) ∧
    (s.isKeeper b.val = true → k.active = false → (r ≠ [] ∨ s.lockageDue b.val id = true) → k.unsync = [] →
      ∃ t n, exec (.lockageStart b r) s = .next t ∧ n = (if s.oneDevice id then s.now else s.now + 1000) ∧
        (t.basin b.val).keeper.active = true ∧ (t.basin b.val).keeper.tLock = n ∧ (t.basin b.val).keeper.tResume = none ∧
        (t.basin b.val).keeper.lockAcks = [] ∧ (t.basin b.val).keeper.drained = [] ∧ (t.basin b.val).keeper.remote = [] ∧
        (t.basin b.val).keeper.slots.length = (s.membersOf id).length ∧
        (∀ i, i < (s.membersOf id).length → ∃ m ∈ t.msgs, m.src = b.val ∧ m.dest = .member id i ∧
          m.msg = .lock s.now n (t.basin b.val).keeper.slots ((s.ordinal b.val).getD 0)) ∧
        (∀ j ∈ s.localMembers id, (t.basin j).staged = (s.basin j).staged.filter (fun w => decide (s.now < w.at_)) ∧
          (t.basin j).armed = (s.basin j).armed ++ (s.basin j).staged.filter fun w => decide (w.at_ ≤ s.now)) ∧
        (∀ j, j ∉ s.localMembers id → t.basin j = s.basin j) ∧
        t = { s with
          basins := t.basins, selects := t.selects, msgs := t.msgs, fab := t.fab, freeCtr := t.freeCtr, trace := t.trace })) ∧
  (∀ (s : State) (b : BasinId) (sent n : BitVec 64) (l : List (Option (Fin 4))) (w : BitVec 16),
    (((s.basin b.val).st.state ≠ .serving ∧ (s.basin b.val).st.state ≠ .ready ∧ (s.basin b.val).st.state ≠ .init ∧
      (s.basin b.val).st.state ≠ .fenced) ∨ s.ordinal b.val = none) → exec (.lock b sent n l w) s = .next s) ∧
  (∀ (s : State) (b : BasinId) (sent n : BitVec 64) (l : List (Option (Fin 4))) (w : BitVec 16) (o : Nat),
    ((s.basin b.val).st.state = .init ∨ (s.basin b.val).st.state = .fenced) → s.ordinal b.val = some o →
    ∃ t, exec (.lock b sent n l w) s = .next t ∧ (t.basin b.val).part = (s.basin b.val).part ∧
      (t.basin b.val).cut = { (s.basin b.val).cut with
        lateLock := if n.toNat ≤ s.now ∧ s.oneDevice (s.basin b.val).sliceId.toNat = false then
          satAdd (s.basin b.val).cut.lateLock 1 else (s.basin b.val).cut.lateLock } ∧
      (∀ q, s.keeperOrdinal b.val = some q → ∃ m ∈ t.msgs, m.src = b.val ∧
        m.dest = .member (s.basin b.val).sliceId.toNat q ∧ m.msg = .lockAck o (s.unsyncOf b.val)) ∧
      (∀ j, j ≠ b.val → t.basin j = s.basin j) ∧
      t = { s with basins := t.basins, msgs := t.msgs, fab := t.fab, freeCtr := t.freeCtr, trace := t.trace }) ∧
  (∀ (s : State) (b : BasinId) (sent n : BitVec 64) (l : List (Option (Fin 4))) (w : BitVec 16) (o : Nat),
    ((s.basin b.val).st.state = .serving ∨ (s.basin b.val).st.state = .ready) → s.ordinal b.val = some o →
    ∃ t, exec (.lock b sent n l w) s = .next t ∧ (t.basin b.val).part.tLock = some n.toNat ∧
      ((s.basin b.val).part.tLock = some n.toNat → (t.basin b.val).part = (s.basin b.val).part) ∧
      ((s.basin b.val).part.tLock ≠ some n.toNat →
        (t.basin b.val).part = { LockPart.fresh with tLock := some n.toNat, slots := l.map fun k => k.map (·.val) } ∧
        (t.basin b.val).cut.lockState =
          (if n.toNat ≤ s.now then .locking else if (s.basin b.val).cut.hasSlot = true then .running else .idle)) ∧
      ((s.basin b.val).part.tLock = some n.toNat → (s.basin b.val).part.reported = true → ∀ q, s.keeperOrdinal b.val = some q →
        ∃ m ∈ t.msgs, m.src = b.val ∧ m.dest = .member (s.basin b.val).sliceId.toNat q ∧ m.msg = .drained o (s.unsyncOf b.val)) ∧
      (t.basin b.val).cut.lateLock = (if n.toNat ≤ s.now ∧ s.oneDevice (s.basin b.val).sliceId.toNat = false then
        satAdd (s.basin b.val).cut.lateLock 1 else (s.basin b.val).cut.lateLock) ∧
      (∀ q, s.keeperOrdinal b.val = some q → ∃ m ∈ t.msgs, m.src = b.val ∧
        m.dest = .member (s.basin b.val).sliceId.toNat q ∧ m.msg = .lockAck o (s.unsyncOf b.val)) ∧
      (s.now < n.toNat → (∀ j, j ≠ b.val → t.basin j = s.basin j) ∧ t = { s with
        basins := t.basins, selects := t.selects, msgs := t.msgs, fab := t.fab, freeCtr := t.freeCtr, trace := t.trace }) ∧
      t.power = s.power ∧ t.time = s.time ∧ t.store = s.store) ∧
  (∀ (s : State) (b : BasinId) (o : BitVec 10) (u : Bool),
    ∃ t, exec (.lockAck b o u) s = .next t ∧ o.toNat ∈ (t.basin b.val).keeper.lockAcks ∧
      (u = true ↔ o.toNat ∈ (t.basin b.val).keeper.unsync) ∧
      (t.basin b.val).keeper = { (s.basin b.val).keeper with
        lockAcks := (t.basin b.val).keeper.lockAcks, unsync := (t.basin b.val).keeper.unsync } ∧
      (∀ j, j ≠ b.val → t.basin j = s.basin j) ∧ t = { s with basins := t.basins, trace := t.trace }) ∧
  (∀ (s : State) (b : BasinId) (n : Nat), (s.basin b.val).part.tLock = some n →
    (s.now < n → exec (.lockTick b) s = .next s) ∧
    (n ≤ s.now → ((s.basin b.val).cut.lockState = .running ∨ (s.basin b.val).cut.lockState = .idle) →
      ∃ t, exec (.lockTick b) s = .next t ∧ (t.basin b.val).cut = { (s.basin b.val).cut with lockState := .locking } ∧
        (∀ e ∈ (t.basin b.val).pounds, e.2.nextFormed = none) ∧
        (∀ f, f ∈ t.man.flights ↔ f ∈ s.man.flights ∧ ¬ (f.home = b.val ∧ f.started = false)) ∧
        t.man.entries = s.man.entries ∧ t.store = s.store ∧ t.power = s.power ∧ t.time = s.time ∧
        ((∀ e ∈ (s.basin b.val).pounds, e.2.nextFormed = none) →
          (∀ j, j ≠ b.val → t.basin j = s.basin j) ∧ t = { s with basins := t.basins, man := t.man }))) ∧
  (∀ (s : State) (b : BasinId) (o : BitVec 10) (k : Keeper), (s.basin b.val).keeper = k → k.active = true → k.tLock ≤ s.now →
    o.toNat ∉ k.lockAcks → Tbl.get 0 o.toNat k.resendAt ≤ s.now →
    o.toNat < (s.membersOf (s.basin b.val).sliceId.toNat).length →
    ∃ t, exec (.lockResend b o) s = .next t ∧ Tbl.get 0 o.toNat (t.basin b.val).keeper.resendAt = s.now + 1000 ∧
      (∃ m ∈ t.msgs, m.src = b.val ∧ m.dest = .member (s.basin b.val).sliceId.toNat o.toNat ∧
        m.msg = .lock s.now k.tLock k.slots ((s.ordinal b.val).getD 0)) ∧
      t = { s with basins := t.basins, msgs := t.msgs, fab := t.fab, freeCtr := t.freeCtr, trace := t.trace }) ∧
  (∀ (s : State) (b : BasinId) (o q : Nat), (s.basin b.val).cut.lockState = .locking → (s.basin b.val).part.reported = false →
    ((s.basin b.val).st.state = .serving ∨ ((s.basin b.val).st.state = .ready ∧ (s.basin b.val).st.held = false)) →
    s.drained b.val = true → s.ordinal b.val = some o → s.keeperOrdinal b.val = some q →
    ∃ t, exec (.basinDrained b) s = .next t ∧ (t.basin b.val).cut = { (s.basin b.val).cut with lockState := .drained } ∧
      (t.basin b.val).part = { (s.basin b.val).part with reported := true } ∧
      (∃ m ∈ t.msgs, m.src = b.val ∧ m.dest = .member (s.basin b.val).sliceId.toNat q ∧ m.msg = .drained o (s.unsyncOf b.val)) ∧
      t = { s with basins := t.basins, msgs := t.msgs, fab := t.fab, freeCtr := t.freeCtr, trace := t.trace }) ∧
  (∀ (s : State) (b : BasinId) (o : BitVec 10) (u : Bool) (k : Keeper) (id : Nat), (s.basin b.val).keeper = k →
    (s.basin b.val).sliceId.toNat = id →
    ∃ t, exec (.drained b o u) s = .next t ∧ o.toNat ∈ (t.basin b.val).keeper.drained ∧
      (k.active = true → k.tResume = none → (∀ i, i < (s.membersOf id).length → i = o.toNat ∨ i ∈ k.drained) →
        (t.basin b.val).keeper.tResume = some (s.now + (if s.oneDevice id then 200 else 1000)) ∧
        ∀ i, i < (s.membersOf id).length → ∃ m ∈ t.msgs, m.src = b.val ∧ m.dest = .member id i ∧
          m.msg = .resume (s.now + (if s.oneDevice id then 200 else 1000))) ∧
      ((∃ i, i < (s.membersOf id).length ∧ i ≠ o.toNat ∧ i ∉ k.drained) → (t.basin b.val).keeper.tResume = k.tResume ∧
        t.msgs = s.msgs) ∧
      t = { s with basins := t.basins, msgs := t.msgs, fab := t.fab, freeCtr := t.freeCtr, trace := t.trace })

/-- RESUME is acknowledged and sets T_R, or comes too late and is counted, and a second one counts the first as voided (R175); the keeper voids a
resume that lacks acknowledgements (R175); a basin that changes its slot begins the switch at T_R − 200 (R132, R82), and at T_R it applies what
the lockage carries, runs its slot, whose link map the tiles take from schedule memory or, where that is damaged, from the cut store (R83, R141),
under the slice's epoch and starts steps again (R8, R126, R136); ways that left a context become free
(R233). -/
def Obligations.LockageResumesTheSlice : Prop :=
  (∀ (s : State) (b : BasinId) (n : BitVec 64) (x : Basin) (late : Bool), s.basin b.val = x → (s.ordinal b.val).isSome = true →
    late = (decide (n.toNat < s.now + 300) && !s.oneDevice x.sliceId.toNat) →
    ∃ t, exec (.resume b n) s = .next t ∧
      (t.basin b.val).part = { x.part with
        tResume := if late then none else some n.toNat, late := if late then some n.toNat else none } ∧
      (t.basin b.val).cut.lateResume = (if late then satAdd x.cut.lateResume 1 else x.cut.lateResume) ∧
      (∀ r, (x.part.tResume.orElse fun _ => x.part.late) = some r →
        (t.basin b.val).cut.voided = (if r = n.toNat then x.cut.voided else satAdd x.cut.voided 1)) ∧
      (∀ q, s.keeperOrdinal b.val = some q → ∃ m ∈ t.msgs, m.src = b.val ∧ m.dest = .member x.sliceId.toNat q ∧
        m.msg = .resumeAck ((s.ordinal b.val).getD 0)) ∧
      t = { s with basins := t.basins, msgs := t.msgs, fab := t.fab, freeCtr := t.freeCtr, trace := t.trace }) ∧
  (∀ (s : State) (b : BasinId) (n : BitVec 64), s.ordinal b.val = none → exec (.resume b n) s = .next s) ∧
  (∀ (s : State) (b : BasinId) (o : BitVec 10),
    ∃ t, exec (.resumeAck b o) s = .next t ∧ o.toNat ∈ (t.basin b.val).keeper.resumeAcks ∧
      (t.basin b.val).keeper = { (s.basin b.val).keeper with resumeAcks := (t.basin b.val).keeper.resumeAcks } ∧
      (∀ j, j ≠ b.val → t.basin j = s.basin j) ∧ t = { s with basins := t.basins, trace := t.trace }) ∧
  (∀ (s : State) (b : BasinId) (k : Keeper) (r id : Nat), (s.basin b.val).keeper = k → (s.basin b.val).sliceId.toNat = id →
    k.tResume = some r →
    (s.now + 300 < r → exec (.resumeVoid b) s = .next s) ∧
    (k.active = true → r ≤ s.now + 300 → s.oneDevice id = false →
      (∃ i, i < (s.membersOf id).length ∧ i ∉ k.resumeAcks) →
      ∃ t, exec (.resumeVoid b) s = .next t ∧
        (t.basin b.val).keeper = { k with tResume := some (s.now + 1000), resumeAcks := [] } ∧
        (∀ i, i < (s.membersOf id).length → ∃ m ∈ t.msgs, m.src = b.val ∧ m.dest = .member id i ∧ m.msg = .resume (s.now + 1000)) ∧
        t = { s with basins := t.basins, msgs := t.msgs, fab := t.fab, freeCtr := t.freeCtr, trace := t.trace })) ∧
  (∀ (s : State) (b : BasinId) (x : Basin) (r k c : Nat), s.basin b.val = x → x.part.tResume = some r → s.nextSlot b.val = some k →
    r ≤ s.now + 200 → x.part.switched = false → x.cut.lockState = .drained → (x.slot k).valid = true → (x.slot k).filling = false →
    (x.slot k).ctx.toNat = c →
    ∃ t, exec (.slotSwitch b) s = .next t ∧ (t.basin b.val).cut = { x.cut with lockState := .switching } ∧
      (t.basin b.val).part = { x.part with switched := true } ∧
      (∀ i ∈ basinTiles b.val, ∀ y, y = ((s.mapReload i k).tile i).mem →
        (x.running ≠ some c → (t.tile i).mem.opbuf = [] ∧ (t.tile i).mem.acc = []) ∧
        (x.running = some c → (t.tile i).mem = y) ∧ (t.tile i).mem.column = (s.tile i).mem.column ∧
        (t.tile i).net.slots = slotMap y k ∧ (t.tile i).cnt = (s.tile i).cnt) ∧
      (∀ i, i ∉ basinTiles b.val → (t.tile i).mem = (s.tile i).mem ∧ (t.tile i).core = (s.tile i).core) ∧
      (∀ h, x.shareOf k = some h → (t.basin b.val).queues = h.queues ∧ ∀ p d, (p, d) ∈ h.pounds →
        ∃ q, (p, q) ∈ (t.basin b.val).pounds ∧ q.pdef = d ∧ q.ctx = c ∧ q.step = 0 ∧ q.running = false ∧
          q.prog = programOf h.cutId p d) ∧
      t = { s with basins := t.basins, tiles := t.tiles }) ∧
  (∀ (s : State) (b : BasinId) (x : Basin) (r : Nat), s.basin b.val = x → x.part.tResume = some r →
    (s.now < r → exec (.resumeTick b) s = .next s) ∧
    (r ≤ s.now → (x.cut.lockState = .drained ∨ x.cut.lockState = .switching) → (x.part.switched = true ∨ s.nextSlot b.val = none) →
      ∃ t, exec (.resumeTick b) s = .next t ∧ (t.basin b.val).part = LockPart.fresh ∧ (t.basin b.val).armed = [] ∧
        (t.basin b.val).cut.epoch = (if x.part.slots.any (·.isSome) then x.cut.epoch + 1 else x.cut.epoch) ∧
        (∀ k, x.part.switched = true → s.nextSlot b.val = some k → (t.basin b.val).cut.hasSlot = true ∧
          (t.basin b.val).cut.lockState = .running ∧ (t.basin b.val).cut.activeSlot = BitVec.ofNat 2 k) ∧
        (x.part.switched = false → (t.basin b.val).cut.hasSlot = x.cut.hasSlot ∧
          (t.basin b.val).cut.activeSlot = x.cut.activeSlot ∧
          (t.basin b.val).cut.lockState = (if x.cut.hasSlot then .running else .idle)) ∧
        (∀ e ∈ (t.basin b.val).pounds, e.2.held = false ∧ e.2.stopped = false) ∧
        (∀ c v at_, c < 4 → x.armed = [⟨0x100 + 4 * c, v, at_⟩] → (t.basin b.val).cap c = v.setWidth 16) ∧
        (∀ v at_, x.armed = [⟨0x80, v, at_⟩] → (t.basin b.val).maint.phase = v.setWidth 8) ∧
        (t.basin b.val).keeper.active = false ∧ (t.basin b.val).st.held = false ∧ t.power = s.power ∧ t.time = s.time)) ∧
  (∀ (s : State) (b : BasinId),
    ∃ t, exec (.wayMoveComplete b) s = .next t ∧ (t.basin b.val).dram = { (s.basin b.val).dram with moving := 0 } ∧
      (∀ j, j ≠ b.val → t.basin j = s.basin j) ∧ t = { s with basins := t.basins })

/-! ### Gap moves, self-test, failures, memory ladder -/

/-- A gap move starts at a SPARE gap, orders its hold once the static region is copied, and at the hold the gap takes the moving tile's
place with its contents (R119, R124); BIST tests a tile out of service, re-initializes it and leaves it SPARE (R495, R496, R499; log entry 192); a failed
tile is FAILED in its row and the third failure of a row fences the basin with cause SPARES (R499-R501). -/
def Obligations.GapMovesTestsAndFailuresKeepTheRow : Prop :=
  (∀ (s : State) (b : BasinId) (j : Fin 4) (gb w : Bool) (m : RowMap) (g q : Nat), (s.basin b.val).row j.val = m →
    g = (if gb then m.bCol.toNat else m.aCol.toNat) →
    ((m.kindOf g ≠ some .spare ∨ (s.basin b.val).maint.move.isSome = true) → exec (.gapMove b j gb w) s = .next s) ∧
    (m.kindOf g = some .spare → (s.basin b.val).maint.move = none →
      ((s.basin b.val).st.state = .serving ∨ (s.basin b.val).st.state = .ready) → m.nearest g w = some q →
      ∃ t, exec (.gapMove b j gb w) s = .next t ∧ (t.basin b.val).row j.val = m.setKind g .filling ∧
        (t.basin b.val).maint = { (s.basin b.val).maint with move := some (j.val, g, q), moveHeld := false, moveForTest := false } ∧
        (∀ i, i ≠ b.val → t.basin i = s.basin i) ∧ t = { s with basins := t.basins })) ∧
  (∀ (s : State) (b : BasinId) (j : Fin 4) (g q : Nat), (s.basin b.val).maint.move = some (j.val, g, q) →
    (s.basin b.val).maint.moveHeld = false → (∀ e ∈ (s.tile (tileNo b.val j.val q)).mem.parity,
      e.space ≠ .column ∨ e.transient = true ∨ s.inDynamic b.val (4 * e.word) 4 = true) →
    ∃ t, exec (.staticCopyComplete b j) s = .next t ∧
      (t.basin b.val).maint = { (s.basin b.val).maint with moveHeld := true } ∧
      (t.tile (tileNo b.val j.val q)).maint.dirty = [] ∧ (∀ i, (t.tile i).mem = (s.tile i).mem) ∧
      t = { s with basins := t.basins, tiles := t.tiles }) ∧
  (∀ (s : State) (b : BasinId) (j : Fin 4) (g q : Nat) (k : ColKind), (s.basin b.val).maint.move = some (j.val, g, q) → g ≠ q →
    (s.basin b.val).maint.moveHeld = true →
    (∀ p ∈ s.allPounds, s.moveHolds p.1 p.2 = true → ((s.basin p.1).pound p.2).running = false) →
    s.rowQuiet (4 * b.val + j.val) = true → s.isStale (tileNo b.val j.val g) = false →
    k = (if (s.basin b.val).maint.moveForTest then .test else .spare) →
    ∃ t, exec (.gapMoveHoldReached b j) s = .next t ∧
      (t.tile (tileNo b.val j.val g)).mem.column = (s.tile (tileNo b.val j.val q)).mem.column ∧
      (t.tile (tileNo b.val j.val g)).mem.opbuf = (s.tile (tileNo b.val j.val q)).mem.opbuf ∧
      (t.tile (tileNo b.val j.val g)).cnt = (s.tile (tileNo b.val j.val g)).cnt ∧
      (t.tile (tileNo b.val j.val q)).mem = Tile.fresh.mem ∧
      (t.basin b.val).row j.val = ((s.basin b.val).row j.val).replaceCol g q k ∧ (t.basin b.val).maint.move = none ∧
      (t.basin b.val).maint.moveHeld = false ∧
      (∀ i, i ≠ tileNo b.val j.val g → i ≠ tileNo b.val j.val q → t.tile i = s.tile i) ∧
      t = { s with basins := t.basins, tiles := t.tiles }) ∧
  (∀ (s : State) (b : BasinId) (x : Basin) (c : Nat), s.basin b.val = x →
    (s.mgmt.bistOn = false → ∀ u v, exec (.selfTestStart b u v) s = .next s) ∧
    (s.mgmt.bistOn = true → s.mgmt.bistOrder = false → x.maint.bistState = 0 → x.maint.move = none → x.st.state = .serving →
      x.maint.nextTest < 8 → c = (if x.maint.nextTest % 2 = 0 then (x.row (x.maint.nextTest / 2)).aCol.toNat
        else (x.row (x.maint.nextTest / 2)).bCol.toNat) → (x.row (x.maint.nextTest / 2)).kindOf c = some .spare →
      ∃ t, exec (.selfTestStart b true true) s = .next t ∧ (t.basin b.val).maint.bistState = 2 ∧
        (t.basin b.val).maint.bistRow = BitVec.ofNat 2 (x.maint.nextTest / 2) ∧ (t.basin b.val).maint.bistCol = BitVec.ofNat 6 c ∧
        (t.basin b.val).maint.nextTest = x.maint.nextTest + 1 ∧
        (t.basin b.val).row (x.maint.nextTest / 2) = (x.row (x.maint.nextTest / 2)).setKind c .test ∧
        (t.tile (tileNo b.val (x.maint.nextTest / 2) c)).gen = 0 ∧ t = { s with basins := t.basins, tiles := t.tiles })) ∧
  (∀ (s : State) (b : BasinId) (x : Basin) (n : Nat), s.basin b.val = x →
    n = tileNo b.val x.maint.bistRow.toNat x.maint.bistCol.toNat →
    (x.maint.bistState ≠ 2 → (∀ u v, exec (.selfTestLimitCheck b u v) s = .next s) ∧ ∀ u, exec (.selfTestComplete b u) s = .next s) ∧
    (x.maint.bistState = 2 →
      exec (.selfTestLimitCheck b true true) s = .next s ∧
      (∀ i r, ((i = .selfTestComplete b true ∧ r = 0) ∨ (∃ u v, (u && v) = false ∧ i = .selfTestLimitCheck b u v ∧ r = 2)) →
        ∃ t, exec i s = .next t ∧ (t.basin b.val).maint = { x.maint with
            bistState := 3, reinitAt := s.now, skipped := if r = 2 then satAdd x.maint.skipped 1 else x.maint.skipped } ∧
          t.tile n = { s.tile n with maint := { (s.tile n).maint with lastTest := r, testTick := s.now, named := false } } ∧
          (∀ j, (t.basin b.val).row j = x.row j) ∧ (∀ k, k ≠ n → t.tile k = s.tile k) ∧
          t = { s with basins := t.basins, tiles := t.tiles })) ∧
    (x.maint.bistState = 3 → s.now < x.maint.reinitAt + 2458 → s.reinitTick b.val = s) ∧
    (x.maint.bistState = 3 → x.maint.reinitAt + 2458 ≤ s.now →
      (x.row x.maint.bistRow.toNat).kindOf x.maint.bistCol.toNat = some .test →
      ∃ t, s.reinitTick b.val = t ∧ (t.basin b.val).maint = { x.maint with bistState := 0 } ∧
        (t.basin b.val).row x.maint.bistRow.toNat = (x.row x.maint.bistRow.toNat).setKind x.maint.bistCol.toNat .spare ∧
        (t.tile n).mem = Tile.fresh.mem ∧ (t.tile n).gen = x.gen ∧ (t.tile n).cnt = (s.tile n).cnt ∧
        (∀ k, k ≠ n → t.tile k = s.tile k) ∧ t = { s with basins := t.basins, tiles := t.tiles })) ∧
  (∀ (s : State) (i : TileId) (m : RowMap) (b j c : Nat), b = tileBasin i.val → j = i.val / 34 % 4 → c = i.val % 34 →
    (s.basin b).row j = m → (s.basin b).st.state = .serving →
    ((m.kindOf c = some .spare ∨ m.kindOf c = some .test) → m.failures < 2 →
      ∃ t, exec (.tileFailure i false) s = .next t ∧ ((t.basin b).row j).kindOf c = some .failed ∧
        ((t.basin b).row j).failures = m.failures + 1 ∧ (t.tile i.val).gen = 0 ∧ (t.tile i.val).mem = Tile.fresh.mem ∧
        (t.basin b).st.state = .serving) ∧
    (m.kindOf c ≠ some .failed → m.failures = 2 →
      ∃ t, exec (.tileFailure i false) s = .next t ∧ ((t.basin b).row j).failures = 3 ∧ (t.basin b).st.state = .fenced ∧
        (t.basin b).st.cause = .spares ∧ (t.basin b).maint.excluded.getLsbD j = true) ∧
    (∃ t, exec (.tileFailure i true) s = .next t ∧ (t.basin b).st.state = .fenced ∧ (t.basin b).st.cause = .spares))

/-- A damaged LPDDR5X line, its clean copy in the line cache invalidated first, that passes its re-read counts as transient, and one that fails counts as
stored and is written again from its source's copy (R226, R234, R248, R252, Table 6.13); the reload counts as a barge of firmware's own (R309); a bad chunk is reloaded and read back (R249); the scrubber passes every 16 ms and names a tile
with a word that stays bad (R220, R221). -/
def Obligations.LadderRepairsLinesAndChunks : Prop :=
  (∀ (s : State) (b : BasinId) (c : CtxId) (pg : BitVec 19) (ln : BitVec 9) (kind : LineKind) (l : LineLadder) (n m : Nat) (good dirty : Bool)
      (y : Basin), n = 512 * pg.toNat + ln.toNat → m = lineChan b.val ln.toNat →
    dirty = ((s.basin b.val).cached c.val n).any (fun w => ((s.basin b.val).way (n % 4096) w).dirty) →
    y = (match (s.basin b.val).cached c.val n with
      | some w => if dirty then s.basin b.val else (s.basin b.val).setWay (n % 4096) w LcLine.fresh
      | none => s.basin b.val) →
    good = (Basin.badWordsOf (y.lookLine s.basinLines c.val n)).isEmpty →
    (good = true → (y.dram.flaky.contains n || l.rereadOk) = true →
      ∃ t, exec (.lpddrReread b c pg ln kind l) s = .next t ∧
        (t.chan m) = { s.chan m with transient := satAdd (s.chan m).transient 1 } ∧
        (t.basin b.val).par = { (s.basin b.val).par with transient := satAdd (s.basin b.val).par.transient 1 } ∧
        (t.basin b.val).dram = { y.dram with flaky := y.dram.flaky.filter (· != n) } ∧
        t = { s with
          basins := t.basins, memDev := t.memDev, msgs := t.msgs, fab := t.fab, ptb := t.ptb, freeCtr := t.freeCtr }) ∧
    ((good = false ∨ (y.dram.flaky.contains n || l.rereadOk) = false) →
      ∃ t, exec (.lpddrReread b c pg ln kind l) s = .next t ∧
        (t.chan m).stored = (if dirty then (s.chan m).stored else satAdd (s.chan m).stored 1) ∧
        (t.chan m).transient = (s.chan m).transient ∧
        (kind = .weight → l.sourceOk = true → l.readbackOk = true →
          (t.basin b.val).par = { (s.basin b.val).par with reload := satAdd (s.basin b.val).par.reload 1 } ∧
          (t.basin b.val).eng.issued = satAdd (s.basin b.val).eng.issued 1 ∧
          (∀ bs, s.pageChunk b.val c.val pg.toNat = some bs → (t.basin b.val).dram =
            (y.writeBytes s.basinLines c.val (128 * n) ((bs.drop (128 * ln.toNat)).take 128) [] true).dram) ∧
          (s.pageChunk b.val c.val pg.toNat = none → (t.basin b.val).dram = (y.mendLine s.basinLines n).dram) ∧
          t = { s with
            basins := t.basins, memDev := t.memDev, msgs := t.msgs, fab := t.fab, ptb := t.ptb, freeCtr := t.freeCtr }) ∧
        (∀ i, kind = .tokenLog i → (s.entry i).active = true → (t.entry i).st = .failed ∧
          (t.entry i).status = .parityUnrecovered))) ∧
  (∀ (s : State) (i : TileId) (c : CtxId) (k : BitVec 7) (data : List Byte) (src rb : Bool) (b : Nat), b = tileBasin i.val →
    ((96 ≤ k.toNat ∨ ((s.basin b).ctx c.val).exist = false) → exec (.chunkReload i c k data src rb) s = .next s) ∧
    (k.toNat < 96 → ((s.basin b).ctx c.val).exist = true → s.storedParts b c.val i.val k.toNat = [] → data.length = 65536 →
      ∃ t, exec (.chunkReload i c k data true true) s = .next t ∧
        Memory.read (t.tile i.val).mem.column (65536 * k.toNat) 65536 = data ∧
        (∀ x, (x < 65536 * k.toNat ∨ 65536 * k.toNat + 65536 ≤ x) →
          Memory.byte (t.tile i.val).mem.column x = Memory.byte (s.tile i.val).mem.column x) ∧
        (∀ e ∈ (t.tile i.val).mem.parity, e.space ≠ .column ∨ 4 * e.word / 65536 ≠ k.toNat) ∧
        (t.tile i.val).maint.named = true ∧
        (t.basin b).par = { (s.basin b).par with reload := satAdd (s.basin b).par.reload 1 } ∧
        (∀ j, j ≠ i.val → t.tile j = s.tile j) ∧ t = { s with basins := t.basins, tiles := t.tiles })) ∧
  (∀ (s : State) (i : TileId),
    (s.now < (s.tile i.val).maint.scrubDue → exec (.scrubPass i) s = .next s) ∧
    ((s.tile i.val).maint.scrubDue ≤ s.now →
      ∃ t, exec (.scrubPass i) s = .next t ∧ t.tile i.val = { s.tile i.val with maint := { (s.tile i.val).maint with
          scrubbing := true, scrubDue := s.now + 1600000 } } ∧
        ((s.tile i.val).maint.scrubbing = false → t.basins = s.basins) ∧ (∀ j, j ≠ i.val → t.tile j = s.tile j) ∧
        t = { s with basins := t.basins, tiles := t.tiles, freeCtr := t.freeCtr })) ∧
  (∀ (s : State) (i : TileId) (w : BitVec 21) (ok : Bool) (b c : Nat), b = tileBasin i.val →
    s.shareOwner b (4 * w.toNat) = some c → s.inDynamic b (4 * w.toNat) 4 = false →
    (∀ e ∈ (s.tile i.val).mem.parity, e.space ≠ .column ∨ e.word ≠ w.toNat) →
    ∃ t, exec (.scrubError i w ok) s = .next t ∧
      (ok = true → (t.basin b).par = { (s.basin b).par with transient := satAdd (s.basin b).par.transient 1 } ∧
        (t.tile i.val).maint = (s.tile i.val).maint) ∧
      (ok = false → (⟨.column, w.toNat, false, true⟩ : ParErr) ∈ (t.tile i.val).mem.parity ∧ (t.tile i.val).maint.named = true ∧
        t.basins = s.basins) ∧
      (t.tile i.val).mem.column = (s.tile i.val).mem.column ∧ (∀ p h, ((t.basin h).pound p).taint = ((s.basin h).pound p).taint) ∧
      (∀ j, j ≠ i.val → t.tile j = s.tile j) ∧ t = { s with basins := t.basins, tiles := t.tiles })

/-! ### Fences and recovery -/

/-- An overdue step, a lockage that does not drain and GEN 0 close what they name: the basin is FENCED with its cause and drains (R176,
R518, R520), or the other members hold their slice (R504, R521); at the drain's end no barge is outstanding and no cache line is dirty
(R522), and a fence of the keeper leaves the lockage in its phase for the next one (R135); a fence of cause 1, 2, 3, 4 or 7 is dumped before the reset (R529, R530); a teardown ends a faulting context's steps (R477). -/
def Obligations.FencesCloseDrainAndDump : Prop :=
  (∀ (s : State) (b : BasinId) (p : PoundId) (q : Pound) (n : Nat), (s.basin b.val).pound p.val = q →
    n = max 1 (min 256 q.startDuty) → q.running = true → s.power.inputLow = false → (s.basin b.val).st.state = .serving →
    (s.now * n < q.startTick * n + max (4 * s.drainTicks b.val) 1000000 * 256 → exec (.stepOverdue b p) s = .next s) ∧
    (q.startTick * n + max (4 * s.drainTicks b.val) 1000000 * 256 ≤ s.now * n →
      ∃ t, exec (.stepOverdue b p) s = .next t ∧ (t.basin b.val).st.state = .fenced ∧ (t.basin b.val).st.cause = .stepTimeout ∧
        (t.basin b.val).st.draining = true ∧ (t.basin b.val).st.resetDue = true ∧ (t.basin b.val).st.fenceAt = s.now ∧
        (s.lockageOn (s.basin b.val).sliceId.toNat = false → t.tiles = s.tiles) ∧ t.store = s.store ∧ t.power = s.power)) ∧
  (∀ (s : State) (b : BasinId) (n : Nat), (s.basin b.val).part.tLock = some n → (s.basin b.val).cut.lockState = .locking →
    (s.basin b.val).st.state = .serving → (s.ordinal b.val).isSome = true →
    (s.now < n + max (4 * s.drainTicks b.val) 1000000 → exec (.lockDrainTimeout b) s = .next s) ∧
    (n + max (4 * s.drainTicks b.val) 1000000 ≤ s.now →
      ∃ t, exec (.lockDrainTimeout b) s = .next t ∧ (t.basin b.val).st.state = .fenced ∧ (t.basin b.val).st.cause = .lockDrain ∧
        (t.basin b.val).st.draining = true ∧ (t.basin b.val).cut.selfFence = satAdd (s.basin b.val).cut.selfFence 1 ∧
        ((s.basin b.val).keeper.active = false → (t.basin b.val).part = LockPart.fresh) ∧
        ((s.basin b.val).keeper.active = true → (t.basin b.val).part = { LockPart.fresh with tLock := some n, reported := (s.basin b.val).part.reported }) ∧
        ((∀ j ∈ s.localMembers (s.basin b.val).sliceId.toNat, ∀ e ∈ (s.basin j).ctxs, ∀ r ∈ e.2.res, r.armed = false) → t.tiles = s.tiles) ∧
        t.store = s.store ∧ t.power = s.power)) ∧
  (∀ (s : State) (b : BasinId) (o : BitVec 10) (g : BitVec 16),
    (g ≠ 0 → exec (.gen b o g) s = .next (s.modBasin b.val fun x => { x with genTable := Tbl.set 0#16 o.toNat g x.genTable })) ∧
    (g = 0 → ((s.basin b.val).st.state = .serving ∨ (s.basin b.val).st.state = .ready ∨ (s.basin b.val).st.state = .init) →
      ∃ t, exec (.gen b o g) s = .next t ∧ Tbl.get 0#16 o.toNat (t.basin b.val).genTable = 0 ∧ (t.basin b.val).st.held = true ∧
        (t.basin b.val).st.state = (s.basin b.val).st.state ∧
        (∀ e ∈ (s.basin b.val).pounds, ((t.basin b.val).pound e.1).held = true ∧ ((t.basin b.val).pound e.1).nextFormed = none) ∧
        t.store = s.store ∧ t.power = s.power)) ∧
  (∀ (s : State) (b : BasinId) (ok : Bool), (s.basin b.val).st.state = .fenced → (s.basin b.val).st.draining = true →
    ∃ t, exec (.fenceDrainEnd b ok) s = .next t ∧ (t.basin b.val).st.state = .fenced ∧ (t.basin b.val).st.draining = false ∧
      (∀ k, (Tbl.get BargeSlot.fresh k (t.basin b.val).eng.slots).hdr.rows = 0) ∧
      (∀ e ∈ (t.basin b.val).dram.cache, e.2.dirty = false) ∧
      (ok = false → (s.basin b.val).eng.slots = [] → (s.basin b.val).eng.tows = [] → ∀ e ∈ (s.basin b.val).dram.cache, e.2.dirty = true → e.2.ctx ∈ (t.basin b.val).st.lost)) ∧
  (∀ (s : State) (b : BasinId) (ok : Bool), ((s.basin b.val).st.state ≠ .fenced ∨ (s.basin b.val).st.draining = false) →
    exec (.fenceDrainEnd b ok) s = .next s) ∧
  (∀ (s : State) (b : BasinId) (un : List (BitVec 16 × BitVec 16)) (x : Status15), (s.basin b.val).st = x →
    ((dumpCause x.cause = false ∨ x.dumped = true) → exec (.crashDump b un) s = .next s) ∧
    (x.state = .fenced → x.draining = false → x.resetDue = true → x.dumped = false → dumpCause x.cause = true →
      ∃ t d, exec (.crashDump b un) s = .next t ∧ t.dumps.current = some d ∧ d.cause = x.cause ∧ d.basins = basinsMask [b.val] ∧
        d.device = false ∧ d.tick = x.fenceAt ∧ d.units.map (fun u => (u.1, u.2.1)) = State.basinUnits b.val true ∧
        (∀ u ∈ d.units, (u.2.2.2 = 1 ↔ (u.1, u.2.1) ∈ un.map fun p => (p.1.toNat, p.2.toNat))) ∧
        (t.basin b.val).st = { x with dumped := true } ∧ (∀ j, j ≠ b.val → t.basin j = s.basin j) ∧
        t = { s with basins := t.basins, dumps := t.dumps, freeCtr := t.freeCtr })) ∧
  (∀ (s : State) (k i : BitVec 16), s.dumps.current = none → exec (.dumpReadTimeout k i) s = .next s) ∧
  (∀ (s : State) (k i : BitVec 16) (d : Dump), s.dumps.current = some d → d.images.length = d.units.length →
    ∃ t e, exec (.dumpReadTimeout k i) s = .next t ∧ t.dumps.current = some e ∧
      e = { d with units := e.units, images := e.images } ∧ e.units.map (fun u => (u.1, u.2.1)) = d.units.map (fun u => (u.1, u.2.1)) ∧
      (∀ u ∈ e.units, u.1 = k.toNat → u.2.1 = i.toNat → u.2.2.2 ≠ 0) ∧
      (∀ u ∈ d.units, (u.1 ≠ k.toNat ∨ u.2.1 ≠ i.toNat) → u ∈ e.units) ∧
      t = { s with dumps := { s.dumps with current := some e }, freeCtr := t.freeCtr }) ∧
  (∀ (s : State) (b : BasinId) (remote : Option ArrayFault),
    ((s.basin b.val).running = none ∨ (s.basin b.val).st.torn.isSome = true ∨ (s.basin b.val).st.state ≠ .serving ∨
      (s.sliceFault b.val = none ∧ remote = none)) → exec (.contextTeardown b remote) s = .next s) ∧
  (∀ (s : State) (b : BasinId) (remote : Option ArrayFault) (f : ArrayFault) (c : Nat) (h : Share), (s.basin b.val).running = some c →
    (s.basin b.val).st.state = .serving → (s.basin b.val).activeShare = some h → (s.basin b.val).st.torn = none →
    (s.sliceFault b.val = some f ∨ (s.sliceFault b.val = none ∧ remote = some f)) →
    (((s.basin b.val).ctx c).tears.filter fun x => decide (s.now < x.1 + 90000000000) && x.2 == BitVec.ofNat 32 h.cutId).length < 2 →
    ∃ t, exec (.contextTeardown b remote) s = .next t ∧ (t.basin b.val).st.torn = some f ∧
      (∀ i ∈ basinTiles b.val, (t.tile i).mem.acc = [] ∧ (t.tile i).net.egress = [] ∧ (t.tile i).net.transit = [] ∧
        (t.tile i).net.queue = [] ∧ (t.tile i).core.inPhrase = false ∧ (t.tile i).core.halves = [] ∧ (t.tile i).core.claims = 0) ∧
      ((∀ e ∈ (s.basin b.val).eng.slots, e.2.hdr.ctx.val = c → e.2.hdr.cls = .background) →
        (∀ i ∈ basinTiles b.val, (t.tile i).mem.opbuf = []) ∧ ∀ i, i ∉ basinTiles b.val → t.tile i = s.tile i) ∧
      (∀ g ∈ t.man.flights, g.home ∉ s.sliceBasins b.val) ∧
      (∀ e ∈ (t.basin b.val).pounds, e.2.held = true ∧ e.2.running = false ∧ e.2.step = 0) ∧
      (t.basin b.val).queues = h.queues ∧ ((t.basin b.val).ctx c).sems = [] ∧ (s.now, BitVec.ofNat 32 h.cutId) ∈ ((t.basin b.val).ctx c).tears ∧
      (t.basin b.val).cut = (s.basin b.val).cut)

/-- A basin reset leaves its tiles, slots and pounds empty under a new generation and waits in INIT for its restoration (R503, R524,
Table 15.2); the fourth reset in 15 minutes leaves the basin RETIRED with cause ESCALATION (R533); restoration and rehydration put the
basin back in service, or in READY with its slice held (R524, R526, R607); dumps go from the retention SRAM to 64 flash slots and out on
the wharf (R531, R532). -/
def Obligations.ResetsRestoreTheBasin : Prop :=
  (∀ (s : State) (b : BasinId) (sr : Bool) (ppr : List (BitVec 19)) (fails : List (Fin 4 × BitVec 2)) (x : Status15), (s.basin b.val).st = x →
    ((x.state ≠ .fenced ∨ x.draining = true ∨ x.resetDue = false ∨ (dumpCause x.cause = true ∧ x.dumped = false) ∨
      s.pins.memPg = false) → exec (.basinReset b sr ppr fails) s = .next s) ∧
    (x.state = .fenced → x.draining = false → x.resetDue = true → (dumpCause x.cause = true → x.dumped = true) →
      s.pins.memPg = true → x.retireDue = false → x.window.toNat ≤ 3 →
      ∃ t, exec (.basinReset b sr ppr fails) s = .next t ∧ (t.basin b.val).st.total = satAdd x.total 1 ∧
        (t.basin b.val).st.window = x.window + 1 ∧ (t.basin b.val).st.resetDue = false ∧
        (x.window.toNat < 3 → x.thermalDue = false → (∀ f ∈ fails, f.2 ≠ 0) →
          (t.basin b.val).st.state = .init ∧ (t.basin b.val).st.restoring = true) ∧
        (x.window.toNat < 3 → x.thermalDue = false → (∃ k, ∀ r : BitVec 2, r.toNat ≤ s.memDev.speed.toNat → (k, r) ∈ fails) →
          (t.basin b.val).st.state = .offline ∧ t.memDev.speed = 0) ∧
        (x.window.toNat < 3 → x.thermalDue = true → (t.basin b.val).st.state = .fenced ∧ (t.basin b.val).st.cause = .thermal) ∧
        (x.window.toNat = 3 → (t.basin b.val).st.state = .retired ∧ (t.basin b.val).st.cause = .escalation) ∧
        ((∀ f ∈ fails, f.2 ≠ 0) → (t.basin b.val).gen = nextGen (s.basin b.val).gen) ∧
        (t.basin b.val).pounds = [] ∧ (t.basin b.val).queues = [] ∧
        (t.basin b.val).part = LockPart.fresh ∧ (t.basin b.val).eng = BargeEng.fresh ∧
        (∀ e ∈ (t.basin b.val).slots, e.2.valid = false) ∧
        (∀ i ∈ basinTiles b.val, (t.tile i).mem = Tile.fresh.mem ∧ (t.tile i).core = Tile.fresh.core ∧ (t.tile i).net = Tile.fresh.net) ∧
        (∀ i, i ∉ basinTiles b.val → t.tile i = s.tile i) ∧ t.power = s.power ∧ t.store = s.store)) ∧
  (∀ (s : State) (b : BasinId),
    ∃ t, exec (.resetWindowDecay b) s = .next t ∧
      (t.basin b.val).st.resets = (s.basin b.val).st.resets.filter (fun r => decide (s.now < r + 90000000000)) ∧
      (t.basin b.val).st.window = BitVec.ofNat 8 ((s.basin b.val).st.window.toNat -
        ((s.basin b.val).st.resets.filter fun r => decide (r + 90000000000 ≤ s.now)).length) ∧
      (∀ j, j ≠ b.val → t.basin j = s.basin j) ∧ t = { s with basins := t.basins }) ∧
  (∀ (s : State) (b : BasinId) (ok : Bool) (pg : List (BitVec 19)),
    (((s.basin b.val).st.state ≠ .init ∧ (s.basin b.val).st.state ≠ .ready) ∨ (s.basin b.val).st.restoring = false →
      exec (.restorationComplete b ok pg) s = .next s) ∧
    (((s.basin b.val).st.state ≠ .init ∨ (s.basin b.val).st.restoring = false ∨ s.pins.step ≠ 11) →
      exec (.rehydration b ok) s = .next s)) ∧
  (∀ (s : State) (b : BasinId) (i : Instr) (ok : Bool) (pg : List (BitVec 19)),
    ((i = .restorationComplete b ok pg ∧ ((s.basin b.val).st.state = .init ∨ (s.basin b.val).st.state = .ready)) ∨
      (i = .rehydration b ok ∧ s.pins.step = 11 ∧ (s.basin b.val).st.state = .init)) →
    ((s.basin b.val).st.restoring = true →
      ∃ t, exec i s = .next t ∧ (t.basin b.val).st.restoring = false ∧
        (ok = true → (s.basin b.val).maint.excluded = 0 →
          (t.basin b.val).st.state = (if (s.ordinal b.val).isSome then .serving else .ready)) ∧
        (ok = false → (t.basin b.val).st.state = .ready ∧ (t.basin b.val).st.held = (s.ordinal b.val).isSome ∧
          ∀ c r, r ∈ ((s.basin b.val).ctx c).res → r.state = .loading → r.target = .hot →
            ∃ q ∈ ((t.basin b.val).ctx c).res, q.model = r.model ∧ q.edition = r.edition ∧ q.state = .notReady) ∧
        t.power = s.power ∧ t.time = s.time)) ∧
  (∀ (s : State),
    ∃ t, exec .dumpCopy s = .next t ∧ t.dumps.current = none ∧ t.dumps.flash.length ≤ 64 ∧
      (s.dumps.current = none → t = { s with dumps := { s.dumps with
        flash := ((s.dumps.retention.filter fun r => !s.dumps.flash.contains r) ++ s.dumps.flash).take 64 } }) ∧
      t = { s with dumps := t.dumps }) ∧
  (∀ (s : State),
    (((s.link 95).st ≠ .active ∨ (s.link 95).partnerValid = true) → exec .dumpExport s = .next s) ∧
    ((s.link 95).st = .active → (s.link 95).partnerValid = false →
      ∃ t, exec .dumpExport s = .next t ∧ (∀ d ∈ s.dumps.flash, d ∈ t.dumps.exported) ∧ t.dumps.flash = s.dumps.flash ∧
        (∀ d ∈ s.dumps.flash, d ∉ s.dumps.exported → ∃ m ∈ t.msgs, m.dest = .link 95 ∧ m.msg = .dump d.tick) ∧
        t = { s with dumps := t.dumps, msgs := t.msgs, fab := t.fab, freeCtr := t.freeCtr }))

/-- A device warm reset ends every session, request and command and leaves each basin in INIT, RETIRED or OFFLINE (R455, R536); a
failover makes the standby the active core within a pause, and the second within an hour takes the device out of service (R510, R511,
R535); the handover, the new standby, the drained basins and the flash controller take their images (R509, R512, R513). -/
def Obligations.DeviceStopsFailOverAndSwitchImages : Prop :=
  (∀ (s : State) (i : Instr) (si : StartIn) (lost : List BasinId) (bad : List (BitVec 16 × BitVec 16)),
    ((i = .deviceWarmReset si lost bad ∧ ∃ n, s.mgmt.warmDue = some n ∧ n ≤ s.now) ∨ i = .dualWatchdogMiss si lost bad) →
    ∃ t, exec i s = .next t ∧ t.mgmt.warmDue = none ∧ (∀ n, t.session n = none) ∧ t.man.entries = [] ∧ t.man.flights = [] ∧
      t.ep.running = [] ∧ t.ep.held = [] ∧ t.selects = [] ∧ t.live = [] ∧ t.sec.auths = [] ∧
      (∀ b : BasinId, (t.basin b.val).st.state = .resetting ∨ (t.basin b.val).st.state = .init ∨ (t.basin b.val).st.state = .retired ∨
        (t.basin b.val).st.state = .offline) ∧
      (si.romOk = true → s.loaderOf si ≠ none → si.imagesOk = true → si.mgmtStarts = true → si.nandFailed = [] →
        si.flsGeometry.pageBytes = 16384 → si.flsGeometry.planes = 4 → s.time.locked = true → s.pins.memPg = true →
        (t.pins.step = 11 ∨ t.pins.step = 12) ∧ ∀ b : BasinId, (t.basin b.val).st.state ≠ .resetting) ∧
      (∃ d, (d ∈ t.dumps.retention ∨ d ∈ t.dumps.flash) ∧ d.cause = .warmReset ∧ d.device = true ∧ d.tick = s.now) ∧
      t.time = s.time ∧ t.sec.vendorRev = s.sec.vendorRev ∧
      t.store.objects.map (fun o => (o.model, o.edition, o.committed)) = s.store.objects.map (fun o => (o.model, o.edition, o.committed))) ∧
  (∀ (s : State) (si : StartIn) (lost : List BasinId) (bad : List (BitVec 16 × BitVec 16)),
    (s.mgmt.warmDue = none ∨ ∃ n, s.mgmt.warmDue = some n ∧ s.now < n) → exec (.deviceWarmReset si lost bad) s = .next s) ∧
  (∀ (s : State),
    ∃ t, exec .watchdogFailover s = .next t ∧ t.mgmt.core = 1 - s.mgmt.core ∧ s.now ∈ t.mgmt.failovers ∧ t.ep.pause = true ∧
      s.now < t.ep.pauseEnd ∧ t.ep.pauseEnd ≤ s.now + 1000000 ∧ t.sec.failoverSeen = true ∧
      (∃ d, t.dumps.current = some d ∧ d.failover = true ∧ d.tick = s.now) ∧
      ((∃ n ∈ s.mgmt.failovers, s.now < n + 360000000000) → t.mgmt.oos = true) ∧ t.basins = s.basins ∧ t.tiles = s.tiles) ∧
  (∀ (s : State), ((s.image 1).st ≠ .activating ∨ s.mgmt.activating = false) → ∀ ok, exec (.mgmtHandover ok) s = .next s) ∧
  (∀ (s : State), (s.image 1).st = .activating → s.mgmt.activating = true →
    (∃ t, exec (.mgmtHandover true) s = .next t ∧ (t.image 1).running = (s.image 1).staged ∧ t.mgmt.core = 1 - s.mgmt.core ∧
      t.mgmt.activating = false ∧ t.ep.pause = true ∧ t.ep.pauseEnd ≤ s.now + 100000 ∧
      t = { s with sec := t.sec, mgmt := t.mgmt, ep := t.ep, freeCtr := t.freeCtr }) ∧
    (∃ t, exec (.mgmtHandover false) s = .next t ∧ (t.image 1).st = .failed ∧ (t.image 1).running = (s.image 1).running ∧
      t.mgmt.core = s.mgmt.core ∧ t.mgmt.activating = false)) ∧
  (∀ (s : State), (s.image 1).st = .activating → s.mgmt.activating = false → (s.image 1).burning = false →
    ∃ t, exec .newStandbyStarted s = .next t ∧ (t.image 1).burning = true ∧ (t.image 1).running = (s.image 1).running ∧
      (∀ r ∈ t.ep.running, r.cmd ≠ .fwActivate 1#8) ∧ t.basins = s.basins ∧ t.mgmt = s.mgmt) ∧
  (∀ (s : State) (b : BasinId), (s.basin b.val).imageArmed = true →
    ((s.basin b.val).sliceId = 0 ∨ ((s.basin b.val).cut.lockState = .locking ∧
      (s.modBasin b.val fun y => { y with imageArmed := false }).drained b.val = true)) →
    (∃ t, exec (.basinImageStart b true) s = .next t ∧ (t.basin b.val).image = true ∧ (t.basin b.val).imageArmed = false ∧
      (∀ j, j ≠ b.val → t.basin j = s.basin j) ∧ t.tiles = s.tiles) ∧
    (∃ t, exec (.basinImageStart b false) s = .next t ∧ (t.image 2).st = .failed ∧ (t.basin b.val).image = (s.basin b.val).image ∧
      (∀ j : BasinId, (t.basin j.val).imageArmed = false ∧ (t.basin j.val).imageDue = none) ∧ t.tiles = s.tiles)) ∧
  (∀ (s : State) (b : BasinId) (ok : Bool), (s.basin b.val).imageArmed = false → exec (.basinImageStart b ok) s = .next s) ∧
  (∀ (s : State), (s.image 3).st = .activating → (s.image 3).burning = false →
    ∃ t, exec .flashImageSwitch s = .next t ∧ (t.image 3).running = (s.image 3).staged ∧ (t.image 3).burning = true ∧
      t.flash = { s.flash with journal := s.flash.journal + 1 } ∧ t.basins = s.basins)

/-! ### Dredge windows and lanes -/

/-- A dredge window opens at its phase and closes after 2,000 ticks, and one channel of the basin is calibrated, one router tested and one chunk checked
against its digest in it (R298, R486, R499, Tables 14.3, 14.4); an extra window opens where FORCE_DREDGE asks for one (R617); a calibration that fails fences the basin with cause CHANNEL (R490);
one lane every 30 s leaves for recalibration in a window (R492), and a leaving link calibrates after 20 µs and comes back or fails
(R380, R494). -/
def Obligations.DredgeWindowsAndLanesTakeTheirTurns : Prop :=
  (∀ (s : State) (b : BasinId) (m : Maint) (k : Nat), (s.basin b.val).maint = m → k = 4 * b.val + m.calChan →
    (s.inWindow b.val = true → m.open_ = true → m.extra = false → ∀ r, exec (.dredgeWindowOpen b r) s = .next s) ∧
    (s.inWindow b.val = false → s.extraWindow b.val = none → ∀ r, exec (.dredgeWindowOpen b r) s = .next s) ∧
    (s.inWindow b.val = true → m.open_ = false →
      (∀ e ∈ s.recheckList b.val, sha256 (s.recheckBytes b.val e) = State.digestOf e.image e.chunk) →
      ∃ t, exec (.dredgeWindowOpen b none) s = .next t ∧ (t.basin b.val).maint.open_ = true ∧
        (t.basin b.val).maint.openAt = s.now ∧ (t.basin b.val).maint.extra = false ∧
        (t.basin b.val).maint.windows = m.windows + 1 ∧
        ((s.basin b.val).st.state = .serving ∨ (s.basin b.val).st.state = .ready →
          (t.basin b.val).maint.calChan = (m.calChan + 1) % 4 ∧
          (s.recheckList b.val ≠ [] → (t.basin b.val).maint.recheck =
            (m.recheck + 1) % (s.recheckList b.val).length) ∧
          (t.chan k).st = (if (s.chan k).st = .open then .closed else (s.chan k).st)) ∧
        t = { s with basins := t.basins, memDev := t.memDev, trace := t.trace, freeCtr := t.freeCtr }) ∧
    (∀ i, s.inWindow b.val = true → m.open_ = false → (s.basin b.val).st.state = .serving → s.routerTested b.val = some i →
      (∀ e ∈ s.recheckList b.val, sha256 (s.recheckBytes b.val e) = State.digestOf e.image e.chunk) →
      ∃ t, exec (.dredgeWindowOpen b (some true)) s = .next t ∧ (t.basin b.val).st.state = .fenced ∧ (t.basin b.val).st.cause = .spares ∧
        (t.basin b.val).maint.routerTile = (i + 1) % 136) ∧
    (∀ i, s.inWindow b.val = false → s.extraWindow b.val = some i → m.open_ = false →
      ∃ t, exec (.dredgeWindowOpen b none) s = .next t ∧
        (t.basin b.val).maint = { m with open_ := true, openAt := s.now, extra := true } ∧ (t.perturb i).grants = s.now ∧
        t = { s with basins := t.basins, ptb := t.ptb })) ∧
  (∀ (s : State) (b : BasinId) (m : Maint), (s.basin b.val).maint = m →
    (m.open_ = false → exec (.dredgeWindowClose b) s = .next s) ∧
    (m.open_ = true → m.extra = false → s.inWindow b.val = true → exec (.dredgeWindowClose b) s = .next s) ∧
    (m.open_ = true → ((m.extra = false ∧ s.inWindow b.val = false) ∨ (m.extra = true ∧ m.openAt + 2000 ≤ s.now)) →
      ∃ t, exec (.dredgeWindowClose b) s = .next t ∧ (t.basin b.val).maint = { m with open_ := false, extra := false } ∧
        (∀ j, j ≠ b.val → t.basin j = s.basin j) ∧ t = { s with basins := t.basins })) ∧
  (∀ (s : State) (m : ChanId),
    ((s.chan m.val).st ≠ .closed → ∀ ok, exec (.lpddrCalibrationDone m ok) s = .next s) ∧
    ((s.chan m.val).st = .closed →
      (∃ t, exec (.lpddrCalibrationDone m true) s = .next t ∧ t.chan m.val = { s.chan m.val with st := .open } ∧
        (∀ j, j ≠ m.val → t.chan j = s.chan j) ∧ t = { s with memDev := t.memDev }) ∧
      ((s.basin (m.val / 4)).st.state = .serving →
        ∃ t, exec (.lpddrCalibrationDone m false) s = .next t ∧ (t.basin (m.val / 4)).st.state = .fenced ∧
          (t.basin (m.val / 4)).st.cause = .channel ∧ t.memDev = s.memDev ∧
          (s.lockageOn (s.basin (m.val / 4)).sliceId.toNat = false → t.tiles = s.tiles)))) ∧
  (∀ (s : State) (n : Nat), n = s.fab.laneNext % 96 →
    (((∀ b, b < 8 → (s.basin b).maint.open_ = false ∨ (s.basin b).maint.openAt ≠ s.now) ∨ s.now < s.fab.laneTick + 3000000000) →
      exec .laneRecalibration s = .next s) ∧
    ((∃ b, b < 8 ∧ (s.basin b).maint.open_ = true ∧ (s.basin b).maint.openAt = s.now) → s.fab.laneTick + 3000000000 ≤ s.now →
      (s.link n).st = .active →
      (s.removable n = false → exec .laneRecalibration s = .next s) ∧
      (s.removable n = true →
        ∃ t, exec .laneRecalibration s = .next t ∧ (t.link n).st = .leaving ∧ (t.link n).since = s.now ∧
          t.fab.laneNext = (n + 1) % 96 ∧ t.fab.laneTick = s.now ∧
          t = { s with fab := t.fab, msgs := t.msgs, freeCtr := t.freeCtr }))) ∧
  (∀ (s : State) (n : LinkId),
    (((s.link n.val).st ≠ .leaving ∨ s.now < (s.link n.val).since + 2000) → exec (.leavingExpiry n) s = .next s) ∧
    ((s.link n.val).st = .leaving → (s.link n.val).since + 2000 ≤ s.now →
      ∃ t, exec (.leavingExpiry n) s = .next t ∧ t.link n.val = { s.link n.val with st := .cal, since := s.now } ∧
        (∀ j, j ≠ n.val → t.link j = s.link j) ∧ t = { s with fab := t.fab })) ∧
  (∀ (s : State) (n : LinkId),
    ((s.link n.val).st ≠ .cal → exec (.calComplete n) s = .next s) ∧
    ((s.link n.val).st = .cal →
      ∃ t, exec (.calComplete n) s = .next t ∧ (t.link n.val).st = .active ∧ (t.link n.val).rxSeq = 0 ∧
        (t.link n.val).nakOut = false ∧ (t.link n.val).since = s.now ∧
        t = { s with fab := t.fab, msgs := t.msgs, freeCtr := t.freeCtr })) ∧
  (∀ (s : State) (n : LinkId),
    (((s.link n.val).st ≠ .cal ∨ s.now < (s.link n.val).since + 3000000) → exec (.calTimeout n) s = .next s) ∧
    ((s.link n.val).st = .cal → (s.link n.val).since + 3000000 ≤ s.now →
      ∃ t, exec (.calTimeout n) s = .next t ∧ (t.link n.val).st = .failed ∧ t.tiles = s.tiles ∧ t.store = s.store))

/-! ### Fabric -/

/-- A link discards and NAKs an uncorrectable codeword, accepts flits in order alone, and counts (R367); it fails, trains again once a
second for three attempts, and comes up with sequence numbers at 0 (R378, R390, Table 14.12); a mask is applied where it is newer (R379);
the fabric core forwards a flit for another position on the hop of R390. -/
def Obligations.LinksReceiveFailAndTrain : Prop :=
  (∀ (s : State) (n : LinkId) (h : LinkHdr) (ok : Bool) (k : Nat) (l : Link), s.link n.val = l →
    (l.st ≠ .active → l.st ≠ .leaving → exec (.flitReceive n h ok k) s = .next s) ∧
    ((l.st = .active ∨ l.st = .leaving) →
      (∃ t, exec (.flitReceive n h false k) s = .next t ∧ t.link n.val = { l with
          corrected := satAdd l.corrected k, uncorrectable := satAdd l.uncorrectable 1, nakOut := true,
          replays := if l.nakOut then l.replays else satAdd l.replays 1 } ∧
        (∀ j, j ≠ n.val → t.link j = s.link j) ∧ t = { s with fab := t.fab }) ∧
      (h.nak = false → l.resentSame < 4 →
        ∃ t, exec (.flitReceive n h true k) s = .next t ∧
          (t.link n.val).rxSeq = (if h.type ≠ .idle ∧ h.seq = l.rxSeq then l.rxSeq + 1 else l.rxSeq) ∧
          (h.type ≠ .idle → h.seq = l.rxSeq → (t.link n.val).nakOut = false) ∧ (t.link n.val).st = l.st ∧
          (t.link n.val).corrected = satAdd l.corrected k ∧ (t.link n.val).uncorrectable = l.uncorrectable ∧
          (t.link n.val).replays = l.replays ∧ (∀ j, j ≠ n.val → t.link j = s.link j) ∧ t = { s with fab := t.fab }) ∧
      (h.nak = true → l.resentSame = 3 → ackFlits l.replay h.ack.toNat = l.replay →
        ∃ t, exec (.flitReceive n h true k) s = .next t ∧ (t.link n.val).st = .failed ∧
          (t.link n.val).replays = satAdd l.replays 1))) ∧
  (∀ (s : State) (n : LinkId),
    (((s.link n.val).st = .active ∨ (s.link n.val).st = .leaving ∨ (s.link n.val).st = .training ∨ (s.link n.val).st = .cal) →
      ∃ t, exec (.linkFailure n) s = .next t ∧ (t.link n.val).st = .failed ∧ t.tiles = s.tiles ∧ t.store = s.store ∧
        t.power = s.power) ∧
    (((s.link n.val).st = .down ∨ (s.link n.val).st = .failed) → exec (.linkFailure n) s = .next s)) ∧
  (∀ (s : State) (n : LinkId) (l : Link), s.link n.val = l →
    ((l.st ≠ .failed ∨ 3 ≤ l.attempts.toNat ∨ s.now < l.since + 100000000 ∨ l.admin = 1) → exec (.linkRetrain n) s = .next s) ∧
    (l.st = .failed → l.attempts.toNat < 3 → l.since + 100000000 ≤ s.now → l.admin ≠ 1 →
      ∃ t, exec (.linkRetrain n) s = .next t ∧ t.link n.val = { l with
          st := .training, since := s.now, attempts := l.attempts + 1 } ∧
        (∀ j, j ≠ n.val → t.link j = s.link j) ∧ t = { s with fab := t.fab }) ∧
    (l.st = .failed → l.admin ≠ 1 →
      ∃ t, exec (.partnerSignalReturn n) s = .next t ∧ t.link n.val = { l with st := .training, since := s.now, attempts := 0 } ∧
        (∀ j, j ≠ n.val → t.link j = s.link j) ∧ t = { s with fab := t.fab }) ∧
    (l.st ≠ .failed → exec (.partnerSignalReturn n) s = .next s)) ∧
  (∀ (s : State) (n : LinkId) (p : BitVec 7),
    ((s.link n.val).st ≠ .training → exec (.linkTrainingComplete n p) s = .next s) ∧
    ((s.link n.val).st = .training →
      ∃ t, exec (.linkTrainingComplete n p) s = .next t ∧ (t.link n.val).st = .active ∧ (t.link n.val).rxSeq = 0 ∧
        (t.link n.val).attempts = 0 ∧ (84 ≤ n.val → (t.link n.val).partnerValid = true ∧ (t.link n.val).partner = p) ∧
        (84 ≤ n.val → n.val < 90 → (n.val ∈ t.fab.ignored ↔ s.neighbourPos n.val ≠ p.toNat)) ∧
        t.basins = s.basins ∧ t.tiles = s.tiles)) ∧
  (∀ (s : State) (pos : BitVec 7) (q : BitVec 16) (v : BitVec 84) (m : PeerMask), Tbl.get PeerMask.fresh pos.toNat s.fab.peers = m →
    (m ≠ PeerMask.fresh → q.toNat ≤ m.seq → exec (.mask pos q v) s = .next s) ∧
    ((m = PeerMask.fresh ∨ m.seq < q.toNat) →
      ∃ t, exec (.mask pos q v) s = .next t ∧ Tbl.get PeerMask.fresh pos.toNat t.fab.peers = ⟨q.toNat, v⟩ ∧
        (∀ j, j ≠ pos.toNat → Tbl.get PeerMask.fresh j t.fab.peers = Tbl.get PeerMask.fresh j s.fab.peers) ∧
        t = { s with fab := { s.fab with peers := t.fab.peers } })) ∧
  (∀ (s : State) (d : BitVec 7),
    ((d = s.fab.position ∨ s.towHop d.toNat = none) → exec (.towpathForward d) s = .next s) ∧
    (∀ n, d ≠ s.fab.position → s.towHop d.toNat = some n →
      ∃ t, exec (.towpathForward d) s = .next t ∧ t.msgs = s.msgs ++ [⟨0, .device d.toNat, .towpath d.toNat, some n, 0, 0, 0⟩] ∧
        (∀ j, j ≠ n → t.link j = s.link j) ∧ t = { s with fab := t.fab, msgs := t.msgs }))

/-- A grant of a stranger, or to a basin that its slice does not list, is refused and counted (R384); a control message of a reserved code is discarded
and counted (Table 10.8); one with bad parity is NAKed (R375); a good one lands at its own offset and is
acknowledged when its barge is whole (R373, R374); acknowledgements free the slot, and a NAK or 20 µs without one resends the grant
(R373); REFUSE ends the barge (R384); credits cross devices (R386). -/
def Obligations.GrantsLandAcknowledgeAndResend : Prop :=
  (∀ (s : State) (g : GrantP) (x : Basin) (id : Nat) (h : BargeHdr), s.basin g.dstBasin.val = x → x.sliceId.toNat = id → g.barge = h →
    (x.st.state = .fenced → exec (.grantArrival g) s = .next s) ∧
    (x.st.state = .serving → g.code ≠ 0 → ctrlCode g.code.toNat = false →
      exec (.grantArrival g) s = .next { s with fab := { s.fab with refused := satAdd s.fab.refused 1 } }) ∧
    (x.st.state = .serving → g.code ≠ 0 → ctrlCode g.code.toNat = true → id ≠ 0 → (s.ordinal g.dstBasin.val).isSome = true →
      g.sliceId.toNat = id → (g.srcPos.toNat, g.srcBasin.val) ∈ s.membersOf id → exec (.grantArrival g) s = .next s) ∧
    (x.st.state = .serving → (g.code = 0 ∨ ctrlCode g.code.toNat = true) → (id = 0 ∨ s.ordinal g.dstBasin.val = none ∨ g.sliceId.toNat ≠ id ∨ (g.srcPos.toNat, g.srcBasin.val) ∉ s.membersOf id) →
      ∃ t, exec (.grantArrival g) s = .next t ∧ t.fab.refused = satAdd s.fab.refused 1 ∧
        (∃ m ∈ t.msgs, m.src = g.dstBasin.val ∧ m.dest = .device g.srcPos.toNat ∧ m.msg = .refuse h.slot.toNat) ∧
        t.tiles = s.tiles ∧ t.basins = s.basins ∧ t = { s with fab := t.fab, msgs := t.msgs, freeCtr := t.freeCtr }) ∧
    (x.st.state = .serving → g.code = 0 → id ≠ 0 → (s.ordinal g.dstBasin.val).isSome = true → g.sliceId.toNat = id →
      (g.srcPos.toNat, g.srcBasin.val) ∈ s.membersOf id → h.rows ≠ 0 →
      Tbl.get Landing.fresh (h.origin.toNat * 1024 + h.slot.toNat) x.eng.landings = Landing.fresh →
      (g.parityOk = false → g.resend ≠ 3 →
        ∃ t, exec (.grantArrival g) s = .next t ∧ (∃ m ∈ t.msgs, m.src = g.dstBasin.val ∧ m.dest = .member id h.origin.toNat ∧
          m.msg = .gnak h.slot.toNat g.grant) ∧ t.tiles = s.tiles ∧
          t = { s with basins := t.basins, fab := t.fab, msgs := t.msgs, freeCtr := t.freeCtr }) ∧
      (∀ bs, g.parityOk = true → g.queueFlits = [] → s.destCheck g.dstBasin.val { h with generation := g.generation, epoch := g.epoch } [h] = .ok →
        s.moveWaits g.dstBasin.val h.dst = false → bs = g.data.take (hdrBytes h - 2048 * g.grant) →
        ∃ t, exec (.grantArrival g) s = .next t ∧
          (∀ o p a, h.dst = .sram o p a → Memory.read (t.tile (s.posTile g.dstBasin.val p)).mem.column
            (a.toNat + 2048 * g.grant) bs.length = bs) ∧
          (∀ o a, h.dst = .lpddr o a → x.dram.cache = [] → a.toNat + 2048 * g.grant + bs.length ≤ 128 * s.basinLines →
            (t.basin g.dstBasin.val).peek t.basinLines h.ctx.val (a.toNat + 2048 * g.grant) bs.length = bs) ∧
          (Tbl.get Landing.fresh (h.origin.toNat * 1024 + h.slot.toNat) (t.basin g.dstBasin.val).eng.landings).landed = [g.grant] ∧
          (g.grants ≤ 1 → ∃ m ∈ t.msgs, m.src = g.dstBasin.val ∧ m.dest = .member id h.origin.toNat ∧
            m.msg = .gack h.slot.toNat g.grant g.grant) ∧
          t = { s with
            basins := t.basins, tiles := t.tiles, fab := t.fab, msgs := t.msgs, freeCtr := t.freeCtr,
            mgmt := { s.mgmt with mem := t.mgmt.mem } }))) ∧
  (∀ (s : State) (b : BasinId) (k : BitVec 10) (f l : Nat) (sl : BargeSlot) (new : List Nat),
    Tbl.get BargeSlot.fresh k.toNat (s.basin b.val).eng.slots = sl →
    new = (List.range sl.grants).filter (fun j => decide (f ≤ j) && decide (j ≤ l) && !sl.acked.contains j) →
    ((sl.hdr.rows = 0 ∨ sl.remote = false) → exec (.gack b k f l) s = .next s) ∧
    (sl.hdr.rows ≠ 0 → sl.remote = true → (sl.acked ++ new).length < sl.grants →
      ∃ t, exec (.gack b k f l) s = .next t ∧
        Tbl.get BargeSlot.fresh k.toNat (t.basin b.val).eng.slots = { sl with acked := sl.acked ++ new } ∧
        t = { s with basins := t.basins }) ∧
    (sl.hdr.rows ≠ 0 → sl.remote = true → sl.grants ≤ (sl.acked ++ new).length → s.startable b.val sl.owner = 0 →
      ∃ t, exec (.gack b k f l) s = .next t ∧ Tbl.get BargeSlot.fresh k.toNat (t.basin b.val).eng.slots = BargeSlot.fresh ∧
        t = { s with
          basins := t.basins, trace := t.trace, msgs := t.msgs, fab := t.fab, ptb := t.ptb, freeCtr := t.freeCtr })) ∧
  (∀ (s : State) (b : BasinId) (k : BitVec 10) (j pos : Nat) (sl : BargeSlot) (i : Instr),
    Tbl.get BargeSlot.fresh k.toNat (s.basin b.val).eng.slots = sl →
    (i = .gnak b k j ∨ (i = .grantResendTimeout b k j ∧ max sl.sendTick (Tbl.get 0 j sl.resentAt) + 2000 ≤ s.now)) →
    (s.grantOpen b.val k.toNat j = false → exec i s = .next s) ∧
    (s.grantOpen b.val k.toNat j = true →
      s.remotePos (.member (s.basin b.val).sliceId.toNat (locOrdinal sl.hdr.dst)) = some pos →
      ∃ t, exec i s = .next t ∧ t.fab.resent = satAdd s.fab.resent 1 ∧
        Tbl.get BargeSlot.fresh k.toNat (t.basin b.val).eng.slots = { sl with
          resends := Tbl.set 0 j (min 3 (Tbl.get 0 j sl.resends + 1)) sl.resends, resentAt := Tbl.set 0 j s.now sl.resentAt } ∧
        t = { s with basins := t.basins, fab := t.fab, msgs := t.msgs, ptb := t.ptb, freeCtr := t.freeCtr })) ∧
  (∀ (s : State) (b : BasinId) (k : BitVec 10) (j : Nat) (sl : BargeSlot),
    Tbl.get BargeSlot.fresh k.toNat (s.basin b.val).eng.slots = sl → s.now < max sl.sendTick (Tbl.get 0 j sl.resentAt) + 2000 →
    exec (.grantResendTimeout b k j) s = .next s) ∧
  (∀ (s : State) (b : BasinId) (k : BitVec 10) (sl : BargeSlot) (w : Tow),
    Tbl.get BargeSlot.fresh k.toNat (s.basin b.val).eng.slots = sl → sl.hdr.rows ≠ 0 →
    Tbl.get [] sl.owner (s.basin b.val).eng.tows = [w] → w.id = sl.tow → w.waiting = [] →
    ∃ t v, exec (.refuse b k) s = .next t ∧ Tbl.get BargeSlot.fresh k.toNat (t.basin b.val).eng.slots = BargeSlot.fresh ∧
      Tbl.get [] sl.owner (t.basin b.val).eng.tows = [v] ∧ v.running = w.running - 1 ∧ v.okCount = w.okCount ∧
      v.first = (w.first.orElse fun _ => some .unitFault) ∧ t.power = s.power ∧ t.time = s.time) ∧
  (∀ (s : State) (b : BasinId) (p : PoundId) (q : BitVec 8) (n : Nat),
    ∃ t, exec (.qcredit b p q n) s = .next t ∧ Tbl.get 0 q.toNat ((t.basin b.val).pound p.val).credits =
        min (s.queueOf b.val q.toNat).depth (Tbl.get 0 q.toNat ((s.basin b.val).pound p.val).credits + n) ∧
      (∀ i, i ≠ p.val → (t.basin b.val).pound i = (s.basin b.val).pound i) ∧ t = { s with basins := t.basins }) ∧
  (∀ (s : State) (b : BasinId) (k : BitVec 8) (q : Queue), s.queueOf b.val k.toNat = q →
    ((q.producer ≠ 0xFF ∨ q.owed = 0) → exec (.qcreditTimer b k) s = .next s) ∧
    (q.producer = 0xFF → q.owed ≠ 0 →
      ∃ t, exec (.qcreditTimer b k) s = .next t ∧ t.queueOf b.val k.toNat = { q with owed := 0 } ∧
        (∃ m ∈ t.msgs, m.src = b.val ∧ m.dest = .egress k.toNat ∧ m.msg = .qcredit k.toNat q.owed) ∧
        t = { s with basins := t.basins, msgs := t.msgs, fab := t.fab, freeCtr := t.freeCtr }))

/-! ### Rack time -/

/-- A frame that fails its preamble or its CRC is a missed marker, and the fourth in a row leaves the port for the towpath or for holdover
(R568, R571, R572); a later frame is compared with the counter, and one that differs counts a slip and is loaded (R568); the second of two
valid frames 2^20 apart acquires rack time (R567); TIME of the source loads V less the link delay (R570, R571); a second of holdover marks
the slice's messages unsynchronized (R572). That a marker counts as missed only in a device that has acquired rack time is the model's
reading (log entry 42). -/
def Obligations.RackTimeIsAcquiredLoadedAndHeld : Prop :=
  (∀ (s : State) (p : Byte) (v : BitVec 64) (c : Byte), frameOk p v c = false →
    ((s.time.locked = true ∨ s.time.holdover = true) → (s.time.missRun < 3 ∨ s.time.source = 2#2) →
      exec (.tsyncFrame p v c) s = .next { s with time := { s.time with
        missed := satAdd s.time.missed 1, missRun := s.time.missRun + 1, frame := none } }) ∧
    (s.onPort = true → s.time.missRun = 3 → s.towpathSource = none →
      ∃ t, exec (.tsyncFrame p v c) s = .next t ∧ t.time.holdover = true ∧ t.time.locked = false ∧ t.time.lostAt = s.now ∧
        t.time.hops = 15#4 ∧ t.time.now = s.time.now ∧ t.time.missed = satAdd s.time.missed 1 ∧ t = { s with time := t.time })) ∧
  (∀ (s : State) (p : Byte) (v : BitVec 64) (c : Byte), frameOk p v c = true →
    (s.onPort = true →
      (v = s.time.now → exec (.tsyncFrame p v c) s = .next { s with time := { s.time with missRun := 0 } }) ∧
      (v ≠ s.time.now → ∃ t, exec (.tsyncFrame p v c) s = .next t ∧ t.time = { s.time with
          missRun := 0, slips := satAdd s.time.slips 1, now := v } ∧
        t = { s with time := t.time, power := { s.power with duty := t.power.duty, nextDuty := t.power.nextDuty }, fab := t.fab,
                     msgs := t.msgs, trace := t.trace })) ∧
    (s.onPort = false → s.time.frame ≠ some (v - 0x100000#64).toNat →
      exec (.tsyncFrame p v c) s = .next { s with time := { s.time with frame := some v.toNat } }) ∧
    (s.onPort = false → s.time.frame = some (v - 0x100000#64).toNat →
      ∃ t, exec (.tsyncFrame p v c) s = .next t ∧ t.time.now = v ∧ t.time.source = 1#2 ∧ t.time.locked = true ∧ t.time.hops = 0#4 ∧
        t.time.holdover = false ∧ t.time.unsync = false ∧ t.time.missRun = 0 ∧
        t.time.slips = (if (s.time.locked = true ∨ s.time.holdover = true) ∧ v ≠ s.time.now then satAdd s.time.slips 1 else s.time.slips) ∧
        t = { s with time := t.time, power := { s.power with duty := t.power.duty, nextDuty := t.power.nextDuty }, fab := t.fab,
                     msgs := t.msgs, trace := t.trace })) ∧
  (∀ s : State,
    (s.time.source = 2#2 → exec .tclkLoss s = .next { s with time := { s.time with missRun := max s.time.missRun 4, frame := none } }) ∧
    (s.time.source ≠ 2#2 →
      (∀ n h, s.towpathSource = some (n, h) → ∃ t, exec .tclkLoss s = .next t ∧ t.time.source = 2#2 ∧ t.time.locked = true ∧
        t.time.holdover = false ∧ t.time.lockedTo = some n ∧ t.time.hops = BitVec.ofNat 4 (h + 1) ∧ t.time.now = s.time.now ∧
        t = { s with time := t.time }) ∧
      (s.towpathSource = none → s.time.locked = true → ∃ t, exec .tclkLoss s = .next t ∧ t.time.holdover = true ∧
        t.time.locked = false ∧ t.time.lostAt = s.now ∧ t.time.now = s.time.now ∧ t = { s with time := t.time }) ∧
      (s.towpathSource = none → s.time.locked = false →
        exec .tclkLoss s = .next { s with time := { s.time with missRun := max s.time.missRun 4, frame := none } }))) ∧
  (∀ (s : State) (n : LinkId) (v : BitVec 64) (h : BitVec 4) (d : Nat),
    ((n.val < 84 ∨ 90 ≤ n.val) → exec (.time n v h d) s = .next s) ∧
    (84 ≤ n.val → n.val < 90 →
      (s.onPort = true → exec (.time n v h d) s =
        .next { s with time := { s.time with peers := Tbl.set 15 n.val h.toNat s.time.peers } }) ∧
      (s.time.source = 2#2 → s.time.lockedTo = some n.val → h.toNat < 15 →
        ∃ t, exec (.time n v h d) s = .next t ∧ t.time = { s.time with
            now := v + BitVec.ofNat 64 d, hops := BitVec.ofNat 4 (h.toNat + 1), peers := Tbl.set 15 n.val h.toNat s.time.peers } ∧
          t = { s with time := t.time, power := { s.power with duty := t.power.duty, nextDuty := t.power.nextDuty }, fab := t.fab,
                       msgs := t.msgs, trace := t.trace }))) ∧
  (∀ s : State,
    (s.time.holdover = true → s.time.lostAt + 100000000 ≤ s.now →
      exec .holdover s = .next { s with time := { s.time with unsync := true } }) ∧
    ((s.time.holdover = false ∨ s.now < s.time.lostAt + 100000000) → exec .holdover s = .next s))

/-! ### Power, temperature and input -/

/-- At a power boundary tau and E are set for the coming millisecond (R586, R590); a plan step sets where C goes (R585); SHED_N holds E at
300 W at once and until the next boundary (R588); without a heartbeat C and E take no rise after 1 s and fall to the safe cap after 60 s
(R589). -/
def Obligations.CapsFollowPlansShedAndHeartbeat : Prop :=
  (∀ s : State,
    (s.now / 100000 ≤ s.power.boundary → exec .powerBoundary s = .next s) ∧
    (s.power.boundary < s.now / 100000 →
      ∃ t e tau, exec .powerBoundary s = .next t ∧
        e = nextCap s.power.capE (lowestCap s.power.plan s.power s.now (s.now + 100000)) s.power.slew s.power.rmLost ∧
        tau = (if 1000 ≤ s.power.tj.toInt then max 25 (s.power.tau.toNat - 5)
          else if s.power.thermal = 2#2 ∨ (s.power.thermal = 3#2 ∧ 970 ≤ s.power.tj.toInt) then s.power.tau.toNat
          else min 100 (s.power.tau.toNat + 1)) ∧
        t.power.capE = (if s.power.shed = true then min e (wattUnits 300) else e) ∧ t.power.boundary = s.now / 100000 ∧
        t.power.tau = BitVec.ofNat 7 tau ∧ t.power.level = BitVec.ofNat 7 (levelOf t.power.capE t.power.tau.toNat) ∧
        t.power.capC = s.power.capC ∧ t.power.target = s.power.target ∧ t.power.plan = s.power.plan ∧
        EndpointOnly { s with power := t.power, trace := t.trace } t)) ∧
  (∀ s : State,
    ((∀ k ∈ s.power.plan, s.now < k.start) → exec .planStep s = .next s) ∧
    (∀ k c, s.power.plan = [k] → k.start ≤ s.now → c = s.power.capAtTick s.now →
      ∃ t, exec .planStep s = .next t ∧ t.power.plan = [] ∧ t.power.capC = c ∧ t.power.capAt = s.now ∧ t.power.planSlew = k.slew ∧
        (s.power.safe = false → t.power.slew = k.slew ∧ t.power.target = (if s.power.rmLost = true then min c k.cap else k.cap)) ∧
        (s.power.safe = true → s.power.safeCap ≤ k.cap → t.power.slew = 40 ∧ t.power.target = min c s.power.safeCap) ∧
        t.power.capE = s.power.capE ∧ EndpointOnly { s with power := t.power } t)) ∧
  (∀ s : State,
    (s.power.shed = true → exec .shedFall s = .next s) ∧
    (s.power.shed = false →
      ∃ t, exec .shedFall s = .next t ∧ t.power.shed = true ∧ t.power.capE = min s.power.capE (wattUnits 300) ∧
        t.power.level = BitVec.ofNat 7 (levelOf t.power.capE s.power.tau.toNat) ∧ t.power.target = s.power.target ∧
        (s.now % 256 = 0 → s.power.inputLow = false →
          t.power.duty = BitVec.ofNat 9 (dutyOf (levelOf t.power.capE s.power.tau.toNat))) ∧
        EndpointOnly { s with power := t.power, trace := t.trace } t) ∧
    (s.power.shed = false → exec .shedRise s = .next s) ∧
    (s.power.shed = true → s.now / 100000 ≤ s.power.boundary →
      ∃ t, exec .shedRise s = .next t ∧ t.power = { s.power with shed := false } ∧ EndpointOnly { s with power := t.power } t)) ∧
  (∀ (s : State) (c : Nat), c = s.power.capAtTick s.now → s.inService = true →
    ((s.now < s.power.heartbeat + 100000000 ∨ s.power.rmLost = true) → exec .rmLost s = .next s) ∧
    (s.power.heartbeat + 100000000 ≤ s.now → s.power.rmLost = false →
      ∃ t, exec .rmLost s = .next t ∧ t.power = { s.power with
          rmLost := true, capC := c, capAt := s.now, target := min c s.power.target } ∧
        EndpointOnly { s with power := t.power } t) ∧
    ((s.now < s.power.heartbeat + 6000000000 ∨ s.power.safe = true) → exec .safeCap s = .next s) ∧
    (s.power.heartbeat + 6000000000 ≤ s.now → s.power.safe = false →
      ∃ t, exec .safeCap s = .next t ∧ t.power = { s.power with
          safe := true, capC := c, capAt := s.now,
          target := if s.power.safeCap < c then min s.power.target s.power.safeCap else s.power.target,
          slew := if s.power.safeCap < c then 40 else s.power.slew } ∧
        EndpointOnly { s with power := t.power } t)) ∧
  (∀ s : State, s.inService = false → exec .rmLost s = .next s ∧ exec .safeCap s = .next s)

/-- Temperature acts by its thresholds: 120 degC turns the rails off, 110 degC fences a basin, 100 degC throttles (R590, Table 17.7); a
cool basin is released and stays FENCED (R590). Low input stops the rows and puts the channels in self-refresh, restored input opens them
and lets E rise from 260 W, and below 34 V the rails go off (R591). -/
def Obligations.TemperatureAndInputActByThreshold : Prop :=
  (∀ (s : State) (temps : List Int) (m hot : Int), hot = temps.foldl max m →
    (1200 ≤ hot → ∃ t, exec (.thermalSample temps m) s = .next t ∧ t.pins.rails = false ∧ t.tiles = [] ∧ t.time.now = s.time.now) ∧
    (hot < 1100 →
      (s.hotBasins = [] → 1000 ≤ hot → ∃ t, exec (.thermalSample temps m) s = .next t ∧ t.power.thermal = 2#2 ∧
        t.power.tj = BitVec.ofInt 12 hot ∧ t.power.mgmtTemp = m ∧ t.power.capE = s.power.capE ∧ t.power.tau = s.power.tau ∧
        EndpointOnly { s with power := t.power } t) ∧
      (s.hotBasins = [] → -1000 ≤ hot → hot < 920 → ∃ t, exec (.thermalSample temps m) s = .next t ∧ t.power.thermal = 0#2 ∧
        EndpointOnly { s with power := t.power } t)) ∧
    (hot < 1200 → ∀ (b : BasinId) (x : Int), temps[b.val]? = some x → 1100 ≤ x → (s.basin b.val).st.state = .serving →
      ∃ t, exec (.thermalSample temps m) s = .next t ∧ (t.basin b.val).st.state = .fenced ∧ (t.basin b.val).st.cause = .thermal ∧
        t.power.thermal = 3#2 ∧ ((∀ n, s.lockageOn n = false) → t.tiles = s.tiles) ∧ t.store = s.store)) ∧
  (∀ (s : State) (b : BasinId) (c : Nat), c = Tbl.get 0 b.val s.power.coolSince →
    ((c = 0 ∨ s.now < c - 1 + 100000000 ∨ (s.basin b.val).st.state ≠ .fenced ∨ (s.basin b.val).st.cause ≠ .thermal) →
      exec (.thermalRelease b) s = .next s) ∧
    (c ≠ 0 → c - 1 + 100000000 ≤ s.now → (s.basin b.val).st.state = .fenced → (s.basin b.val).st.cause = .thermal →
      (s.basin b.val).st.released = false →
      ∃ t, exec (.thermalRelease b) s = .next t ∧ (t.basin b.val).st = { (s.basin b.val).st with released := true } ∧
        (∀ j, j ≠ b.val → t.basin j = s.basin j) ∧ t.power = { s.power with thermal := t.power.thermal } ∧
        EndpointOnly { s with power := t.power, basins := t.basins } t)) ∧
  (∀ s : State,
    ((s.pins.rails = false ∨ s.power.inputLow = true) → exec .inputLow s = .next s) ∧
    (s.pins.rails = true → s.power.inputLow = false →
      (s.pins.step.toNat < 6 → ∃ t, exec .inputLow s = .next t ∧ t.pins.rails = false ∧ t.pins.vinOk = false ∧ t.time.now = s.time.now) ∧
      (6 ≤ s.pins.step.toNat → ∃ t, exec .inputLow s = .next t ∧ t.power = { s.power with
          inputLow := true, lowSince := s.now, duty := 0, nextDuty := none } ∧ t.pins.vinOk = false ∧ t.mgmt.logsSaved = true ∧
        (∀ c : ChanId, t.chan c.val = (if (s.chan c.val).st = .untrained then s.chan c.val else
          { s.chan c.val with st := .selfRefresh })) ∧
        t = { s with power := t.power, memDev := t.memDev, mgmt := t.mgmt, ep := t.ep, trace := t.trace,
                     pins := { s.pins with vinOk := false, alertN := t.pins.alertN } }))) ∧
  (∀ s : State,
    (s.power.inputLow = false → exec .inputRestored s = .next { s with pins := { s.pins with vinOk := true } }) ∧
    (s.power.inputLow = true → ∃ t, exec .inputRestored s = .next t ∧ t.power.inputLow = false ∧ t.power.capE = wattUnits 260 ∧
      t.power.target = s.power.target ∧ t.pins.vinOk = true ∧
      (∀ c : ChanId, t.chan c.val = (if (s.chan c.val).st = .selfRefresh then { s.chan c.val with st := .open } else s.chan c.val)) ∧
      t.tiles = s.tiles ∧ t.store = s.store ∧ t.man = s.man ∧ t.time = s.time)) ∧
  (∀ s : State, ∃ t, exec .inputCollapse s = .next t ∧ t.pins.rails = false ∧ t.pins.vinOk = false ∧ t.tiles = [] ∧
    t.time = { s.time with latchHi := 0 } ∧ t.store.objects = s.store.objects ∧ t.dumps.retention = s.dumps.retention ∧
    (∀ b : BasinId, (t.basin b.val).st.state = .offline))

/-! ### Pins, rails and start-up -/

/-- SYS_RST_N and the loss of the standby supply turn the rails off (R599, R484): registers, memories and sessions return to their reset
values, while the store, the fuses and, under standby, rack time stay; a loss of standby clears the RWS fields as well (Table 0.1). MEM_PG
fences every basin with cause CHANNEL (Table 18.10). -/
def Obligations.DeviceStopsKeepWhatFlashAndStandbyKeep : Prop :=
  (∀ s : State, ∃ t, exec .sysRstFall s = .next t ∧ t.pins.rails = false ∧ t.pins.sysRst = true ∧ t.pins.pgRail = false ∧
    t.pins.pgRun = false ∧ t.pins.step = 0 ∧ t.ep = State.reset.ep ∧ t.man = State.reset.man ∧ t.tiles = [] ∧
    t.time = { s.time with latchHi := 0 } ∧ t.store.objects = s.store.objects ∧ t.flash = s.flash ∧
    t.dumps.retention = s.dumps.retention ∧ t.sec.opHash = s.sec.opHash ∧ t.sec.opRev = s.sec.opRev ∧ t.pending = s.pending ∧
    (∀ b : BasinId, (t.basin b.val).st.state = .offline ∧ (t.basin b.val).sliceId = (s.basin b.val).sliceId)) ∧
  (∀ s : State, ∃ t, exec .standbySupplyLoss s = .next t ∧ t.pins.rails = false ∧ t.pins.vinOk = false ∧ t.time = State.reset.time ∧
    t.dumps.retention = [] ∧ t.fab.valid = false ∧ t.fab.position = 0 ∧ t.store.objects = s.store.objects ∧
    t.sec.opHash = s.sec.opHash ∧ t.pending = s.pending ∧
    (∀ b : BasinId, (t.basin b.val).st.state = .offline ∧ (t.basin b.val).sliceId = 0 ∧ (t.basin b.val).st.total = 0)) ∧
  (∀ s : State,
    (s.pins.rails = false → exec .memPgFall s = .next { s with pins := { s.pins with memPg := false } }) ∧
    (s.pins.rails = true → ∃ t, exec .memPgFall s = .next t ∧ t.pins.memPg = false ∧ t.pins.lpddrReset = true ∧
      (∀ b : BasinId, ((s.basin b.val).st.state = .serving ∨ (s.basin b.val).st.state = .ready) →
        (t.basin b.val).st.state = .fenced ∧ (t.basin b.val).st.cause = .channel) ∧
      (∀ b : BasinId, (s.basin b.val).st.state = .offline → (t.basin b.val).st.state = .offline) ∧
      ((∀ n, s.lockageOn n = false) → t.tiles = s.tiles) ∧ t.time = s.time) ∧
    exec .memPgRise s = .next { s with pins := { s.pins with
      memPg := true, lpddrReset := if 11 ≤ s.pins.step.toNat then false else s.pins.lpddrReset } }) ∧
  (∀ (s : State) (a : BitVec 7),
    ((s.inService = true ∨ s.pins.recovery = true) →
      exec (.i3cDynamicAddress a) s = .next { s with pins := { s.pins with i3cAddr := some a } }) ∧
    (s.inService = false → s.pins.recovery = false → exec (.i3cDynamicAddress a) s = .next s)) ∧
  (∀ s : State,
    (s.eth.st ≠ 2#2 → exec .ethLinkLoss s = .next s) ∧
    (s.eth.st = 2#2 → ∃ t, exec .ethLinkLoss s = .next t ∧ t.eth = { s.eth with st := 1, xoff := [], paused := [], levels := [] } ∧
      t = { s with eth := t.eth, ep := { s.ep with waiting := t.ep.waiting } }) ∧
    (∀ m : BitVec 2, s.eth.st = 1#2 → s.eth.portReset = false → m = s.eth.mode →
      exec (.ethTrainingComplete m) s = .next { s with eth := { s.eth with st := 2, stMode := m } }) ∧
    (∀ m : BitVec 2, (s.eth.st ≠ 1#2 ∨ s.eth.portReset = true ∨ m ≠ s.eth.mode) → exec (.ethTrainingComplete m) s = .next s))

/-- Start-up runs the steps of Table 18.6 in order (R606): no rail without its supplies (R600), rails tried again three times, a boot
without a valid loader halts in step 5, a loader that starts no management image is counted (R547; log entry 193), images that do not boot leave the
recovery endpoint (R547, R548), channels that fail at 800 MT/s are reported and another geometry halts (R258, R260), and with all of it good the links train,
rack time is acquired and every basin whose channels trained stands in INIT with memories of zeros and a new generation (R503). -/
def Obligations.StartUpRunsItsSteps : Prop :=
  (∀ (s : State) (i : StartIn),
    ((s.pins.halted = true ∨ s.pins.recovery = true ∨ s.pins.sysRst = true ∨ 11 ≤ s.pins.step.toNat) → exec (.startUp i) s = .next s) ∧
    (s.pins.sysRst = false → exec (.sysRstRise i) s = .next s) ∧
    ((s.pins.rails = true ∨ s.pins.halted = true ∨ s.pins.sysRst = true ∨ s.pins.failed ≠ 3#4) → exec (.railRetry i) s = .next s)) ∧
  (∀ (s s0 : State) (i : StartIn) (c : Instr) (n : BitVec 8), s.pins.rails = false → s.pins.recovery = false →
    ((c = .startUp i ∧ s.pins.halted = false ∧ s.pins.sysRst = false ∧ s.pins.step.toNat < 11 ∧ s.pins.failed ≠ 3#4 ∧ n = 0#8 ∧ s0 = s) ∨
      (c = .railRetry i ∧ s.pins.halted = false ∧ s.pins.sysRst = false ∧ s.pins.failed = 3#4 ∧ n = s.pins.attempts + 1 ∧ s0 = s) ∨
      (c = .sysRstRise i ∧ s.pins.sysRst = true ∧ n = 0#8 ∧
        s0 = { s with pins := { s.pins with sysRst := false, halted := false, failed := 0 } })) →
    ((i.supplyOk = false ∨ i.memPg = false) →
      exec c s = .next { s0 with pins := { s0.pins with vinOk := i.supplyOk, memPg := i.memPg, attempts := n } }) ∧
    (i.supplyOk = true → i.memPg = true →
      (i.railsOk = false → exec c s = .next { s0 with pins := { s0.pins with
        vinOk := true, memPg := true, attempts := n, failed := 3, halted := decide (3 ≤ n.toNat) } }) ∧
      (i.railsOk = true → i.romOk = false → ∃ t, exec c s = .next t ∧ t.pins.rails = true ∧ t.pins.halted = true ∧ t.pins.failed = 4#4 ∧
        t = { s0 with pins := t.pins }) ∧
      (i.railsOk = true → i.romOk = true →
        (s.loaderOf i = none → ∃ t, exec c s = .next t ∧ t.pins.halted = true ∧ t.pins.failed = 5#4 ∧ t.pins.step = 4#4 ∧
          t = { s0 with pins := t.pins, sec := t.sec, freeCtr := t.freeCtr }) ∧
        (∀ f, s.loaderOf i = some f → i.imagesOk = false → ∃ t, exec c s = .next t ∧ t.pins.recovery = true ∧ t.pins.failed = 6#4 ∧
          t.pins.pgRun = false ∧ t = { s0 with pins := t.pins, sec := t.sec, freeCtr := t.freeCtr }) ∧
        (∀ f, s.loaderOf i = some f → i.imagesOk = true → i.mgmtStarts = false → ∃ t, exec c s = .next t ∧ t.pins.halted = true ∧
          t.pins.failed = 6#4 ∧ t.mgmt = { s0.mgmt with bootFails := s.mgmt.bootFails + 1 } ∧
          t = { s0 with pins := t.pins, sec := t.sec, mgmt := t.mgmt, freeCtr := t.freeCtr }) ∧
        (∀ f, s.loaderOf i = some f → i.imagesOk = true → i.mgmtStarts = true →
          (∀ r : BitVec 3, r ≤ i.flsSpeed → ∃ k ∈ i.nandFailed, k.2 = r) →
          ∃ t, exec c s = .next t ∧ t.pins.halted = true ∧ t.pins.failed = 6#4 ∧ t.pins.pgRun = false ∧ t.flash.speed = 0 ∧
            t.pins.nandFault = (i.nandFailed.filter fun k => k.2 == 0).map (·.1) ∧ t.mgmt = { s0.mgmt with bootFails := 0 } ∧
            t = { s0 with pins := t.pins, sec := t.sec, mgmt := t.mgmt, flash := t.flash, freeCtr := t.freeCtr }) ∧
        (∀ f, s.loaderOf i = some f → i.imagesOk = true → i.mgmtStarts = true → i.nandFailed = [] →
          (i.flsGeometry.pageBytes ≠ 16384 ∨ i.flsGeometry.planes ≠ 4) →
          ∃ t, exec c s = .next t ∧ t.pins.halted = true ∧ t.pins.failed = 6#4 ∧
            t = { s0 with pins := t.pins, sec := t.sec, mgmt := t.mgmt, flash := t.flash, freeCtr := t.freeCtr }) ∧
        (∀ f, s.loaderOf i = some f → i.imagesOk = true → i.mgmtStarts = true → i.nandFailed = [] →
          i.flsGeometry.pageBytes = 16384 → i.flsGeometry.planes = 4 → i.timeSource = true →
          (∀ b : BasinId, (s.basin b.val).st.state = .offline) →
          ∃ t, exec c s = .next t ∧ (t.pins.step = 11#4 ∨ t.pins.step = 12#4) ∧ t.pins.rails = true ∧ t.pins.pgRail = true ∧
            t.pins.pgRun = !s.mgmt.oos ∧ t.time.now = i.tickAtEnd ∧ t.time.source = 1#2 ∧ t.time.locked = true ∧ t.time.hops = 0#4 ∧
            t.power.heartbeat = i.tickAtEnd.toNat ∧ t.memDev.density = i.memDensity ∧ t.flash.speed = i.flsSpeed ∧
            (∀ l : LinkId, l.val < 84 → (t.link l.val).st = (if l ∈ i.switchUp then LinkSt.active else LinkSt.failed)) ∧
            (∀ (b : BasinId) (m : ChanId), m.val / 4 = b.val → (∀ r : BitVec 2, r ≤ i.memSpeed → (m, r) ∈ i.lpddrFailed) →
              (t.basin b.val).st.state = .offline) ∧
            (∀ b : BasinId, (∀ m ∈ i.lpddrFailed, m.1.val / 4 ≠ b.val) →
              (t.basin b.val).st.state = .init ∧ (t.basin b.val).gen ≠ 0 ∧
              (∀ k < 136, (t.tile (136 * b.val + k)).mem = Tile.fresh.mem) ∧ (∀ k < 4, (t.chan (4 * b.val + k)).st = .open)) ∧
            t.pending = s.pending))))

/-! ### Flash, loads and fills -/

/-- A codeword of the data or the metadata area goes through the ladder of Table 7.3: its page reads, retries, soft decodes and losses are counted, and the
readable extents of a worn or bad block's superblock move (R266, R268, R272); an extent moves in one journal record and only once its copy is good (R274);
wear is levelled at a gap of more than 500 erases (R271); every patrol read is recorded, and a chunk that fails its digest is lost unless a good WARM copy
rewrites it (R269, R273, R297), and the counts are saved (R277). Which superblock is open, and that blocks are erased as it opens, is the model's choice (log
entry 63). -/
def Obligations.FlashReadsMovesAndCounts : Prop :=
  (∀ (s : State) (x : BitVec 20) (w : BitVec 12) (sp : List (BitVec 20)) (sb ch k pg : Nat) (y : FlashBlock) (n : CodewordOutcome → Nat),
    ch = w.toNat / 16 % 32 → k = s.blockIn ch sb → y = s.block ch k → pg = 32 * s.slotOf x.toNat + 4 * (w.toNat / 512) + w.toNat % 16 / 4 →
    n = (fun o => y.reads + State.ladderReads o + (if y.page = pg + 1 then 0 else 1)) →
    (s.superOf x.toNat = none → ∀ o, exec (.flashCodewordRead (.data x w) o sp) s = .next s) ∧
    (s.superOf x.toNat = some sb →
      (∃ t, exec (.flashCodewordRead (.data x w) .hard sp) s = .next t ∧ t.block ch k = { y with reads := n .hard, page := pg + 1 } ∧
        t = { s with flash := { s.flash with blocks := t.flash.blocks } }) ∧
      (∀ l : Fin 15, l.val < 7 → ∃ t, exec (.flashCodewordRead (.data x w) (.retry l) sp) s = .next t ∧
        t.block ch k = { y with reads := n (.retry l), page := pg + 1 } ∧ t.flash.retry = satAdd s.flash.retry 1 ∧
        t = { s with flash := { s.flash with blocks := t.flash.blocks, retry := t.flash.retry } }) ∧
      (∀ o z m, (o = .soft ∨ ∃ r : Fin 15, 7 ≤ r.val ∧ o = .retry r) → s.superAt ch k = some z →
        m = (s.extentsIn z).filter (fun e => !s.flash.badExtents.contains e) →
        (∃ t, exec (.flashCodewordRead (.data x w) o sp) s = .next t ∧ (∀ e ∈ m, (t.superOf e).isSome = true) ∧
          s.flash.journal ≤ t.flash.journal ∧ t.flash.retry = satAdd s.flash.retry 1 ∧ t.flash.uncorr = s.flash.uncorr ∧
          t.flash.badExtents = s.flash.badExtents ∧ t = { s with flash := t.flash }) ∧
        (∀ u v, s.flash.openSuper = some (u, v) → u ≠ z → v + m.length ≤ s.superExtents → s.superExtents ≤ 65536 → s.superGood u = true →
          ∃ t, exec (.flashCodewordRead (.data x w) o []) s = .next t ∧ (∀ e ∈ m, t.superOf e = some u) ∧
            (∀ e, e ∉ m → Tbl.get 0 e t.flash.map = Tbl.get 0 e s.flash.map) ∧ t.flash.journal = s.flash.journal + m.length ∧
            t.flash.openSuper = some (u, v + m.length))) ∧
      (y.bad = false → ∃ t, exec (.flashCodewordRead (.data x w) .uncorrectable sp) s = .next t ∧ (t.block ch k).bad = true ∧
        t.flash.uncorr = satAdd s.flash.uncorr 1 ∧ t.flash.grownBad = satAdd s.flash.grownBad 1 ∧ t.flash.retry = s.flash.retry ∧
        t.tiles = s.tiles ∧ t.power = s.power))) ∧
  (∀ (s : State) (c : ChanId) (k : Nat) (pg : BitVec 16) (sp : List (BitVec 20)) (y : FlashBlock), k < 65536 → y = s.block c.val k →
    (s.slcBlock c.val k = false → ∀ o, exec (.flashCodewordRead (.metadata c k pg) o sp) s = .next s) ∧
    (s.slcBlock c.val k = true →
      (∃ t, exec (.flashCodewordRead (.metadata c k pg) .hard sp) s = .next t ∧
        t.block c.val k = { y with reads := y.reads + (if y.page = pg.toNat + 1 then 0 else 1), page := pg.toNat + 1 } ∧
        t = { s with flash := { s.flash with blocks := t.flash.blocks } }) ∧
      (y.bad = false → ∃ t, exec (.flashCodewordRead (.metadata c k pg) .uncorrectable sp) s = .next t ∧ (t.block c.val k).bad = true ∧
        t.flash.uncorr = satAdd s.flash.uncorr 1 ∧ t.flash.grownBad = satAdd s.flash.grownBad 1 ∧ t.store = s.store))) ∧
  (∀ (s : State) (c : ChanId) (k : Nat) (sp : List (BitVec 20)), k < 65536 →
    ((s.block c.val k).bad = true → exec (.grownBadBlock c k sp) s = .next s) ∧
    ((s.block c.val k).bad = false → ∃ t, exec (.grownBadBlock c k sp) s = .next t ∧ (t.block c.val k).bad = true ∧
      t.flash.grownBad = satAdd s.flash.grownBad 1 ∧ t.flash.uncorr = s.flash.uncorr ∧ t.store = s.store ∧ t.tiles = s.tiles ∧
      EndpointOnly { s with flash := t.flash } t)) ∧
  (∀ (s : State) (x : BitVec 20) (k v : Nat),
    (s.superOf x.toNat = none → ∀ ok, exec (.extentMove x k ok) s = .next s) ∧ exec (.extentMove x k false) s = .next s ∧
    ((s.superOf x.toNat = some k ∨ s.flash.supers ≤ k ∨ s.superGood k = false) → exec (.extentMove x k true) s = .next s) ∧
    ((s.superOf x.toNat).isSome = true → s.superOf x.toNat ≠ some k → k < s.flash.supers → s.superGood k = true →
      s.flash.openSuper = some (k, v) → v < s.superExtents →
      exec (.extentMove x k true) s = .next { s with flash := { s.flash with
        openSuper := some (k, v + 1), patrolled := Tbl.set 0 x.toNat s.now s.flash.patrolled,
        map := Tbl.set 0 x.toNat (65536 * k + v + 1) s.flash.map, journal := s.flash.journal + 1 } })) ∧
  (∀ (s : State) (c : ChanId) (k : Nat) (sp : List (BitVec 20)), k < 65536 →
    (((s.block c.val k).reads < Config.boardConfig 0 ∨ (s.block c.val k).bad = true) → exec (.readDisturbRefresh c k sp) s = .next s) ∧
    (Config.boardConfig 0 ≤ (s.block c.val k).reads → (s.block c.val k).bad = false → ∀ z m, s.superAt c.val k = some z →
      m = (s.extentsIn z).filter (fun e => !s.flash.badExtents.contains e) →
      (∃ t, exec (.readDisturbRefresh c k sp) s = .next t ∧ (∀ e ∈ m, (t.superOf e).isSome = true) ∧
        s.flash.journal ≤ t.flash.journal ∧ t.flash.retry = s.flash.retry ∧ t = { s with flash := t.flash }) ∧
      (∀ u v, s.flash.openSuper = some (u, v) → u ≠ z → v + m.length ≤ s.superExtents → s.superExtents ≤ 65536 → s.superGood u = true →
        ∃ t, exec (.readDisturbRefresh c k []) s = .next t ∧ (∀ e ∈ m, t.superOf e = some u) ∧
          (∀ e, e ∉ m → Tbl.get 0 e t.flash.map = Tbl.get 0 e s.flash.map) ∧ t.flash.journal = s.flash.journal + m.length))) ∧
  (∀ (s : State) (c : ChanId) (low high : Nat) (ok : Bool), low < 65536 → high < 65536 →
    (((s.block c.val high).erases ≤ (s.block c.val low).erases + 500 ∨ ok = false) → exec (.wearLevel c low high ok) s = .next s) ∧
    (∀ x l i k v, (s.block c.val low).erases + 500 < (s.block c.val high).erases → s.superAt c.val low = some i →
      s.superAt c.val high = some k → s.extentsIn i = x :: l → s.superOf x ≠ some k → k < s.flash.supers → s.superGood k = true →
      s.flash.openSuper = some (k, v) → v < s.superExtents →
      exec (.wearLevel c low high true) s = .next { s with flash := { s.flash with
        openSuper := some (k, v + 1), patrolled := Tbl.set 0 x s.now s.flash.patrolled,
        map := Tbl.set 0 x (65536 * k + v + 1) s.flash.map, journal := s.flash.journal + 1 } })) ∧
  (∀ (s : State) (x : BitVec 20) (sp : List (BitVec 20)),
    (s.superOf x.toNat = none → ∀ l d, exec (.patrolRead x l d sp) s = .next s) ∧
    ((s.superOf x.toNat).isSome = true →
      (∃ t, exec (.patrolRead x [] none sp) s = .next t ∧ Tbl.get 0 x.toNat t.flash.patrolled = s.now ∧ t.flash.map = s.flash.map ∧
        t = { s with flash := t.flash }) ∧
      (∀ o (j : BitVec 8), s.objectAt x.toNat = some o → o.digestMode = true →
        o.shardsIn (extentBytes * o.extents.idxOf x.toNat + 65536 * j.toNat) 65536 ≠ [] →
        ((∀ k, s.warmGood o k = false) → ∃ t, exec (.patrolRead x [] (some j) sp) s = .next t ∧
          Tbl.get 0 x.toNat t.flash.patrolled = s.now ∧ x.toNat ∈ t.flash.badExtents ∧ t.tiles = s.tiles ∧ t.power = s.power) ∧
        ((∀ k, s.warmGood o k = true) → ∃ t, exec (.patrolRead x [] (some j) sp) s = .next t ∧
          Tbl.get 0 x.toNat t.flash.patrolled = s.now ∧ (t.superOf x.toNat).isSome = true ∧ t.flash.badExtents = s.flash.badExtents ∧
          t = { s with flash := t.flash })))) ∧
  (∀ s : State, exec .ftlCountSave s = .next { s with flash := { s.flash with
    savedRetry := s.flash.retry, savedUncorr := s.flash.uncorr } })

/-- A shard on the chain is stored, asked for again or sent on, and a request from downstream is met from the forward buffer or passed on (R291, R292); an intake that stays short is reported once (R294); a load that
lands makes its object WARM or HOT and one that fails NOT_READY (R284, R287, R288); a slot whose fill passes its checks is valid, and one
that fails stays invalid, and one whose cut store has a bad word is not filled yet (R130, R131); a trace record of an enabled source is kept (R613). -/
def Obligations.ChainsLoadsFillsAndTraceLand : Prop :=
  (∀ (s : State) (m : BitVec 32) (e : BitVec 16) (d : BitVec 7) (i : BitVec 32) (img : List Byte),
    (s.object m.toNat e.toNat = none → ∀ g, exec (.chainShard m e d i g) s = .next s) ∧
    (∀ o, s.object m.toNat e.toNat = some o →
      (d.toNat = s.ownOrdinal → (o.committed = true ∨ o.count ≤ i.toNat ∨ (o.shard i.toNat).acked = true) →
        exec (.chainShard m e d i (.shard img)) s = .next s) ∧
      (d.toNat = s.ownOrdinal → o.committed = false → i.toNat < o.count → (o.shard i.toNat).acked = false →
        ((o.digestMode = true → headerOk o i.toNat img = true) → intakeOk o img = true →
          ∃ t q, exec (.chainShard m e d i (.shard img)) s = .next t ∧ t.object m.toNat e.toNat = some q ∧ (q.shard i.toNat).acked = true ∧
            (q.shard i.toNat).image = img ∧ (∀ j, j ≠ i.toNat → q.shard j = o.shard j) ∧ t.flash.journal = s.flash.journal + 1 ∧
            t = { s with store := t.store, flash := t.flash }) ∧
        (intakeOk o img = false → (o.shard i.toNat).rerequests < 6 → o.upstream < 6 →
          ∃ t q, exec (.chainShard m e d i (.shard img)) s = .next t ∧ t.object m.toNat e.toNat = some q ∧
            (q.shard i.toNat).rerequests = (o.shard i.toNat).rerequests + 1 ∧ (q.shard i.toNat).acked = false ∧
            (∃ g ∈ t.msgs, g.dest = .link (90 + o.upstream) ∧ g.msg = .shardRequest o.model o.edition s.ownOrdinal i.toNat
              (if (o.shard i.toNat).rerequests < 3 then none else some o.source)) ∧
            t = { s with store := t.store, fab := t.fab, msgs := t.msgs })) ∧
      (d.toNat ≠ s.ownOrdinal → o.downstream < 6 →
        ∃ t, exec (.chainShard m e d i (.shard img)) s = .next t ∧
          (∃ g ∈ t.msgs, g.dest = .link (90 + o.downstream) ∧ g.msg = .shardForward m.toNat e.toNat d.toNat i.toNat img) ∧
          (img.length ≤ 268435456 → (m.toNat, e.toNat, d.toNat, i.toNat, img) ∈ t.store.forward) ∧
          t.store.objects = s.store.objects ∧ t = { s with store := t.store, fab := t.fab, msgs := t.msgs }) ∧
      (∀ l f, s.store.forward = l ++ [f] → f.1 = m.toNat → f.2.1 = e.toNat → f.2.2.1 = d.toNat → f.2.2.2.1 = i.toNat → o.downstream < 6 →
        ∃ t, exec (.chainShard m e d i (.request none)) s = .next t ∧
          (∃ g ∈ t.msgs, g.dest = .link (90 + o.downstream) ∧ g.msg = .shardForward m.toNat e.toNat d.toNat i.toNat f.2.2.2.2) ∧
          t = { s with fab := t.fab, msgs := t.msgs }) ∧
      (∀ q, (q ≠ none ∨ s.store.forward = []) → o.upstream < 6 →
        ∃ t, exec (.chainShard m e d i (.request q)) s = .next t ∧
          (∃ g ∈ t.msgs, g.dest = .link (90 + o.upstream) ∧ g.msg = .shardRequest m.toNat e.toNat d.toNat i.toNat q) ∧
          t = { s with fab := t.fab, msgs := t.msgs }))) ∧
  (∀ (s : State) (m : BitVec 32) (e : BitVec 16) (o : StoreObj), s.object m.toNat e.toNat = some o →
    ((o.committed = true ∨ o.timedOut = true ∨ s.now < o.opened + 100000 * o.intakeMs ∨ o.missing = []) →
      exec (.intakeTimeout m e) s = .next s) ∧
    (o.committed = false → o.timedOut = false → o.opened + 100000 * o.intakeMs ≤ s.now → o.missing ≠ [] →
      ∃ t, exec (.intakeTimeout m e) s = .next t ∧ t.object m.toNat e.toNat = some { o with timedOut := true } ∧
        EndpointOnly { s with store := t.store } t)) ∧
  (∀ (s : State) (b : BasinId) (c : CtxId) (m : BitVec 32) (e : BitVec 16),
    (s.resOf b.val c.val m.toNat e.toNat = none → ∀ ok, exec (.loadComplete b c m e ok) s = .next s) ∧
    (∀ r, s.resOf b.val c.val m.toNat e.toNat = some r →
      (r.state ≠ .loading → ∀ ok, exec (.loadComplete b c m e ok) s = .next s) ∧
      (r.state = .loading → r.replace = false →
        (∃ t, exec (.loadComplete b c m e false) s = .next t ∧ t.residency b.val c.val m.toNat e.toNat = .notReady ∧
          t.tiles = s.tiles ∧ t.store = s.store) ∧
        (r.target ≠ .hot → ∃ t, exec (.loadComplete b c m e true) s = .next t ∧ t.residency b.val c.val m.toNat e.toNat = .warm ∧
          t.tiles = s.tiles ∧ t.store = s.store) ∧
        (r.target = .hot → (s.basin b.val).st.state ≠ .ready → ∃ t, exec (.loadComplete b c m e true) s = .next t ∧
          t.residency b.val c.val m.toNat e.toNat = .hot ∧ t.store = s.store ∧ t.power = s.power)))) ∧
  (∀ (s : State) (b : BasinId) (c : CtxId) (k : Fin 4) (z : Slot), (s.basin b.val).slot k.val = z →
    ((z.filling = false ∨ z.ctx.toNat ≠ c.val) → ∀ ok, exec (.cutFillComplete b c k ok) s = .next s) ∧
    (z.filling = true → z.ctx.toNat = c.val →
      (∀ ok, (s.cutPayload b.val c.val z.model z.edition z.cutId.toNat = none ∨ (ok = false ∧
          ∀ l, s.cutPayload b.val c.val z.model z.edition z.cutId.toNat = some l →
            s.badImages b.val c.val z.model z.edition z.cutId.toNat l = [])) →
        ∃ t, exec (.cutFillComplete b c k ok) s = .next t ∧ ((t.basin b.val).slot k.val).valid = false ∧
          ((t.basin b.val).slot k.val).filling = false ∧ t.tiles = s.tiles) ∧
      (∀ l h, s.cutPayload b.val c.val z.model z.edition z.cutId.toNat = some l → headerCrcOk l = true →
        h = { parseShare z.model z.edition l with routes := s.shareRoutes b.val c.val (parseShare z.model z.edition l) } →
        s.shareOk b.val c.val l h = true →
        (s.badImages b.val c.val z.model z.edition z.cutId.toNat l ≠ [] → ∀ ok, ∃ t, exec (.cutFillComplete b c k ok) s = .next t ∧
          ((t.basin b.val).slot k.val).filling = true ∧ ((t.basin b.val).slot k.val).valid = z.valid ∧ t.store = s.store) ∧
        (s.badImages b.val c.val z.model z.edition z.cutId.toNat l = [] → s.storedCrcOk b.val c.val z.model z.edition z.cutId.toNat l = true →
        (s.basin b.val).st.state ≠ .ready →
        ∃ t, exec (.cutFillComplete b c k true) s = .next t ∧ ((t.basin b.val).slot k.val).valid = true ∧
          ((t.basin b.val).slot k.val).filling = false ∧ h ∈ (t.basin b.val).shares ∧ t.store = s.store ∧ t.power = s.power)))) ∧
  (∀ (s : State) (b : BasinId) (n : BitVec 4) (ctx : Byte) (data : BitVec 48),
    ((8 < n.toNat ∨ s.trace.sources.getLsbD n.toNat = false ∨ s.trace.basins.getLsbD b.val = false ∨ s.trace.armed = false) →
      exec (.traceTrigger b n ctx data) s = .next s) ∧
    (n.toNat ≤ 8 → s.trace.sources.getLsbD n.toNat = true → s.trace.basins.getLsbD b.val = true → s.trace.armed = true →
      Tbl.get false b.val s.trace.recording = true → (Tbl.get [] b.val s.trace.buf).length < 65536 →
      ∃ t, exec (.traceTrigger b n ctx data) s = .next t ∧ Tbl.get [] b.val t.trace.buf =
          Tbl.get [] b.val s.trace.buf ++ [{ tick := s.now, source := BitVec.ofNat 8 n.toNat, ctx := ctx, data := data }] ∧
        t = { s with trace := t.trace }))

/-! ### Rules of the spec, reset, and an invariant -/

/-- R420. A session's cache holds the 64 most recent sequences, each for 10 s; a command whose sequence stands in it, and which is the
same, is not executed again: its final reply goes out again, with every fragment, or ACCEPTED while it runs; one that differs fails with BAD_PARAM. `c` is any
row that carries the command. -/
def Obligations.CachedSequencesAreNotExecutedAgain : Prop :=
  (∀ (s : State) (n seq : Nat) (cmd : HostCmd) (x : Session), s.session n = some x →
    ∃ y l, (s.cacheOpen n seq cmd).session n = some y ∧ y.cache.length ≤ 64 ∧
      y.cache = l ++ [{ seq := seq, cmd := cmd, tick := s.now, reply := none }] ∧ (∀ e ∈ l, e ∈ x.cache ∧ e.seq ≠ seq)) ∧
  (∀ (s : State) (x : Session) (seq : Nat), (∀ e ∈ x.cache, e.seq = seq → e.tick + 1000000000 ≤ s.now) → s.cached x seq = none) ∧
  (∀ (s : State) (x : Session) (h : Hdr) (cmd : HostCmd) (e : CacheEntry) (c : Instr), (∀ u, exec c u = hostCmd h cmd u) →
    s.session h.session.toNat = some x → h.session ≠ 0#16 → classOf (opcodeOf cmd) ≠ 13 → s.reaches h.carriage (opcodeOf cmd) = true →
    s.unclaimedDrops cmd = false → State.keySpent x (opcodeOf cmd) = false → x.rx < h.counter.toNat → s.i3cFull h.carriage = false →
    (h.carriage = .i3c → s.ep.i3c.length < 64) → s.mgmt.warmDue = none → s.cached x h.seq.toNat = some e →
    ∃ t y, exec c s = .next t ∧ EndpointOnly s t ∧ t.ep.running = s.ep.running ∧ t.ep.held = s.ep.held ∧
      t.session h.session.toNat = some y ∧ y.cache = x.cache ∧ y.rx = h.counter.toNat ∧ y.key = x.key ∧
      (e.cmd = cmd → ∀ p l, e.reply = some p → l = fragmentsOf { p with carriage := h.carriage, priority := h.priority.toNat } →
        (p.sign = 0 ∨ l.length = 1) → (h.carriage = .i3c → s.ep.i3c.length + l.length ≤ 64) →
        ∀ g ∈ l, ∃ q, Handed t q ∧ q.carriage = h.carriage ∧ q.seq = p.seq ∧ q.status = p.status ∧ q.committed = p.committed ∧
          q.touched = p.touched ∧ q.frag = g.frag ∧ q.more = g.more ∧ q.body = g.body) ∧
      (e.cmd = cmd → e.reply = none → ∃ q, Handed t q ∧ q.carriage = h.carriage ∧ q.seq = h.seq.toNat ∧ q.status = .accepted ∧
        q.counter = x.tx) ∧
      (e.cmd ≠ cmd → ∃ q, Handed t q ∧ q.carriage = h.carriage ∧ q.seq = h.seq.toNat ∧ q.status = .badParam ∧ q.counter = x.tx))

/-- R302. STORE_DELETE of an object that is HOT, WARM or LOADING in any context is refused with WRONG_STATE and changes nothing;
otherwise the object is removed, its extents are free and one journal record is written. -/
def Obligations.StoreDeleteSparesObjectsInUse : Prop :=
  ∀ (s : State) (x : Session) (h : Hdr) (m : BitVec 32) (e : BitVec 16) (o : StoreObj), Starts s x h (.storeDelete m e) →
    s.object m.toNat e.toNat = some o →
    ((∃ r ∈ s.residents m.toNat e.toNat, r.2.2.state = .hot ∨ r.2.2.state = .warm ∨ r.2.2.state = .loading) →
      ∃ t, exec (.storeDelete h m e) s = .next t ∧ Replied t h .wrongState 0 0 [] ∧ EndpointOnly s t) ∧
    ((∀ r ∈ s.residents m.toNat e.toNat, r.2.2.state ≠ .hot ∧ r.2.2.state ≠ .warm ∧ r.2.2.state ≠ .loading) →
      ∃ t, exec (.storeDelete h m e) s = .next t ∧ Replied t h .ok 1 1 [] ∧ t.object m.toNat e.toNat = none ∧
        (∀ k ∈ o.extents, Tbl.get 0 k t.flash.map = 0) ∧ (∀ k, k ∉ o.extents → Tbl.get 0 k t.flash.map = Tbl.get 0 k s.flash.map) ∧
        (∀ q ∈ s.store.objects, (q.model ≠ m.toNat ∨ q.edition ≠ e.toNat) → q ∈ t.store.objects) ∧
        t.flash.journal = s.flash.journal + 1 ∧ t.tiles = s.tiles ∧ t.man = s.man)

/-- R31. Between two basins a border filter passes a flit exactly where both hold the same non-zero slice_id: a pound flit of a ROUTE word
that would cross another border is discarded and counted on the sending side, and so is a queue flit, and the pound that sent it ends with
UNIT_FAULT (R32); the tile that receives holds what it held. -/
def Obligations.BorderFiltersDiscardForeignFlits : Prop :=
  (∀ (s : State) (a b : Nat), a ≠ b →
    (s.borderOpen a b = true ↔ (s.basin a).sliceId ≠ 0 ∧ (s.basin a).sliceId = (s.basin b).sliceId)) ∧
  (∀ (s u : State) (i : TileId) (o e : Side) (ph : Fin 10) (x y : OpAddr) (acc : Option (BitVec 5)) (pick : Side → RouteSrc)
      (a w : Nat) (f : Flit), pick = (fun d => if d = o then .side e else .none) →
    Issues s i.val (.route (pick .north) (pick .east) (pick .south) (pick .west) .none 0#6) u →
    frameCycle s.now ph.val ≠ 0 → (s.tile i.val).given o (frameCycle s.now ph.val) = true →
    (∀ c, (s.tile i.val).net.route = some c → c.fed (u.tile i.val).core.cyc = true) → (s.tile i.val).net.input e = [(a, f)] →
    (if eastWest e = true ∧ o ≠ oppositeSide e then a + s.slack i.val f else a) ≤ (u.tile i.val).core.cyc →
    s.neighbour i.val o = some w → tileBasin w ≠ tileBasin i.val →
    ((s.basin (tileBasin i.val)).sliceId = 0 ∨ (s.basin (tileBasin i.val)).sliceId ≠ (s.basin (tileBasin w)).sliceId) →
    ∃ t, exec (.route i ph x y acc) s = .next t ∧
      (t.basin (tileBasin i.val)).drops = satAdd (s.basin (tileBasin i.val)).drops 1 ∧ (t.tile i.val).core.stopped = true ∧
      (∀ hp, u.poundOf i.val = some hp → ((t.basin hp.1).pound hp.2).stopped = true ∧
        ((t.basin hp.1).pound hp.2).fault = some (((u.basin hp.1).pound hp.2).fault.getD .unit)) ∧
      (t.tile i.val).net.input e = [] ∧ (∀ j, j ≠ i.val → t.tile j = s.tile j) ∧
      t = { u with tiles := t.tiles, basins := t.basins, trace := t.trace }) ∧
  (∀ (s : State) (i : TileId) (d : Side) (ph : Fin 10) (flip : BitVec 16) (f : QFlit) (u fc : Nat) (o : Side),
    s.neighbour i.val d = some u → tileBasin u ≠ tileBasin i.val → o = oppositeSide d → fc = frameCycle s.now ph.val → fc ≠ 0 →
    (((s.tile u).net.transit.find? fun g => s.leavesBy u o g) = some f ∨
      (((s.tile u).net.transit.find? fun g => s.leavesBy u o g) = none ∧
        ((s.tile u).net.egress.find? fun g => s.leavesBy u o g && (s.flitQueue g).launch.getLsbD fc) = some f)) →
    (s.tile u).given o fc = false →
    ((s.basin (tileBasin u)).sliceId = 0 ∨ (s.basin (tileBasin u)).sliceId ≠ (s.basin (tileBasin i.val)).sliceId) →
    ∃ t, exec (.queueFlitArrival i d ph flip) s = .next t ∧
      (t.basin (tileBasin u)).drops = satAdd (s.basin (tileBasin u)).drops 1 ∧ (t.tile u).core.stopped = true ∧
      (∀ hp, State.producerOf (s.flitQueue f) = some hp → ((t.basin hp.1).pound hp.2).stopped = true ∧
        ((t.basin hp.1).pound hp.2).fault = some (((s.basin hp.1).pound hp.2).fault.getD .unit)) ∧
      (∀ j, j ≠ u → t.tile j = s.tile j) ∧ t = { s with tiles := t.tiles, basins := t.basins, trace := t.trace })

/-- What reset leaves where the tables of the state words give a value other than 0: the row maps (R121), the dredge phases, the level and
tau of the cap at start-up, h = 15, the priorities of the port, one rank of LPDDR5X and step 4 of start-up; the other
words listed here read 0. -/
def Obligations.ResetWordsReadAsTheirTables : Prop :=
  (∀ b : BasinId, ∀ j, j < 4 → State.reset.basinWord b.val (0x50 + 4 * j) = some 0x2120) ∧
  (∀ b : BasinId, State.reset.basinWord b.val 0x80 = some (25 * b.val)) ∧
  (∀ b : BasinId, ∀ k ∈ [0x40, 0x44, 0x48, 0x4C, 0x60, 0x70, 0x84, 0x88, 0x8C, 0x90, 0x94, 0x100, 0x110, 0x200, 0x210, 0x220, 0x230,
    0x300, 0x310, 0x400], State.reset.basinWord b.val k = some 0) ∧
  (∀ t : TileId, ∀ k ∈ [0x100, 0x104, 0x108, 0x10C, 0x110, 0x114, 0x118, 0x11C, 0x120], State.reset.tileWord t.val k = some 0) ∧
  State.reset.mgmtWord 0x000 = some 0x0F000000 ∧ (∀ k ∈ [0x004, 0x008, 0x00C, 0x104, 0x108], State.reset.mgmtWord k = some 0) ∧
  State.reset.power.level = 0x28#7 ∧ State.reset.power.duty = 0#9 ∧ State.reset.power.tau = 0x64#7 ∧
  State.reset.mgmtWord 0x110 = some 0x40000000 ∧ State.reset.ethWord 0x00 = some 0x002E0000 ∧
  (∀ k ∈ [0x04, 0x08, 0x10, 0x30], State.reset.ethWord k = some 0) ∧ State.reset.memWord 0 = some 0x10 ∧
  (∀ k ∈ [0x00, 0x04, 0x08, 0x10, 0x14], State.reset.flsWord k = some 0) ∧ State.reset.fabWord 0 = some 0 ∧
  (∀ l : LinkId, State.reset.fabWord (0x1000 + 16 * l.val) = some 0) ∧ State.reset.ep.sessions = [] ∧ State.reset.man.entries = []

/-- After reset the dumps are within the bounds of R531: none stands, the model's choice (log entry 2). -/
def Obligations.DumpsAreBoundedAfterReset : Prop := DumpsBounded State.reset

/-- Headline, R531: whatever the step, the retention SRAM never holds more than its 16 MiB and flash never more than 64 dumps. -/
def Obligations.EveryStepKeepsTheDumpsBounded : Prop := ∀ s t : State, DumpsBounded s → step s = .next t → DumpsBounded t
end

