-- ==== Sys2Proof/Laws/Tbl.lean ====
section
/-! SUPPORT. Laws of sparse tables and of byte memory: a read after a write, and that every operation keeps the canonical form. -/

namespace Sys2Proof.Machine

variable {α : Type} {d : α}

/-! ### Reading after writing -/

theorem Tbl.get_drop_same {k : Nat} {t : Tbl α} : Tbl.get d k (Tbl.drop k t) = d := by
  induction t with
  | nil => rfl
  | cons e t ih =>
    obtain ⟨j, u⟩ := e
    unfold Tbl.drop at *
    rw [List.filter_cons]
    split
    · rename_i h
      have : ¬ k = j := fun e => by simp [e] at h
      simp [Tbl.get, this, ih]
    · exact ih

theorem Tbl.get_drop_other {j k : Nat} {t : Tbl α} (h : j ≠ k) : Tbl.get d j (Tbl.drop k t) = Tbl.get d j t := by
  induction t with
  | nil => rfl
  | cons e t ih =>
    obtain ⟨i, u⟩ := e
    unfold Tbl.drop at *
    rw [List.filter_cons]
    split
    · simp [Tbl.get, ih]
    · rename_i hk
      have : i = k := by simpa using hk
      subst this
      simp [Tbl.get, h, ih]

theorem Tbl.get_put_same {k : Nat} {v : α} {t : Tbl α} (a : ∀ e ∈ t, e.1 ≠ k) : Tbl.get d k (Tbl.put k v t) = v := by
  induction t with
  | nil => simp [Tbl.put, Tbl.get]
  | cons e t ih =>
    obtain ⟨j, u⟩ := e
    have hj : ¬ k = j := fun h => a (j, u) (by simp) h.symm
    unfold Tbl.put
    split
    · simp [Tbl.get]
    · simp only [Tbl.get, hj, if_false]
      exact ih fun e he => a e (by simp [he])

theorem Tbl.get_put_other {j k : Nat} {v : α} {t : Tbl α} (h : j ≠ k) : Tbl.get d j (Tbl.put k v t) = Tbl.get d j t := by
  induction t with
  | nil => simp [Tbl.put, Tbl.get, h]
  | cons e t ih =>
    obtain ⟨i, u⟩ := e
    unfold Tbl.put
    split
    · simp [Tbl.get, h]
    · simp [Tbl.get, ih]

theorem Tbl.not_mem_drop {k : Nat} {t : Tbl α} : ∀ e ∈ Tbl.drop k t, e.1 ≠ k := by
  intro e he
  simpa [Tbl.drop] using (List.mem_filter.1 he).2

variable [DecidableEq α]

/-- Reading the key that was written gives the value written. -/
@[simp] theorem Tbl.get_set_same {k : Nat} {v : α} {t : Tbl α} : Tbl.get d k (Tbl.set d k v t) = v := by
  unfold Tbl.set
  split
  · rename_i h
    rw [Tbl.get_drop_same, h]
  · exact Tbl.get_put_same Tbl.not_mem_drop

/-- Writing one key leaves every other key alone. -/
theorem Tbl.get_set_other {j k : Nat} {v : α} {t : Tbl α} (h : j ≠ k) : Tbl.get d j (Tbl.set d k v t) = Tbl.get d j t := by
  unfold Tbl.set
  split
  · exact Tbl.get_drop_other h
  · rw [Tbl.get_put_other h, Tbl.get_drop_other h]

/-- A changed key reads as its old value under the change. -/
@[simp] theorem Tbl.get_mod_same {k : Nat} {f : α → α} {t : Tbl α} : Tbl.get d k (Tbl.mod d k f t) = f (Tbl.get d k t) :=
  Tbl.get_set_same

/-- Changing one key leaves every other key alone. -/
theorem Tbl.get_mod_other {j k : Nat} {f : α → α} {t : Tbl α} (h : j ≠ k) : Tbl.get d j (Tbl.mod d k f t) = Tbl.get d j t :=
  Tbl.get_set_other h

/-! ### The canonical form -/

omit [DecidableEq α] in
/-- Above a bound: every listed key exceeds it. -/
theorem Tbl.above_iff {k : Nat} {t : Tbl α} : Tbl.above k t = true ↔ ∀ e ∈ t, k < e.1 := by
  simp [Tbl.above, List.all_eq_true]

omit [DecidableEq α] in
theorem Tbl.mem_put {k : Nat} {v : α} {t : Tbl α} {e : Nat × α} (h : e ∈ Tbl.put k v t) : e = (k, v) ∨ e ∈ t := by
  induction t with
  | nil => simpa [Tbl.put] using h
  | cons x t ih =>
    obtain ⟨j, u⟩ := x
    unfold Tbl.put at h
    split at h
    · simpa using h
    · rcases List.mem_cons.1 h with rfl | h
      · simp
      · rcases ih h with h | h
        · exact .inl h
        · simp [h]

/-- Dropping entries keeps the canonical form. -/
theorem Tbl.wf_filter {p : Nat × α → Bool} {t : Tbl α} (w : Tbl.wf d t = true) : Tbl.wf d (t.filter p) = true := by
  induction t with
  | nil => rfl
  | cons e t ih =>
    obtain ⟨j, u⟩ := e
    simp only [Tbl.wf, Bool.and_eq_true] at w
    rw [List.filter_cons]
    split
    · simp only [Tbl.wf, Bool.and_eq_true]
      refine ⟨⟨?_, w.1.2⟩, ih w.2⟩
      rw [Tbl.above_iff]
      intro e he
      exact Tbl.above_iff.1 w.1.1 e (List.mem_of_mem_filter he)
    · exact ih w.2

theorem Tbl.wf_put {k : Nat} {v : α} {t : Tbl α} (hv : v ≠ d) (a : ∀ e ∈ t, e.1 ≠ k) (w : Tbl.wf d t = true) :
    Tbl.wf d (Tbl.put k v t) = true := by
  induction t with
  | nil => simp [Tbl.put, Tbl.wf, Tbl.above, hv]
  | cons x t ih =>
    obtain ⟨j, u⟩ := x
    have w' := w
    simp only [Tbl.wf, Bool.and_eq_true] at w
    have hj : j ≠ k := a (j, u) (by simp)
    unfold Tbl.put
    split
    · rename_i hlt
      simp only [Tbl.wf, Bool.and_eq_true] at w' ⊢
      refine ⟨⟨?_, by simp [hv]⟩, w'⟩
      rw [Tbl.above_iff]
      intro e he
      rcases List.mem_cons.1 he with rfl | he
      · exact hlt
      · have := Tbl.above_iff.1 w.1.1 e he
        omega
    · simp only [Tbl.wf, Bool.and_eq_true]
      refine ⟨⟨?_, w.1.2⟩, ih (fun e he => a e (by simp [he])) w.2⟩
      rw [Tbl.above_iff]
      intro e he
      rcases Tbl.mem_put he with rfl | he
      · show j < k
        omega
      · exact Tbl.above_iff.1 w.1.1 e he

/-- Writing a key keeps the canonical form. -/
theorem Tbl.wf_set {k : Nat} {v : α} {t : Tbl α} (w : Tbl.wf d t = true) : Tbl.wf d (Tbl.set d k v t) = true := by
  unfold Tbl.set
  split
  · exact Tbl.wf_filter w
  · rename_i h
    exact Tbl.wf_put h Tbl.not_mem_drop (Tbl.wf_filter w)

/-- Changing a key keeps the canonical form. -/
theorem Tbl.wf_mod {k : Nat} {f : α → α} {t : Tbl α} (w : Tbl.wf d t = true) : Tbl.wf d (Tbl.mod d k f t) = true :=
  Tbl.wf_set w

omit [DecidableEq α] in
theorem Tbl.get_of_above {k : Nat} {t : Tbl α} (a : ∀ e ∈ t, k < e.1) : Tbl.get d k t = d := by
  induction t with
  | nil => rfl
  | cons e t ih =>
    obtain ⟨j, u⟩ := e
    have : ¬ k = j := by have := a (j, u) (by simp); simp at this; omega
    simp only [Tbl.get, this, if_false]
    exact ih fun e he => a e (by simp [he])

/-- Two canonical tables that read alike are the same table. -/
theorem Tbl.ext_of_get {t u : Tbl α} (wt : Tbl.wf d t = true) (wu : Tbl.wf d u = true) (h : ∀ k, Tbl.get d k t = Tbl.get d k u) :
    t = u := by
  induction t generalizing u with
  | nil =>
    cases u with
    | nil => rfl
    | cons e u =>
      obtain ⟨j, v⟩ := e
      have := h j
      simp only [Tbl.wf, Bool.and_eq_true] at wu
      simp [Tbl.get] at this
      simp [this] at wu
  | cons e t ih =>
    obtain ⟨i, a⟩ := e
    have wt' := wt
    simp only [Tbl.wf, Bool.and_eq_true] at wt
    cases u with
    | nil =>
      have := h i
      simp [Tbl.get] at this
      simp [this] at wt
    | cons e u =>
      obtain ⟨j, b⟩ := e
      simp only [Tbl.wf, Bool.and_eq_true] at wu
      have at_ := Tbl.above_iff.1 wt.1.1
      have au := Tbl.above_iff.1 wu.1.1
      have hij : i = j := by
        rcases Nat.lt_trichotomy i j with hl | he | hg
        · have := h i
          have n : ¬ i = j := by omega
          simp only [Tbl.get, n, if_true, if_false] at this
          rw [Tbl.get_of_above fun e he => Nat.lt_trans hl (au e he)] at this
          simp [this] at wt
        · exact he
        · have := h j
          have n : ¬ j = i := by omega
          simp only [Tbl.get, n, if_true, if_false] at this
          rw [Tbl.get_of_above fun e he => Nat.lt_trans hg (at_ e he)] at this
          simp [← this] at wu
      subst hij
      have hab : a = b := by
        have := h i
        simpa [Tbl.get] using this
      subst hab
      have : t = u := by
        refine ih wt.2 wu.2 fun k => ?_
        by_cases hk : k = i
        · subst hk
          rw [Tbl.get_of_above at_, Tbl.get_of_above au]
        · simpa [Tbl.get, hk] using h k
      rw [this]

/-! ### Byte memory -/

/-- A byte write keeps the canonical form. -/
theorem Memory.wf_setByte {m : Memory} {a : Nat} {v : Byte} (w : m.wf = true) : (m.setByte a v).wf = true := Tbl.wf_set w

/-- A write of any length keeps the canonical form. -/
theorem Memory.wf_write {m : Memory} {a : Nat} {l : List Byte} (w : m.wf = true) : (m.write a l).wf = true := by
  induction l generalizing m a with
  | nil => exact w
  | cons v vs ih => exact ih (Memory.wf_setByte w)

/-- Zeroing keeps the canonical form. -/
theorem Memory.wf_zero {m : Memory} {a n : Nat} (w : m.wf = true) : (m.zero a n).wf = true := Tbl.wf_filter w

/-- A write of words keeps the canonical form. -/
theorem Memory.wf_writeWords {m : Memory} {a : Nat} {l : List (BitVec 32)} (w : m.wf = true) : (m.writeWords a l).wf = true := by
  induction l generalizing m a with
  | nil => exact w
  | cons v vs ih => exact ih (Memory.wf_write w)

/-- A byte reads as it was written. -/
theorem Memory.byte_setByte_same {m : Memory} {a : Nat} {v : Byte} : (m.setByte a v).byte a = v :=
  Tbl.get_set_same

/-- A byte write leaves every other byte alone. -/
theorem Memory.byte_setByte_other {m : Memory} {a b : Nat} {v : Byte} (h : b ≠ a) :
    (m.setByte a v).byte b = m.byte b :=
  Tbl.get_set_other h

/-- A write leaves every byte outside its span alone. -/
theorem Memory.byte_write_other {m : Memory} {a b : Nat} {l : List Byte} (h : b < a ∨ a + l.length ≤ b) :
    (m.write a l).byte b = m.byte b := by
  induction l generalizing m a with
  | nil => rfl
  | cons v vs ih =>
    simp only [List.length_cons] at h
    show (Memory.write (m.setByte a v) (a + 1) vs).byte b = m.byte b
    rw [ih (by omega), Memory.byte_setByte_other (by omega)]

/-- What was written reads back. -/
theorem Memory.byte_write_same {m : Memory} {a i : Nat} {l : List Byte} (h : i < l.length) :
    (m.write a l).byte (a + i) = l[i] := by
  induction l generalizing m a i with
  | nil => simp at h
  | cons v vs ih =>
    show (Memory.write (m.setByte a v) (a + 1) vs).byte (a + i) = _
    cases i with
    | zero => rw [Memory.byte_write_other (by omega)]; exact Memory.byte_setByte_same
    | succ i =>
      have := ih (m := m.setByte a v) (a := a + 1) (i := i) (by simpa using h)
      rw [show a + 1 + i = a + (i + 1) by omega] at this
      simpa using this

end Sys2Proof.Machine
end

