-- ==== Sys2Proof/Laws/State.lean ====
section
/-! SUPPORT. Laws of the named operations on units: a unit reads back as it was written, other units and other fields stay. -/

namespace Sys2Proof.Machine.State

/-! ### Fields that an operation leaves alone -/

@[simp] theorem setBasin_pending (s : State) (b : Nat) (x : Basin) : (s.setBasin b x).pending = s.pending := rfl
@[simp] theorem setBasin_freeCtr (s : State) (b : Nat) (x : Basin) : (s.setBasin b x).freeCtr = s.freeCtr := rfl
@[simp] theorem setBasin_time (s : State) (b : Nat) (x : Basin) : (s.setBasin b x).time = s.time := rfl
@[simp] theorem setBasin_power (s : State) (b : Nat) (x : Basin) : (s.setBasin b x).power = s.power := rfl
@[simp] theorem setBasin_pins (s : State) (b : Nat) (x : Basin) : (s.setBasin b x).pins = s.pins := rfl
@[simp] theorem setBasin_memDev (s : State) (b : Nat) (x : Basin) : (s.setBasin b x).memDev = s.memDev := rfl
@[simp] theorem setBasin_flash (s : State) (b : Nat) (x : Basin) : (s.setBasin b x).flash = s.flash := rfl
@[simp] theorem setBasin_store (s : State) (b : Nat) (x : Basin) : (s.setBasin b x).store = s.store := rfl
@[simp] theorem setBasin_fab (s : State) (b : Nat) (x : Basin) : (s.setBasin b x).fab = s.fab := rfl
@[simp] theorem setBasin_eth (s : State) (b : Nat) (x : Basin) : (s.setBasin b x).eth = s.eth := rfl
@[simp] theorem setBasin_ep (s : State) (b : Nat) (x : Basin) : (s.setBasin b x).ep = s.ep := rfl
@[simp] theorem setBasin_man (s : State) (b : Nat) (x : Basin) : (s.setBasin b x).man = s.man := rfl
@[simp] theorem setBasin_selects (s : State) (b : Nat) (x : Basin) : (s.setBasin b x).selects = s.selects := rfl
@[simp] theorem setBasin_sec (s : State) (b : Nat) (x : Basin) : (s.setBasin b x).sec = s.sec := rfl
@[simp] theorem setBasin_ptb (s : State) (b : Nat) (x : Basin) : (s.setBasin b x).ptb = s.ptb := rfl
@[simp] theorem setBasin_ptbNext (s : State) (b : Nat) (x : Basin) : (s.setBasin b x).ptbNext = s.ptbNext := rfl
@[simp] theorem setBasin_trace (s : State) (b : Nat) (x : Basin) : (s.setBasin b x).trace = s.trace := rfl
@[simp] theorem setBasin_dumps (s : State) (b : Nat) (x : Basin) : (s.setBasin b x).dumps = s.dumps := rfl
@[simp] theorem setBasin_mgmt (s : State) (b : Nat) (x : Basin) : (s.setBasin b x).mgmt = s.mgmt := rfl
@[simp] theorem setBasin_live (s : State) (b : Nat) (x : Basin) : (s.setBasin b x).live = s.live := rfl
@[simp] theorem setBasin_tiles (s : State) (b : Nat) (x : Basin) : (s.setBasin b x).tiles = s.tiles := rfl
@[simp] theorem setBasin_msgs (s : State) (b : Nat) (x : Basin) : (s.setBasin b x).msgs = s.msgs := rfl

@[simp] theorem modBasin_pending (s : State) (b : Nat) (f : Basin → Basin) : (s.modBasin b f).pending = s.pending := rfl
@[simp] theorem modBasin_freeCtr (s : State) (b : Nat) (f : Basin → Basin) : (s.modBasin b f).freeCtr = s.freeCtr := rfl
@[simp] theorem modBasin_time (s : State) (b : Nat) (f : Basin → Basin) : (s.modBasin b f).time = s.time := rfl
@[simp] theorem modBasin_power (s : State) (b : Nat) (f : Basin → Basin) : (s.modBasin b f).power = s.power := rfl
@[simp] theorem modBasin_pins (s : State) (b : Nat) (f : Basin → Basin) : (s.modBasin b f).pins = s.pins := rfl
@[simp] theorem modBasin_memDev (s : State) (b : Nat) (f : Basin → Basin) : (s.modBasin b f).memDev = s.memDev := rfl
@[simp] theorem modBasin_flash (s : State) (b : Nat) (f : Basin → Basin) : (s.modBasin b f).flash = s.flash := rfl
@[simp] theorem modBasin_store (s : State) (b : Nat) (f : Basin → Basin) : (s.modBasin b f).store = s.store := rfl
@[simp] theorem modBasin_fab (s : State) (b : Nat) (f : Basin → Basin) : (s.modBasin b f).fab = s.fab := rfl
@[simp] theorem modBasin_eth (s : State) (b : Nat) (f : Basin → Basin) : (s.modBasin b f).eth = s.eth := rfl
@[simp] theorem modBasin_ep (s : State) (b : Nat) (f : Basin → Basin) : (s.modBasin b f).ep = s.ep := rfl
@[simp] theorem modBasin_man (s : State) (b : Nat) (f : Basin → Basin) : (s.modBasin b f).man = s.man := rfl
@[simp] theorem modBasin_selects (s : State) (b : Nat) (f : Basin → Basin) : (s.modBasin b f).selects = s.selects := rfl
@[simp] theorem modBasin_sec (s : State) (b : Nat) (f : Basin → Basin) : (s.modBasin b f).sec = s.sec := rfl
@[simp] theorem modBasin_ptb (s : State) (b : Nat) (f : Basin → Basin) : (s.modBasin b f).ptb = s.ptb := rfl
@[simp] theorem modBasin_ptbNext (s : State) (b : Nat) (f : Basin → Basin) : (s.modBasin b f).ptbNext = s.ptbNext := rfl
@[simp] theorem modBasin_trace (s : State) (b : Nat) (f : Basin → Basin) : (s.modBasin b f).trace = s.trace := rfl
@[simp] theorem modBasin_dumps (s : State) (b : Nat) (f : Basin → Basin) : (s.modBasin b f).dumps = s.dumps := rfl
@[simp] theorem modBasin_mgmt (s : State) (b : Nat) (f : Basin → Basin) : (s.modBasin b f).mgmt = s.mgmt := rfl
@[simp] theorem modBasin_live (s : State) (b : Nat) (f : Basin → Basin) : (s.modBasin b f).live = s.live := rfl
@[simp] theorem modBasin_tiles (s : State) (b : Nat) (f : Basin → Basin) : (s.modBasin b f).tiles = s.tiles := rfl
@[simp] theorem modBasin_msgs (s : State) (b : Nat) (f : Basin → Basin) : (s.modBasin b f).msgs = s.msgs := rfl

@[simp] theorem setTile_pending (s : State) (t : Nat) (x : Tile) : (s.setTile t x).pending = s.pending := rfl
@[simp] theorem setTile_freeCtr (s : State) (t : Nat) (x : Tile) : (s.setTile t x).freeCtr = s.freeCtr := rfl
@[simp] theorem setTile_time (s : State) (t : Nat) (x : Tile) : (s.setTile t x).time = s.time := rfl
@[simp] theorem setTile_power (s : State) (t : Nat) (x : Tile) : (s.setTile t x).power = s.power := rfl
@[simp] theorem setTile_pins (s : State) (t : Nat) (x : Tile) : (s.setTile t x).pins = s.pins := rfl
@[simp] theorem setTile_memDev (s : State) (t : Nat) (x : Tile) : (s.setTile t x).memDev = s.memDev := rfl
@[simp] theorem setTile_flash (s : State) (t : Nat) (x : Tile) : (s.setTile t x).flash = s.flash := rfl
@[simp] theorem setTile_store (s : State) (t : Nat) (x : Tile) : (s.setTile t x).store = s.store := rfl
@[simp] theorem setTile_fab (s : State) (t : Nat) (x : Tile) : (s.setTile t x).fab = s.fab := rfl
@[simp] theorem setTile_eth (s : State) (t : Nat) (x : Tile) : (s.setTile t x).eth = s.eth := rfl
@[simp] theorem setTile_ep (s : State) (t : Nat) (x : Tile) : (s.setTile t x).ep = s.ep := rfl
@[simp] theorem setTile_man (s : State) (t : Nat) (x : Tile) : (s.setTile t x).man = s.man := rfl
@[simp] theorem setTile_selects (s : State) (t : Nat) (x : Tile) : (s.setTile t x).selects = s.selects := rfl
@[simp] theorem setTile_sec (s : State) (t : Nat) (x : Tile) : (s.setTile t x).sec = s.sec := rfl
@[simp] theorem setTile_ptb (s : State) (t : Nat) (x : Tile) : (s.setTile t x).ptb = s.ptb := rfl
@[simp] theorem setTile_ptbNext (s : State) (t : Nat) (x : Tile) : (s.setTile t x).ptbNext = s.ptbNext := rfl
@[simp] theorem setTile_trace (s : State) (t : Nat) (x : Tile) : (s.setTile t x).trace = s.trace := rfl
@[simp] theorem setTile_dumps (s : State) (t : Nat) (x : Tile) : (s.setTile t x).dumps = s.dumps := rfl
@[simp] theorem setTile_mgmt (s : State) (t : Nat) (x : Tile) : (s.setTile t x).mgmt = s.mgmt := rfl
@[simp] theorem setTile_live (s : State) (t : Nat) (x : Tile) : (s.setTile t x).live = s.live := rfl
@[simp] theorem setTile_basins (s : State) (t : Nat) (x : Tile) : (s.setTile t x).basins = s.basins := rfl
@[simp] theorem setTile_msgs (s : State) (t : Nat) (x : Tile) : (s.setTile t x).msgs = s.msgs := rfl

@[simp] theorem modTile_pending (s : State) (t : Nat) (f : Tile → Tile) : (s.modTile t f).pending = s.pending := rfl
@[simp] theorem modTile_freeCtr (s : State) (t : Nat) (f : Tile → Tile) : (s.modTile t f).freeCtr = s.freeCtr := rfl
@[simp] theorem modTile_time (s : State) (t : Nat) (f : Tile → Tile) : (s.modTile t f).time = s.time := rfl
@[simp] theorem modTile_power (s : State) (t : Nat) (f : Tile → Tile) : (s.modTile t f).power = s.power := rfl
@[simp] theorem modTile_pins (s : State) (t : Nat) (f : Tile → Tile) : (s.modTile t f).pins = s.pins := rfl
@[simp] theorem modTile_memDev (s : State) (t : Nat) (f : Tile → Tile) : (s.modTile t f).memDev = s.memDev := rfl
@[simp] theorem modTile_flash (s : State) (t : Nat) (f : Tile → Tile) : (s.modTile t f).flash = s.flash := rfl
@[simp] theorem modTile_store (s : State) (t : Nat) (f : Tile → Tile) : (s.modTile t f).store = s.store := rfl
@[simp] theorem modTile_fab (s : State) (t : Nat) (f : Tile → Tile) : (s.modTile t f).fab = s.fab := rfl
@[simp] theorem modTile_eth (s : State) (t : Nat) (f : Tile → Tile) : (s.modTile t f).eth = s.eth := rfl
@[simp] theorem modTile_ep (s : State) (t : Nat) (f : Tile → Tile) : (s.modTile t f).ep = s.ep := rfl
@[simp] theorem modTile_man (s : State) (t : Nat) (f : Tile → Tile) : (s.modTile t f).man = s.man := rfl
@[simp] theorem modTile_selects (s : State) (t : Nat) (f : Tile → Tile) : (s.modTile t f).selects = s.selects := rfl
@[simp] theorem modTile_sec (s : State) (t : Nat) (f : Tile → Tile) : (s.modTile t f).sec = s.sec := rfl
@[simp] theorem modTile_ptb (s : State) (t : Nat) (f : Tile → Tile) : (s.modTile t f).ptb = s.ptb := rfl
@[simp] theorem modTile_ptbNext (s : State) (t : Nat) (f : Tile → Tile) : (s.modTile t f).ptbNext = s.ptbNext := rfl
@[simp] theorem modTile_trace (s : State) (t : Nat) (f : Tile → Tile) : (s.modTile t f).trace = s.trace := rfl
@[simp] theorem modTile_dumps (s : State) (t : Nat) (f : Tile → Tile) : (s.modTile t f).dumps = s.dumps := rfl
@[simp] theorem modTile_mgmt (s : State) (t : Nat) (f : Tile → Tile) : (s.modTile t f).mgmt = s.mgmt := rfl
@[simp] theorem modTile_live (s : State) (t : Nat) (f : Tile → Tile) : (s.modTile t f).live = s.live := rfl
@[simp] theorem modTile_basins (s : State) (t : Nat) (f : Tile → Tile) : (s.modTile t f).basins = s.basins := rfl
@[simp] theorem modTile_msgs (s : State) (t : Nat) (f : Tile → Tile) : (s.modTile t f).msgs = s.msgs := rfl

@[simp] theorem modLink_pending (s : State) (n : Nat) (f : Link → Link) : (s.modLink n f).pending = s.pending := rfl
@[simp] theorem modLink_freeCtr (s : State) (n : Nat) (f : Link → Link) : (s.modLink n f).freeCtr = s.freeCtr := rfl
@[simp] theorem modLink_time (s : State) (n : Nat) (f : Link → Link) : (s.modLink n f).time = s.time := rfl
@[simp] theorem modLink_power (s : State) (n : Nat) (f : Link → Link) : (s.modLink n f).power = s.power := rfl
@[simp] theorem modLink_pins (s : State) (n : Nat) (f : Link → Link) : (s.modLink n f).pins = s.pins := rfl
@[simp] theorem modLink_memDev (s : State) (n : Nat) (f : Link → Link) : (s.modLink n f).memDev = s.memDev := rfl
@[simp] theorem modLink_flash (s : State) (n : Nat) (f : Link → Link) : (s.modLink n f).flash = s.flash := rfl
@[simp] theorem modLink_store (s : State) (n : Nat) (f : Link → Link) : (s.modLink n f).store = s.store := rfl
@[simp] theorem modLink_eth (s : State) (n : Nat) (f : Link → Link) : (s.modLink n f).eth = s.eth := rfl
@[simp] theorem modLink_ep (s : State) (n : Nat) (f : Link → Link) : (s.modLink n f).ep = s.ep := rfl
@[simp] theorem modLink_man (s : State) (n : Nat) (f : Link → Link) : (s.modLink n f).man = s.man := rfl
@[simp] theorem modLink_selects (s : State) (n : Nat) (f : Link → Link) : (s.modLink n f).selects = s.selects := rfl
@[simp] theorem modLink_sec (s : State) (n : Nat) (f : Link → Link) : (s.modLink n f).sec = s.sec := rfl
@[simp] theorem modLink_ptb (s : State) (n : Nat) (f : Link → Link) : (s.modLink n f).ptb = s.ptb := rfl
@[simp] theorem modLink_ptbNext (s : State) (n : Nat) (f : Link → Link) : (s.modLink n f).ptbNext = s.ptbNext := rfl
@[simp] theorem modLink_trace (s : State) (n : Nat) (f : Link → Link) : (s.modLink n f).trace = s.trace := rfl
@[simp] theorem modLink_dumps (s : State) (n : Nat) (f : Link → Link) : (s.modLink n f).dumps = s.dumps := rfl
@[simp] theorem modLink_mgmt (s : State) (n : Nat) (f : Link → Link) : (s.modLink n f).mgmt = s.mgmt := rfl
@[simp] theorem modLink_live (s : State) (n : Nat) (f : Link → Link) : (s.modLink n f).live = s.live := rfl
@[simp] theorem modLink_basins (s : State) (n : Nat) (f : Link → Link) : (s.modLink n f).basins = s.basins := rfl
@[simp] theorem modLink_tiles (s : State) (n : Nat) (f : Link → Link) : (s.modLink n f).tiles = s.tiles := rfl
@[simp] theorem modLink_msgs (s : State) (n : Nat) (f : Link → Link) : (s.modLink n f).msgs = s.msgs := rfl

@[simp] theorem modChan_pending (s : State) (m : Nat) (f : MemChan → MemChan) : (s.modChan m f).pending = s.pending := rfl
@[simp] theorem modChan_freeCtr (s : State) (m : Nat) (f : MemChan → MemChan) : (s.modChan m f).freeCtr = s.freeCtr := rfl
@[simp] theorem modChan_time (s : State) (m : Nat) (f : MemChan → MemChan) : (s.modChan m f).time = s.time := rfl
@[simp] theorem modChan_power (s : State) (m : Nat) (f : MemChan → MemChan) : (s.modChan m f).power = s.power := rfl
@[simp] theorem modChan_pins (s : State) (m : Nat) (f : MemChan → MemChan) : (s.modChan m f).pins = s.pins := rfl
@[simp] theorem modChan_flash (s : State) (m : Nat) (f : MemChan → MemChan) : (s.modChan m f).flash = s.flash := rfl
@[simp] theorem modChan_store (s : State) (m : Nat) (f : MemChan → MemChan) : (s.modChan m f).store = s.store := rfl
@[simp] theorem modChan_fab (s : State) (m : Nat) (f : MemChan → MemChan) : (s.modChan m f).fab = s.fab := rfl
@[simp] theorem modChan_eth (s : State) (m : Nat) (f : MemChan → MemChan) : (s.modChan m f).eth = s.eth := rfl
@[simp] theorem modChan_ep (s : State) (m : Nat) (f : MemChan → MemChan) : (s.modChan m f).ep = s.ep := rfl
@[simp] theorem modChan_man (s : State) (m : Nat) (f : MemChan → MemChan) : (s.modChan m f).man = s.man := rfl
@[simp] theorem modChan_selects (s : State) (m : Nat) (f : MemChan → MemChan) : (s.modChan m f).selects = s.selects := rfl
@[simp] theorem modChan_sec (s : State) (m : Nat) (f : MemChan → MemChan) : (s.modChan m f).sec = s.sec := rfl
@[simp] theorem modChan_ptb (s : State) (m : Nat) (f : MemChan → MemChan) : (s.modChan m f).ptb = s.ptb := rfl
@[simp] theorem modChan_ptbNext (s : State) (m : Nat) (f : MemChan → MemChan) : (s.modChan m f).ptbNext = s.ptbNext := rfl
@[simp] theorem modChan_trace (s : State) (m : Nat) (f : MemChan → MemChan) : (s.modChan m f).trace = s.trace := rfl
@[simp] theorem modChan_dumps (s : State) (m : Nat) (f : MemChan → MemChan) : (s.modChan m f).dumps = s.dumps := rfl
@[simp] theorem modChan_mgmt (s : State) (m : Nat) (f : MemChan → MemChan) : (s.modChan m f).mgmt = s.mgmt := rfl
@[simp] theorem modChan_live (s : State) (m : Nat) (f : MemChan → MemChan) : (s.modChan m f).live = s.live := rfl
@[simp] theorem modChan_basins (s : State) (m : Nat) (f : MemChan → MemChan) : (s.modChan m f).basins = s.basins := rfl
@[simp] theorem modChan_tiles (s : State) (m : Nat) (f : MemChan → MemChan) : (s.modChan m f).tiles = s.tiles := rfl
@[simp] theorem modChan_msgs (s : State) (m : Nat) (f : MemChan → MemChan) : (s.modChan m f).msgs = s.msgs := rfl

@[simp] theorem setEntry_pending (s : State) (i : Nat) (e : Entry) : (s.setEntry i e).pending = s.pending := rfl
@[simp] theorem setEntry_freeCtr (s : State) (i : Nat) (e : Entry) : (s.setEntry i e).freeCtr = s.freeCtr := rfl
@[simp] theorem setEntry_time (s : State) (i : Nat) (e : Entry) : (s.setEntry i e).time = s.time := rfl
@[simp] theorem setEntry_power (s : State) (i : Nat) (e : Entry) : (s.setEntry i e).power = s.power := rfl
@[simp] theorem setEntry_pins (s : State) (i : Nat) (e : Entry) : (s.setEntry i e).pins = s.pins := rfl
@[simp] theorem setEntry_memDev (s : State) (i : Nat) (e : Entry) : (s.setEntry i e).memDev = s.memDev := rfl
@[simp] theorem setEntry_flash (s : State) (i : Nat) (e : Entry) : (s.setEntry i e).flash = s.flash := rfl
@[simp] theorem setEntry_store (s : State) (i : Nat) (e : Entry) : (s.setEntry i e).store = s.store := rfl
@[simp] theorem setEntry_fab (s : State) (i : Nat) (e : Entry) : (s.setEntry i e).fab = s.fab := rfl
@[simp] theorem setEntry_eth (s : State) (i : Nat) (e : Entry) : (s.setEntry i e).eth = s.eth := rfl
@[simp] theorem setEntry_ep (s : State) (i : Nat) (e : Entry) : (s.setEntry i e).ep = s.ep := rfl
@[simp] theorem setEntry_selects (s : State) (i : Nat) (e : Entry) : (s.setEntry i e).selects = s.selects := rfl
@[simp] theorem setEntry_sec (s : State) (i : Nat) (e : Entry) : (s.setEntry i e).sec = s.sec := rfl
@[simp] theorem setEntry_ptb (s : State) (i : Nat) (e : Entry) : (s.setEntry i e).ptb = s.ptb := rfl
@[simp] theorem setEntry_ptbNext (s : State) (i : Nat) (e : Entry) : (s.setEntry i e).ptbNext = s.ptbNext := rfl
@[simp] theorem setEntry_trace (s : State) (i : Nat) (e : Entry) : (s.setEntry i e).trace = s.trace := rfl
@[simp] theorem setEntry_dumps (s : State) (i : Nat) (e : Entry) : (s.setEntry i e).dumps = s.dumps := rfl
@[simp] theorem setEntry_mgmt (s : State) (i : Nat) (e : Entry) : (s.setEntry i e).mgmt = s.mgmt := rfl
@[simp] theorem setEntry_live (s : State) (i : Nat) (e : Entry) : (s.setEntry i e).live = s.live := rfl
@[simp] theorem setEntry_basins (s : State) (i : Nat) (e : Entry) : (s.setEntry i e).basins = s.basins := rfl
@[simp] theorem setEntry_tiles (s : State) (i : Nat) (e : Entry) : (s.setEntry i e).tiles = s.tiles := rfl
@[simp] theorem setEntry_msgs (s : State) (i : Nat) (e : Entry) : (s.setEntry i e).msgs = s.msgs := rfl

@[simp] theorem modEntry_pending (s : State) (i : Nat) (f : Entry → Entry) : (s.modEntry i f).pending = s.pending := rfl
@[simp] theorem modEntry_freeCtr (s : State) (i : Nat) (f : Entry → Entry) : (s.modEntry i f).freeCtr = s.freeCtr := rfl
@[simp] theorem modEntry_time (s : State) (i : Nat) (f : Entry → Entry) : (s.modEntry i f).time = s.time := rfl
@[simp] theorem modEntry_power (s : State) (i : Nat) (f : Entry → Entry) : (s.modEntry i f).power = s.power := rfl
@[simp] theorem modEntry_pins (s : State) (i : Nat) (f : Entry → Entry) : (s.modEntry i f).pins = s.pins := rfl
@[simp] theorem modEntry_memDev (s : State) (i : Nat) (f : Entry → Entry) : (s.modEntry i f).memDev = s.memDev := rfl
@[simp] theorem modEntry_flash (s : State) (i : Nat) (f : Entry → Entry) : (s.modEntry i f).flash = s.flash := rfl
@[simp] theorem modEntry_store (s : State) (i : Nat) (f : Entry → Entry) : (s.modEntry i f).store = s.store := rfl
@[simp] theorem modEntry_fab (s : State) (i : Nat) (f : Entry → Entry) : (s.modEntry i f).fab = s.fab := rfl
@[simp] theorem modEntry_eth (s : State) (i : Nat) (f : Entry → Entry) : (s.modEntry i f).eth = s.eth := rfl
@[simp] theorem modEntry_ep (s : State) (i : Nat) (f : Entry → Entry) : (s.modEntry i f).ep = s.ep := rfl
@[simp] theorem modEntry_selects (s : State) (i : Nat) (f : Entry → Entry) : (s.modEntry i f).selects = s.selects := rfl
@[simp] theorem modEntry_sec (s : State) (i : Nat) (f : Entry → Entry) : (s.modEntry i f).sec = s.sec := rfl
@[simp] theorem modEntry_ptb (s : State) (i : Nat) (f : Entry → Entry) : (s.modEntry i f).ptb = s.ptb := rfl
@[simp] theorem modEntry_ptbNext (s : State) (i : Nat) (f : Entry → Entry) : (s.modEntry i f).ptbNext = s.ptbNext := rfl
@[simp] theorem modEntry_trace (s : State) (i : Nat) (f : Entry → Entry) : (s.modEntry i f).trace = s.trace := rfl
@[simp] theorem modEntry_dumps (s : State) (i : Nat) (f : Entry → Entry) : (s.modEntry i f).dumps = s.dumps := rfl
@[simp] theorem modEntry_mgmt (s : State) (i : Nat) (f : Entry → Entry) : (s.modEntry i f).mgmt = s.mgmt := rfl
@[simp] theorem modEntry_live (s : State) (i : Nat) (f : Entry → Entry) : (s.modEntry i f).live = s.live := rfl
@[simp] theorem modEntry_basins (s : State) (i : Nat) (f : Entry → Entry) : (s.modEntry i f).basins = s.basins := rfl
@[simp] theorem modEntry_tiles (s : State) (i : Nat) (f : Entry → Entry) : (s.modEntry i f).tiles = s.tiles := rfl
@[simp] theorem modEntry_msgs (s : State) (i : Nat) (f : Entry → Entry) : (s.modEntry i f).msgs = s.msgs := rfl

@[simp] theorem setSession_pending (s : State) (n : Nat) (x : Option Session) : (s.setSession n x).pending = s.pending := rfl
@[simp] theorem setSession_freeCtr (s : State) (n : Nat) (x : Option Session) : (s.setSession n x).freeCtr = s.freeCtr := rfl
@[simp] theorem setSession_time (s : State) (n : Nat) (x : Option Session) : (s.setSession n x).time = s.time := rfl
@[simp] theorem setSession_power (s : State) (n : Nat) (x : Option Session) : (s.setSession n x).power = s.power := rfl
@[simp] theorem setSession_pins (s : State) (n : Nat) (x : Option Session) : (s.setSession n x).pins = s.pins := rfl
@[simp] theorem setSession_memDev (s : State) (n : Nat) (x : Option Session) : (s.setSession n x).memDev = s.memDev := rfl
@[simp] theorem setSession_flash (s : State) (n : Nat) (x : Option Session) : (s.setSession n x).flash = s.flash := rfl
@[simp] theorem setSession_store (s : State) (n : Nat) (x : Option Session) : (s.setSession n x).store = s.store := rfl
@[simp] theorem setSession_fab (s : State) (n : Nat) (x : Option Session) : (s.setSession n x).fab = s.fab := rfl
@[simp] theorem setSession_eth (s : State) (n : Nat) (x : Option Session) : (s.setSession n x).eth = s.eth := rfl
@[simp] theorem setSession_man (s : State) (n : Nat) (x : Option Session) : (s.setSession n x).man = s.man := rfl
@[simp] theorem setSession_selects (s : State) (n : Nat) (x : Option Session) : (s.setSession n x).selects = s.selects := rfl
@[simp] theorem setSession_sec (s : State) (n : Nat) (x : Option Session) : (s.setSession n x).sec = s.sec := rfl
@[simp] theorem setSession_ptb (s : State) (n : Nat) (x : Option Session) : (s.setSession n x).ptb = s.ptb := rfl
@[simp] theorem setSession_ptbNext (s : State) (n : Nat) (x : Option Session) : (s.setSession n x).ptbNext = s.ptbNext := rfl
@[simp] theorem setSession_trace (s : State) (n : Nat) (x : Option Session) : (s.setSession n x).trace = s.trace := rfl
@[simp] theorem setSession_dumps (s : State) (n : Nat) (x : Option Session) : (s.setSession n x).dumps = s.dumps := rfl
@[simp] theorem setSession_mgmt (s : State) (n : Nat) (x : Option Session) : (s.setSession n x).mgmt = s.mgmt := rfl
@[simp] theorem setSession_live (s : State) (n : Nat) (x : Option Session) : (s.setSession n x).live = s.live := rfl
@[simp] theorem setSession_basins (s : State) (n : Nat) (x : Option Session) : (s.setSession n x).basins = s.basins := rfl
@[simp] theorem setSession_tiles (s : State) (n : Nat) (x : Option Session) : (s.setSession n x).tiles = s.tiles := rfl
@[simp] theorem setSession_msgs (s : State) (n : Nat) (x : Option Session) : (s.setSession n x).msgs = s.msgs := rfl

@[simp] theorem modSession_pending (s : State) (n : Nat) (f : Session → Session) : (s.modSession n f).pending = s.pending := rfl
@[simp] theorem modSession_freeCtr (s : State) (n : Nat) (f : Session → Session) : (s.modSession n f).freeCtr = s.freeCtr := rfl
@[simp] theorem modSession_time (s : State) (n : Nat) (f : Session → Session) : (s.modSession n f).time = s.time := rfl
@[simp] theorem modSession_power (s : State) (n : Nat) (f : Session → Session) : (s.modSession n f).power = s.power := rfl
@[simp] theorem modSession_pins (s : State) (n : Nat) (f : Session → Session) : (s.modSession n f).pins = s.pins := rfl
@[simp] theorem modSession_memDev (s : State) (n : Nat) (f : Session → Session) : (s.modSession n f).memDev = s.memDev := rfl
@[simp] theorem modSession_flash (s : State) (n : Nat) (f : Session → Session) : (s.modSession n f).flash = s.flash := rfl
@[simp] theorem modSession_store (s : State) (n : Nat) (f : Session → Session) : (s.modSession n f).store = s.store := rfl
@[simp] theorem modSession_fab (s : State) (n : Nat) (f : Session → Session) : (s.modSession n f).fab = s.fab := rfl
@[simp] theorem modSession_eth (s : State) (n : Nat) (f : Session → Session) : (s.modSession n f).eth = s.eth := rfl
@[simp] theorem modSession_man (s : State) (n : Nat) (f : Session → Session) : (s.modSession n f).man = s.man := rfl
@[simp] theorem modSession_selects (s : State) (n : Nat) (f : Session → Session) : (s.modSession n f).selects = s.selects := rfl
@[simp] theorem modSession_sec (s : State) (n : Nat) (f : Session → Session) : (s.modSession n f).sec = s.sec := rfl
@[simp] theorem modSession_ptb (s : State) (n : Nat) (f : Session → Session) : (s.modSession n f).ptb = s.ptb := rfl
@[simp] theorem modSession_ptbNext (s : State) (n : Nat) (f : Session → Session) : (s.modSession n f).ptbNext = s.ptbNext := rfl
@[simp] theorem modSession_trace (s : State) (n : Nat) (f : Session → Session) : (s.modSession n f).trace = s.trace := rfl
@[simp] theorem modSession_dumps (s : State) (n : Nat) (f : Session → Session) : (s.modSession n f).dumps = s.dumps := rfl
@[simp] theorem modSession_mgmt (s : State) (n : Nat) (f : Session → Session) : (s.modSession n f).mgmt = s.mgmt := rfl
@[simp] theorem modSession_live (s : State) (n : Nat) (f : Session → Session) : (s.modSession n f).live = s.live := rfl
@[simp] theorem modSession_basins (s : State) (n : Nat) (f : Session → Session) : (s.modSession n f).basins = s.basins := rfl
@[simp] theorem modSession_tiles (s : State) (n : Nat) (f : Session → Session) : (s.modSession n f).tiles = s.tiles := rfl
@[simp] theorem modSession_msgs (s : State) (n : Nat) (f : Session → Session) : (s.modSession n f).msgs = s.msgs := rfl

@[simp] theorem modImage_pending (s : State) (i : Nat) (f : FwImage → FwImage) : (s.modImage i f).pending = s.pending := rfl
@[simp] theorem modImage_freeCtr (s : State) (i : Nat) (f : FwImage → FwImage) : (s.modImage i f).freeCtr = s.freeCtr := rfl
@[simp] theorem modImage_time (s : State) (i : Nat) (f : FwImage → FwImage) : (s.modImage i f).time = s.time := rfl
@[simp] theorem modImage_power (s : State) (i : Nat) (f : FwImage → FwImage) : (s.modImage i f).power = s.power := rfl
@[simp] theorem modImage_pins (s : State) (i : Nat) (f : FwImage → FwImage) : (s.modImage i f).pins = s.pins := rfl
@[simp] theorem modImage_memDev (s : State) (i : Nat) (f : FwImage → FwImage) : (s.modImage i f).memDev = s.memDev := rfl
@[simp] theorem modImage_flash (s : State) (i : Nat) (f : FwImage → FwImage) : (s.modImage i f).flash = s.flash := rfl
@[simp] theorem modImage_store (s : State) (i : Nat) (f : FwImage → FwImage) : (s.modImage i f).store = s.store := rfl
@[simp] theorem modImage_fab (s : State) (i : Nat) (f : FwImage → FwImage) : (s.modImage i f).fab = s.fab := rfl
@[simp] theorem modImage_eth (s : State) (i : Nat) (f : FwImage → FwImage) : (s.modImage i f).eth = s.eth := rfl
@[simp] theorem modImage_ep (s : State) (i : Nat) (f : FwImage → FwImage) : (s.modImage i f).ep = s.ep := rfl
@[simp] theorem modImage_man (s : State) (i : Nat) (f : FwImage → FwImage) : (s.modImage i f).man = s.man := rfl
@[simp] theorem modImage_selects (s : State) (i : Nat) (f : FwImage → FwImage) : (s.modImage i f).selects = s.selects := rfl
@[simp] theorem modImage_ptb (s : State) (i : Nat) (f : FwImage → FwImage) : (s.modImage i f).ptb = s.ptb := rfl
@[simp] theorem modImage_ptbNext (s : State) (i : Nat) (f : FwImage → FwImage) : (s.modImage i f).ptbNext = s.ptbNext := rfl
@[simp] theorem modImage_trace (s : State) (i : Nat) (f : FwImage → FwImage) : (s.modImage i f).trace = s.trace := rfl
@[simp] theorem modImage_dumps (s : State) (i : Nat) (f : FwImage → FwImage) : (s.modImage i f).dumps = s.dumps := rfl
@[simp] theorem modImage_mgmt (s : State) (i : Nat) (f : FwImage → FwImage) : (s.modImage i f).mgmt = s.mgmt := rfl
@[simp] theorem modImage_live (s : State) (i : Nat) (f : FwImage → FwImage) : (s.modImage i f).live = s.live := rfl
@[simp] theorem modImage_basins (s : State) (i : Nat) (f : FwImage → FwImage) : (s.modImage i f).basins = s.basins := rfl
@[simp] theorem modImage_tiles (s : State) (i : Nat) (f : FwImage → FwImage) : (s.modImage i f).tiles = s.tiles := rfl
@[simp] theorem modImage_msgs (s : State) (i : Nat) (f : FwImage → FwImage) : (s.modImage i f).msgs = s.msgs := rfl

@[simp] theorem setPerturb_pending (s : State) (i : Nat) (p : Perturb) : (s.setPerturb i p).pending = s.pending := rfl
@[simp] theorem setPerturb_freeCtr (s : State) (i : Nat) (p : Perturb) : (s.setPerturb i p).freeCtr = s.freeCtr := rfl
@[simp] theorem setPerturb_time (s : State) (i : Nat) (p : Perturb) : (s.setPerturb i p).time = s.time := rfl
@[simp] theorem setPerturb_power (s : State) (i : Nat) (p : Perturb) : (s.setPerturb i p).power = s.power := rfl
@[simp] theorem setPerturb_pins (s : State) (i : Nat) (p : Perturb) : (s.setPerturb i p).pins = s.pins := rfl
@[simp] theorem setPerturb_memDev (s : State) (i : Nat) (p : Perturb) : (s.setPerturb i p).memDev = s.memDev := rfl
@[simp] theorem setPerturb_flash (s : State) (i : Nat) (p : Perturb) : (s.setPerturb i p).flash = s.flash := rfl
@[simp] theorem setPerturb_store (s : State) (i : Nat) (p : Perturb) : (s.setPerturb i p).store = s.store := rfl
@[simp] theorem setPerturb_fab (s : State) (i : Nat) (p : Perturb) : (s.setPerturb i p).fab = s.fab := rfl
@[simp] theorem setPerturb_eth (s : State) (i : Nat) (p : Perturb) : (s.setPerturb i p).eth = s.eth := rfl
@[simp] theorem setPerturb_ep (s : State) (i : Nat) (p : Perturb) : (s.setPerturb i p).ep = s.ep := rfl
@[simp] theorem setPerturb_man (s : State) (i : Nat) (p : Perturb) : (s.setPerturb i p).man = s.man := rfl
@[simp] theorem setPerturb_selects (s : State) (i : Nat) (p : Perturb) : (s.setPerturb i p).selects = s.selects := rfl
@[simp] theorem setPerturb_sec (s : State) (i : Nat) (p : Perturb) : (s.setPerturb i p).sec = s.sec := rfl
@[simp] theorem setPerturb_ptbNext (s : State) (i : Nat) (p : Perturb) : (s.setPerturb i p).ptbNext = s.ptbNext := rfl
@[simp] theorem setPerturb_trace (s : State) (i : Nat) (p : Perturb) : (s.setPerturb i p).trace = s.trace := rfl
@[simp] theorem setPerturb_dumps (s : State) (i : Nat) (p : Perturb) : (s.setPerturb i p).dumps = s.dumps := rfl
@[simp] theorem setPerturb_mgmt (s : State) (i : Nat) (p : Perturb) : (s.setPerturb i p).mgmt = s.mgmt := rfl
@[simp] theorem setPerturb_live (s : State) (i : Nat) (p : Perturb) : (s.setPerturb i p).live = s.live := rfl
@[simp] theorem setPerturb_basins (s : State) (i : Nat) (p : Perturb) : (s.setPerturb i p).basins = s.basins := rfl
@[simp] theorem setPerturb_tiles (s : State) (i : Nat) (p : Perturb) : (s.setPerturb i p).tiles = s.tiles := rfl
@[simp] theorem setPerturb_msgs (s : State) (i : Nat) (p : Perturb) : (s.setPerturb i p).msgs = s.msgs := rfl

@[simp] theorem free_pending (s : State) : s.free.2.pending = s.pending := rfl
@[simp] theorem free_time (s : State) : s.free.2.time = s.time := rfl
@[simp] theorem free_power (s : State) : s.free.2.power = s.power := rfl
@[simp] theorem free_pins (s : State) : s.free.2.pins = s.pins := rfl
@[simp] theorem free_memDev (s : State) : s.free.2.memDev = s.memDev := rfl
@[simp] theorem free_flash (s : State) : s.free.2.flash = s.flash := rfl
@[simp] theorem free_store (s : State) : s.free.2.store = s.store := rfl
@[simp] theorem free_fab (s : State) : s.free.2.fab = s.fab := rfl
@[simp] theorem free_eth (s : State) : s.free.2.eth = s.eth := rfl
@[simp] theorem free_ep (s : State) : s.free.2.ep = s.ep := rfl
@[simp] theorem free_man (s : State) : s.free.2.man = s.man := rfl
@[simp] theorem free_selects (s : State) : s.free.2.selects = s.selects := rfl
@[simp] theorem free_sec (s : State) : s.free.2.sec = s.sec := rfl
@[simp] theorem free_ptb (s : State) : s.free.2.ptb = s.ptb := rfl
@[simp] theorem free_ptbNext (s : State) : s.free.2.ptbNext = s.ptbNext := rfl
@[simp] theorem free_trace (s : State) : s.free.2.trace = s.trace := rfl
@[simp] theorem free_dumps (s : State) : s.free.2.dumps = s.dumps := rfl
@[simp] theorem free_mgmt (s : State) : s.free.2.mgmt = s.mgmt := rfl
@[simp] theorem free_live (s : State) : s.free.2.live = s.live := rfl
@[simp] theorem free_basins (s : State) : s.free.2.basins = s.basins := rfl
@[simp] theorem free_tiles (s : State) : s.free.2.tiles = s.tiles := rfl
@[simp] theorem free_msgs (s : State) : s.free.2.msgs = s.msgs := rfl

/-! ### Units read back -/

@[simp] theorem basin_setBasin (s : State) (b : Nat) (x : Basin) : (s.setBasin b x).basin b = x := Tbl.get_set_same

theorem basin_setBasin_other (s : State) {a b : Nat} (x : Basin) (h : a ≠ b) : (s.setBasin b x).basin a = s.basin a := by
  unfold setBasin basin
  by_cases hx : x = Basin.fresh b
  · simp only [Tbl.set, hx, if_true]
    rw [Tbl.get_drop_other h]
  · simp only [Tbl.set, hx, if_false]
    rw [Tbl.get_put_other h, Tbl.get_drop_other h]

@[simp] theorem basin_modBasin (s : State) (b : Nat) (f : Basin → Basin) : (s.modBasin b f).basin b = f (s.basin b) := Tbl.get_set_same

theorem basin_modBasin_other (s : State) {a b : Nat} (f : Basin → Basin) (h : a ≠ b) : (s.modBasin b f).basin a = s.basin a :=
  basin_setBasin_other s _ h

@[simp] theorem tile_setTile (s : State) (t : Nat) (x : Tile) : (s.setTile t x).tile t = x := Tbl.get_set_same

theorem tile_setTile_other (s : State) {u t : Nat} (x : Tile) (h : u ≠ t) : (s.setTile t x).tile u = s.tile u := Tbl.get_set_other h

@[simp] theorem tile_modTile (s : State) (t : Nat) (f : Tile → Tile) : (s.modTile t f).tile t = f (s.tile t) := Tbl.get_set_same

theorem tile_modTile_other (s : State) {u t : Nat} (f : Tile → Tile) (h : u ≠ t) : (s.modTile t f).tile u = s.tile u :=
  Tbl.get_set_other h

@[simp] theorem link_modLink (s : State) (n : Nat) (f : Link → Link) : (s.modLink n f).link n = f (s.link n) := Tbl.get_set_same

theorem link_modLink_other (s : State) {m n : Nat} (f : Link → Link) (h : m ≠ n) : (s.modLink n f).link m = s.link m :=
  Tbl.get_set_other h

@[simp] theorem chan_modChan (s : State) (m : Nat) (f : MemChan → MemChan) : (s.modChan m f).chan m = f (s.chan m) := Tbl.get_set_same

theorem chan_modChan_other (s : State) {k m : Nat} (f : MemChan → MemChan) (h : k ≠ m) : (s.modChan m f).chan k = s.chan k :=
  Tbl.get_set_other h

@[simp] theorem entry_setEntry (s : State) (i : Nat) (e : Entry) : (s.setEntry i e).entry i = e := Tbl.get_set_same

theorem entry_setEntry_other (s : State) {i j : Nat} (e : Entry) (h : j ≠ i) : (s.setEntry i e).entry j = s.entry j :=
  Tbl.get_set_other h

@[simp] theorem session_setSession (s : State) (n : Nat) (x : Option Session) : (s.setSession n x).session n = x := Tbl.get_set_same

theorem session_setSession_other (s : State) {m n : Nat} (x : Option Session) (h : m ≠ n) :
    (s.setSession n x).session m = s.session m :=
  Tbl.get_set_other h

@[simp] theorem session_modSession (s : State) (n : Nat) (f : Session → Session) :
    (s.modSession n f).session n = (s.session n).map f := Tbl.get_set_same

@[simp] theorem image_modImage (s : State) (i : Nat) (f : FwImage → FwImage) : (s.modImage i f).image i = f (s.image i) :=
  Tbl.get_set_same

theorem image_modImage_other (s : State) {i j : Nat} (f : FwImage → FwImage) (h : j ≠ i) : (s.modImage i f).image j = s.image j :=
  Tbl.get_set_other h

@[simp] theorem perturb_setPerturb (s : State) (i : Nat) (p : Perturb) : (s.setPerturb i p).perturb i = p := Tbl.get_set_same

theorem perturb_setPerturb_other (s : State) {i j : Nat} (p : Perturb) (h : j ≠ i) : (s.setPerturb i p).perturb j = s.perturb j :=
  Tbl.get_set_other h

/-! ### Units read through operations on other units -/

@[simp] theorem tile_setBasin (s : State) (a : Nat) (b : Nat) (x : Basin) : (s.setBasin b x).tile a = s.tile a := rfl
@[simp] theorem link_setBasin (s : State) (a : Nat) (b : Nat) (x : Basin) : (s.setBasin b x).link a = s.link a := rfl
@[simp] theorem chan_setBasin (s : State) (a : Nat) (b : Nat) (x : Basin) : (s.setBasin b x).chan a = s.chan a := rfl
@[simp] theorem entry_setBasin (s : State) (a : Nat) (b : Nat) (x : Basin) : (s.setBasin b x).entry a = s.entry a := rfl
@[simp] theorem session_setBasin (s : State) (a : Nat) (b : Nat) (x : Basin) : (s.setBasin b x).session a = s.session a := rfl
@[simp] theorem image_setBasin (s : State) (a : Nat) (b : Nat) (x : Basin) : (s.setBasin b x).image a = s.image a := rfl
@[simp] theorem perturb_setBasin (s : State) (a : Nat) (b : Nat) (x : Basin) : (s.setBasin b x).perturb a = s.perturb a := rfl
@[simp] theorem now_setBasin (s : State) (b : Nat) (x : Basin) : (s.setBasin b x).now = s.now := rfl
@[simp] theorem tile_modBasin (s : State) (a : Nat) (b : Nat) (f : Basin → Basin) : (s.modBasin b f).tile a = s.tile a := rfl
@[simp] theorem link_modBasin (s : State) (a : Nat) (b : Nat) (f : Basin → Basin) : (s.modBasin b f).link a = s.link a := rfl
@[simp] theorem chan_modBasin (s : State) (a : Nat) (b : Nat) (f : Basin → Basin) : (s.modBasin b f).chan a = s.chan a := rfl
@[simp] theorem entry_modBasin (s : State) (a : Nat) (b : Nat) (f : Basin → Basin) : (s.modBasin b f).entry a = s.entry a := rfl
@[simp] theorem session_modBasin (s : State) (a : Nat) (b : Nat) (f : Basin → Basin) : (s.modBasin b f).session a = s.session a := rfl
@[simp] theorem image_modBasin (s : State) (a : Nat) (b : Nat) (f : Basin → Basin) : (s.modBasin b f).image a = s.image a := rfl
@[simp] theorem perturb_modBasin (s : State) (a : Nat) (b : Nat) (f : Basin → Basin) : (s.modBasin b f).perturb a = s.perturb a := rfl
@[simp] theorem now_modBasin (s : State) (b : Nat) (f : Basin → Basin) : (s.modBasin b f).now = s.now := rfl
@[simp] theorem basin_setTile (s : State) (a : Nat) (t : Nat) (x : Tile) : (s.setTile t x).basin a = s.basin a := rfl
@[simp] theorem link_setTile (s : State) (a : Nat) (t : Nat) (x : Tile) : (s.setTile t x).link a = s.link a := rfl
@[simp] theorem chan_setTile (s : State) (a : Nat) (t : Nat) (x : Tile) : (s.setTile t x).chan a = s.chan a := rfl
@[simp] theorem entry_setTile (s : State) (a : Nat) (t : Nat) (x : Tile) : (s.setTile t x).entry a = s.entry a := rfl
@[simp] theorem session_setTile (s : State) (a : Nat) (t : Nat) (x : Tile) : (s.setTile t x).session a = s.session a := rfl
@[simp] theorem image_setTile (s : State) (a : Nat) (t : Nat) (x : Tile) : (s.setTile t x).image a = s.image a := rfl
@[simp] theorem perturb_setTile (s : State) (a : Nat) (t : Nat) (x : Tile) : (s.setTile t x).perturb a = s.perturb a := rfl
@[simp] theorem now_setTile (s : State) (t : Nat) (x : Tile) : (s.setTile t x).now = s.now := rfl
@[simp] theorem basin_modTile (s : State) (a : Nat) (t : Nat) (f : Tile → Tile) : (s.modTile t f).basin a = s.basin a := rfl
@[simp] theorem link_modTile (s : State) (a : Nat) (t : Nat) (f : Tile → Tile) : (s.modTile t f).link a = s.link a := rfl
@[simp] theorem chan_modTile (s : State) (a : Nat) (t : Nat) (f : Tile → Tile) : (s.modTile t f).chan a = s.chan a := rfl
@[simp] theorem entry_modTile (s : State) (a : Nat) (t : Nat) (f : Tile → Tile) : (s.modTile t f).entry a = s.entry a := rfl
@[simp] theorem session_modTile (s : State) (a : Nat) (t : Nat) (f : Tile → Tile) : (s.modTile t f).session a = s.session a := rfl
@[simp] theorem image_modTile (s : State) (a : Nat) (t : Nat) (f : Tile → Tile) : (s.modTile t f).image a = s.image a := rfl
@[simp] theorem perturb_modTile (s : State) (a : Nat) (t : Nat) (f : Tile → Tile) : (s.modTile t f).perturb a = s.perturb a := rfl
@[simp] theorem now_modTile (s : State) (t : Nat) (f : Tile → Tile) : (s.modTile t f).now = s.now := rfl
@[simp] theorem basin_modLink (s : State) (a : Nat) (n : Nat) (f : Link → Link) : (s.modLink n f).basin a = s.basin a := rfl
@[simp] theorem tile_modLink (s : State) (a : Nat) (n : Nat) (f : Link → Link) : (s.modLink n f).tile a = s.tile a := rfl
@[simp] theorem chan_modLink (s : State) (a : Nat) (n : Nat) (f : Link → Link) : (s.modLink n f).chan a = s.chan a := rfl
@[simp] theorem entry_modLink (s : State) (a : Nat) (n : Nat) (f : Link → Link) : (s.modLink n f).entry a = s.entry a := rfl
@[simp] theorem session_modLink (s : State) (a : Nat) (n : Nat) (f : Link → Link) : (s.modLink n f).session a = s.session a := rfl
@[simp] theorem image_modLink (s : State) (a : Nat) (n : Nat) (f : Link → Link) : (s.modLink n f).image a = s.image a := rfl
@[simp] theorem perturb_modLink (s : State) (a : Nat) (n : Nat) (f : Link → Link) : (s.modLink n f).perturb a = s.perturb a := rfl
@[simp] theorem now_modLink (s : State) (n : Nat) (f : Link → Link) : (s.modLink n f).now = s.now := rfl
@[simp] theorem basin_modChan (s : State) (a : Nat) (m : Nat) (f : MemChan → MemChan) : (s.modChan m f).basin a = s.basin a := rfl
@[simp] theorem tile_modChan (s : State) (a : Nat) (m : Nat) (f : MemChan → MemChan) : (s.modChan m f).tile a = s.tile a := rfl
@[simp] theorem link_modChan (s : State) (a : Nat) (m : Nat) (f : MemChan → MemChan) : (s.modChan m f).link a = s.link a := rfl
@[simp] theorem entry_modChan (s : State) (a : Nat) (m : Nat) (f : MemChan → MemChan) : (s.modChan m f).entry a = s.entry a := rfl
@[simp] theorem session_modChan (s : State) (a : Nat) (m : Nat) (f : MemChan → MemChan) : (s.modChan m f).session a = s.session a := rfl
@[simp] theorem image_modChan (s : State) (a : Nat) (m : Nat) (f : MemChan → MemChan) : (s.modChan m f).image a = s.image a := rfl
@[simp] theorem perturb_modChan (s : State) (a : Nat) (m : Nat) (f : MemChan → MemChan) : (s.modChan m f).perturb a = s.perturb a := rfl
@[simp] theorem now_modChan (s : State) (m : Nat) (f : MemChan → MemChan) : (s.modChan m f).now = s.now := rfl
@[simp] theorem basin_setEntry (s : State) (a : Nat) (i : Nat) (e : Entry) : (s.setEntry i e).basin a = s.basin a := rfl
@[simp] theorem tile_setEntry (s : State) (a : Nat) (i : Nat) (e : Entry) : (s.setEntry i e).tile a = s.tile a := rfl
@[simp] theorem link_setEntry (s : State) (a : Nat) (i : Nat) (e : Entry) : (s.setEntry i e).link a = s.link a := rfl
@[simp] theorem chan_setEntry (s : State) (a : Nat) (i : Nat) (e : Entry) : (s.setEntry i e).chan a = s.chan a := rfl
@[simp] theorem session_setEntry (s : State) (a : Nat) (i : Nat) (e : Entry) : (s.setEntry i e).session a = s.session a := rfl
@[simp] theorem image_setEntry (s : State) (a : Nat) (i : Nat) (e : Entry) : (s.setEntry i e).image a = s.image a := rfl
@[simp] theorem perturb_setEntry (s : State) (a : Nat) (i : Nat) (e : Entry) : (s.setEntry i e).perturb a = s.perturb a := rfl
@[simp] theorem now_setEntry (s : State) (i : Nat) (e : Entry) : (s.setEntry i e).now = s.now := rfl
@[simp] theorem basin_modEntry (s : State) (a : Nat) (i : Nat) (f : Entry → Entry) : (s.modEntry i f).basin a = s.basin a := rfl
@[simp] theorem tile_modEntry (s : State) (a : Nat) (i : Nat) (f : Entry → Entry) : (s.modEntry i f).tile a = s.tile a := rfl
@[simp] theorem link_modEntry (s : State) (a : Nat) (i : Nat) (f : Entry → Entry) : (s.modEntry i f).link a = s.link a := rfl
@[simp] theorem chan_modEntry (s : State) (a : Nat) (i : Nat) (f : Entry → Entry) : (s.modEntry i f).chan a = s.chan a := rfl
@[simp] theorem session_modEntry (s : State) (a : Nat) (i : Nat) (f : Entry → Entry) : (s.modEntry i f).session a = s.session a := rfl
@[simp] theorem image_modEntry (s : State) (a : Nat) (i : Nat) (f : Entry → Entry) : (s.modEntry i f).image a = s.image a := rfl
@[simp] theorem perturb_modEntry (s : State) (a : Nat) (i : Nat) (f : Entry → Entry) : (s.modEntry i f).perturb a = s.perturb a := rfl
@[simp] theorem now_modEntry (s : State) (i : Nat) (f : Entry → Entry) : (s.modEntry i f).now = s.now := rfl
@[simp] theorem basin_setSession (s : State) (a : Nat) (n : Nat) (x : Option Session) : (s.setSession n x).basin a = s.basin a := rfl
@[simp] theorem tile_setSession (s : State) (a : Nat) (n : Nat) (x : Option Session) : (s.setSession n x).tile a = s.tile a := rfl
@[simp] theorem link_setSession (s : State) (a : Nat) (n : Nat) (x : Option Session) : (s.setSession n x).link a = s.link a := rfl
@[simp] theorem chan_setSession (s : State) (a : Nat) (n : Nat) (x : Option Session) : (s.setSession n x).chan a = s.chan a := rfl
@[simp] theorem entry_setSession (s : State) (a : Nat) (n : Nat) (x : Option Session) : (s.setSession n x).entry a = s.entry a := rfl
@[simp] theorem image_setSession (s : State) (a : Nat) (n : Nat) (x : Option Session) : (s.setSession n x).image a = s.image a := rfl
@[simp] theorem perturb_setSession (s : State) (a : Nat) (n : Nat) (x : Option Session) : (s.setSession n x).perturb a = s.perturb a := rfl
@[simp] theorem now_setSession (s : State) (n : Nat) (x : Option Session) : (s.setSession n x).now = s.now := rfl
@[simp] theorem basin_modSession (s : State) (a : Nat) (n : Nat) (f : Session → Session) : (s.modSession n f).basin a = s.basin a := rfl
@[simp] theorem tile_modSession (s : State) (a : Nat) (n : Nat) (f : Session → Session) : (s.modSession n f).tile a = s.tile a := rfl
@[simp] theorem link_modSession (s : State) (a : Nat) (n : Nat) (f : Session → Session) : (s.modSession n f).link a = s.link a := rfl
@[simp] theorem chan_modSession (s : State) (a : Nat) (n : Nat) (f : Session → Session) : (s.modSession n f).chan a = s.chan a := rfl
@[simp] theorem entry_modSession (s : State) (a : Nat) (n : Nat) (f : Session → Session) : (s.modSession n f).entry a = s.entry a := rfl
@[simp] theorem image_modSession (s : State) (a : Nat) (n : Nat) (f : Session → Session) : (s.modSession n f).image a = s.image a := rfl
@[simp] theorem perturb_modSession (s : State) (a : Nat) (n : Nat) (f : Session → Session) : (s.modSession n f).perturb a = s.perturb a := rfl
@[simp] theorem now_modSession (s : State) (n : Nat) (f : Session → Session) : (s.modSession n f).now = s.now := rfl
@[simp] theorem basin_modImage (s : State) (a : Nat) (i : Nat) (f : FwImage → FwImage) : (s.modImage i f).basin a = s.basin a := rfl
@[simp] theorem tile_modImage (s : State) (a : Nat) (i : Nat) (f : FwImage → FwImage) : (s.modImage i f).tile a = s.tile a := rfl
@[simp] theorem link_modImage (s : State) (a : Nat) (i : Nat) (f : FwImage → FwImage) : (s.modImage i f).link a = s.link a := rfl
@[simp] theorem chan_modImage (s : State) (a : Nat) (i : Nat) (f : FwImage → FwImage) : (s.modImage i f).chan a = s.chan a := rfl
@[simp] theorem entry_modImage (s : State) (a : Nat) (i : Nat) (f : FwImage → FwImage) : (s.modImage i f).entry a = s.entry a := rfl
@[simp] theorem session_modImage (s : State) (a : Nat) (i : Nat) (f : FwImage → FwImage) : (s.modImage i f).session a = s.session a := rfl
@[simp] theorem perturb_modImage (s : State) (a : Nat) (i : Nat) (f : FwImage → FwImage) : (s.modImage i f).perturb a = s.perturb a := rfl
@[simp] theorem now_modImage (s : State) (i : Nat) (f : FwImage → FwImage) : (s.modImage i f).now = s.now := rfl
@[simp] theorem basin_setPerturb (s : State) (a : Nat) (i : Nat) (p : Perturb) : (s.setPerturb i p).basin a = s.basin a := rfl
@[simp] theorem tile_setPerturb (s : State) (a : Nat) (i : Nat) (p : Perturb) : (s.setPerturb i p).tile a = s.tile a := rfl
@[simp] theorem link_setPerturb (s : State) (a : Nat) (i : Nat) (p : Perturb) : (s.setPerturb i p).link a = s.link a := rfl
@[simp] theorem chan_setPerturb (s : State) (a : Nat) (i : Nat) (p : Perturb) : (s.setPerturb i p).chan a = s.chan a := rfl
@[simp] theorem entry_setPerturb (s : State) (a : Nat) (i : Nat) (p : Perturb) : (s.setPerturb i p).entry a = s.entry a := rfl
@[simp] theorem session_setPerturb (s : State) (a : Nat) (i : Nat) (p : Perturb) : (s.setPerturb i p).session a = s.session a := rfl
@[simp] theorem image_setPerturb (s : State) (a : Nat) (i : Nat) (p : Perturb) : (s.setPerturb i p).image a = s.image a := rfl
@[simp] theorem now_setPerturb (s : State) (i : Nat) (p : Perturb) : (s.setPerturb i p).now = s.now := rfl

end Sys2Proof.Machine.State
end

