-- ==== Sys2Proof/Laws/Endpoint.lean ====
section
/-! SUPPORT. Laws of the Rinzan endpoint: what replies leave alone, and what becomes of a command that the checks of Table 11.7 let
pass. -/

namespace Sys2Proof.Machine

/-! ### What replies change -/

theorem EndpointOnly.refl (s : State) : EndpointOnly s s := rfl

theorem EndpointOnly.trans {a b c : State} (h : EndpointOnly a b) (k : EndpointOnly b c) : EndpointOnly a c := by
  unfold EndpointOnly at *
  rw [k, h]

theorem State.setSession_endpoint (s : State) (n : Nat) (x : Option Session) : EndpointOnly s (s.setSession n x) := rfl

theorem State.emit_endpoint (s : State) (p : Pkt) : EndpointOnly s (s.emit p) := by
  unfold State.emit EndpointOnly
  simp only []
  repeat' split
  all_goals rfl

theorem State.emitUnder_endpoint (s : State) (n : Nat) (key : Option (List Byte)) (p : Pkt) : EndpointOnly s (s.emitUnder n key p) := by
  unfold State.emitUnder
  split
  · exact (State.setSession_endpoint ..).trans (State.emit_endpoint ..)
  · rfl

theorem foldl_endpoint {α : Type} {f : State → α → State} (hf : ∀ t a, EndpointOnly t (f t a)) (l : List α) (s : State) :
    EndpointOnly s (l.foldl f s) := by
  induction l generalizing s with
  | nil => rfl
  | cons a l ih => exact (hf s a).trans (ih _)

theorem State.emitReply_endpoint (s : State) (n : Nat) (key : Option (List Byte)) (p : Pkt) : EndpointOnly s (s.emitReply n key p) :=
  foldl_endpoint (fun t a => State.emitUnder_endpoint t n key a) _ _

theorem State.heard_endpoint (s : State) (x : Session) (h : Hdr) (cmd : HostCmd) : EndpointOnly s (s.heard x h cmd) := rfl

theorem State.begun_endpoint (s : State) (x : Session) (h : Hdr) (cmd : HostCmd) : EndpointOnly s (s.begun x h cmd) := by
  unfold State.begun
  split
  · exact (State.heard_endpoint ..).trans (State.emitReply_endpoint ..)
  · exact State.heard_endpoint ..

theorem State.keepReply_endpoint (s : State) (h : Hdr) (c : Nat) (b : BitVec 8) (p : Pkt) : EndpointOnly s (s.keepReply h c b p) := by
  unfold State.keepReply EndpointOnly
  simp only []
  split <;> rfl

theorem State.cacheClose_endpoint (s : State) (n seq : Nat) (cmd : HostCmd) (p : Pkt) : EndpointOnly s (s.cacheClose n seq cmd p) := rfl

theorem State.finalReply_endpoint (s : State) (n : Nat) (sc : Nat × BitVec 8) (h : Hdr) (cmd : HostCmd) (st : Status) (c t : Nat)
    (body : List Byte) : EndpointOnly s (s.finalReply n sc h cmd st c t body) :=
  ((State.cacheClose_endpoint ..).trans (State.keepReply_endpoint ..)).trans (State.emitReply_endpoint ..)

/-! ### Sessions that replies leave open -/

/-- A packet under a session's key changes only its own counters there. -/
theorem State.session_emit (s : State) (p : Pkt) (n : Nat) : (s.emit p).session n = s.session n := by
  unfold State.emit State.session
  simp only []
  repeat' split
  all_goals rfl

theorem State.cache_emitUnder {s : State} {n m : Nat} {key : Option (List Byte)} {p : Pkt} {x : Session} (h : s.session m = some x) :
    ∃ y, (s.emitUnder n key p).session m = some y ∧ y.cache = x.cache ∧ y.role = x.role ∧ y.ctx = x.ctx ∧ y.basins = x.basins ∧
      y.key = x.key ∧ y.target = x.target ∧ y.oldKey = x.oldKey ∧ y.rx = x.rx := by
  unfold State.emitUnder
  split
  · rename_i z _ hz _
    simp only [State.session_emit]
    by_cases e : m = n
    · subst e
      rw [h] at hz
      cases hz
      exact ⟨_, State.session_setSession .., rfl, rfl, rfl, rfl, rfl, rfl, rfl, rfl⟩
    · exact ⟨x, by rw [State.session_setSession_other _ _ e, h], rfl, rfl, rfl, rfl, rfl, rfl, rfl, rfl⟩
  · exact ⟨x, h, rfl, rfl, rfl, rfl, rfl, rfl, rfl, rfl⟩

theorem State.cache_emitReply {s : State} {n m : Nat} {key : Option (List Byte)} {p : Pkt} {x : Session} (h : s.session m = some x) :
    ∃ y, (s.emitReply n key p).session m = some y ∧ y.cache = x.cache ∧ y.role = x.role ∧ y.ctx = x.ctx ∧ y.basins = x.basins ∧
      y.key = x.key ∧ y.target = x.target ∧ y.oldKey = x.oldKey ∧ y.rx = x.rx := by
  unfold State.emitReply
  induction fragmentsOf p generalizing s x with
  | nil => exact ⟨x, h, rfl, rfl, rfl, rfl, rfl, rfl, rfl, rfl⟩
  | cons f l ih =>
    obtain ⟨y, hy, e⟩ := State.cache_emitUnder (n := n) (key := key) (p := f) h
    obtain ⟨z, hz, e'⟩ := ih hy
    refine ⟨z, hz, ?_⟩
    simp_all


/-! ### A command that starts -/

/-- A command of an open session that every check of Table 11.7 lets pass starts (step 11). -/
theorem receive_of_starts {s : State} {x : Session} {h : Hdr} {cmd : HostCmd} (w : Starts s x h cmd) :
    s.receive h cmd = (s.heard x h cmd).start (x.heard h s.now) h cmd false := by
  obtain ⟨hs, h0, hc, hk, hr, hu, hks, hrx, hi, hca, hp, hnb, -⟩ := w
  have e1 : s.receive h cmd = s.inSession h cmd := by
    unfold State.receive
    simp only [hr, hu, hc, Bool.not_true, Bool.false_eq_true, or_self, false_and, if_false]
    cases cmd <;> simp [h0]
  rw [e1]
  unfold State.inSession
  simp only [hs, hks, Bool.false_eq_true, if_false, Nat.not_le.2 hrx]
  have e2 : (s.setSession h.session.toNat (some (x.heard h s.now))).i3cFull h.carriage = false := hi
  have e3 : (s.setSession h.session.toNat (some (x.heard h s.now))).cached (x.heard h s.now) h.seq.toNat = none := hca
  show (if (s.setSession h.session.toNat (some (x.heard h s.now))).i3cFull h.carriage then _ else
    (s.setSession h.session.toNat (some (x.heard h s.now))).checkCache (x.heard h s.now) h cmd) = _
  rw [e2]
  simp only [Bool.false_eq_true, if_false]
  unfold State.checkCache
  rw [e3]
  show (s.heard x h cmd).takeIn (x.heard h s.now) h cmd = _
  unfold State.takeIn
  have e4 : permitted (s.heard x h cmd) (x.heard h s.now) h cmd = permitted s x h cmd := rfl
  have e5 : (s.heard x h cmd).now = s.now := rfl
  simp [e4, e5, hk, hp, hnb]

/-- The newest of the last 64 is among them. -/
theorem mem_last {α : Type} (l : List α) (a : α) : a ∈ (l ++ [a]).drop ((l ++ [a]).length - 64) := by
  rw [List.drop_append_of_le_length (by rw [List.length_append, List.length_singleton]; omega)]
  exact List.mem_append_right _ (List.mem_singleton.2 rfl)

/-- The cache entry that a command opens. -/
theorem State.cache_heard (s : State) (x : Session) (h : Hdr) (cmd : HostCmd) :
    ∃ y, (s.heard x h cmd).session h.session.toNat = some y ∧ y.role = x.role ∧ y.ctx = x.ctx ∧ y.basins = x.basins ∧ y.key = x.key ∧
      y.target = x.target ∧ y.oldKey = x.oldKey ∧ y.rx = h.counter.toNat ∧
      (⟨h.seq.toNat, cmd, s.now, none⟩ : CacheEntry) ∈ y.cache := by
  have e : (s.heard x h cmd).session h.session.toNat = some { x.heard h s.now with
      cache := ((x.cache.filter fun e : CacheEntry => e.seq != h.seq.toNat) ++ [(⟨h.seq.toNat, cmd, s.now, none⟩ : CacheEntry)]).drop
        (((x.cache.filter fun e : CacheEntry => e.seq != h.seq.toNat) ++ [(⟨h.seq.toNat, cmd, s.now, none⟩ : CacheEntry)]).length - 64) } := by
    unfold State.heard State.cacheOpen
    rw [State.session_modSession, State.session_setSession]
    rfl
  refine ⟨_, e, rfl, rfl, rfl, rfl, rfl, rfl, rfl, ?_⟩
  exact mem_last _ _

/-- The same once ACCEPTED has gone out. -/
theorem State.cache_begun (s : State) (x : Session) (h : Hdr) (cmd : HostCmd) :
    ∃ y, (s.begun x h cmd).session h.session.toNat = some y ∧ y.role = x.role ∧ y.ctx = x.ctx ∧ y.basins = x.basins ∧ y.key = x.key ∧
      y.target = x.target ∧ y.oldKey = x.oldKey ∧ y.rx = h.counter.toNat ∧
      (⟨h.seq.toNat, cmd, s.now, none⟩ : CacheEntry) ∈ y.cache := by
  obtain ⟨y, hy, e1, e2, e3, e4, e5, e6, e7, e8⟩ := State.cache_heard s x h cmd
  unfold State.begun
  split
  · obtain ⟨z, hz, f0, f1, f2, f3, f4, f5, f6, f7⟩ :=
      State.cache_emitReply (n := h.session.toNat) (key := none) (p := replyPkt (s.heard x h cmd) h (opcodeOf cmd) .accepted 0 0 []) hy
    exact ⟨z, hz, f1.trans e1, f2.trans e2, f3.trans e3, f4.trans e4, f5.trans e5, f6.trans e6, f7.trans e7, f0 ▸ e8⟩
  · exact ⟨y, hy, e1, e2, e3, e4, e5, e6, e7, e8⟩

/-- A kept reply changes the kept replies alone. -/
theorem State.keepReply_eq (s : State) (h : Hdr) (c : Nat) (b : BitVec 8) (p : Pkt) :
    ∃ l, s.keepReply h c b p = { s with ep := { s.ep with kept := l } } := by
  unfold State.keepReply
  simp only []
  split
  · exact ⟨s.ep.kept, rfl⟩
  · exact ⟨_, rfl⟩

theorem State.session_keepReply (s : State) (h : Hdr) (c : Nat) (b : BitVec 8) (p : Pkt) (n : Nat) :
    (s.keepReply h c b p).session n = s.session n := by
  obtain ⟨l, e⟩ := State.keepReply_eq s h c b p
  rw [e]
  rfl

/-- A final reply of one packet, or of a command that changes state, stands in its session's cache. -/
theorem State.finalReply_replied {s : State} {sc : Nat × BitVec 8} {h : Hdr} {cmd : HostCmd} {st : Status} {c t : Nat} {body : List Byte}
    {y : Session} {e : CacheEntry} (hy : s.session h.session.toNat = some y) (he : e ∈ y.cache) (hs : e.seq = h.seq.toNat)
    (hb : readsOnly cmd = true → body.length ≤ paramCap h.carriage - 32) :
    Replied (s.finalReply h.session.toNat sc h cmd st c t body) h st c t body := by
  unfold State.finalReply
  simp only []
  have hc : ∃ z, (s.cacheClose h.session.toNat h.seq.toNat cmd (replyPkt s h (opcodeOf cmd) st c t body)).session h.session.toNat = some z ∧
      { e with reply := some (replyPkt s h (opcodeOf cmd) st c t body) } ∈ z.cache := by
    have hf : ¬ (readsOnly cmd && decide (1 < (fragmentsOf (replyPkt s h (opcodeOf cmd) st c t body)).length)) = true := by
      intro hr
      simp only [Bool.and_eq_true, decide_eq_true_eq] at hr
      have := hb hr.1
      have e1 : (replyPkt s h (opcodeOf cmd) st c t body).body = body := rfl
      have e2 : (replyPkt s h (opcodeOf cmd) st c t body).carriage = h.carriage := rfl
      simp [fragmentsOf, e1, e2, this] at hr
    refine ⟨_, by unfold State.cacheClose; rw [State.session_modSession, hy, Option.map_some, if_neg hf], ?_⟩
    exact List.mem_map.2 ⟨e, he, by simp [hs]⟩
  obtain ⟨z, hz, hm⟩ := hc
  have hk : ((s.cacheClose h.session.toNat h.seq.toNat cmd (replyPkt s h (opcodeOf cmd) st c t body)).keepReply h sc.1 sc.2
      (replyPkt s h (opcodeOf cmd) st c t body)).session h.session.toNat = some z := by
    rw [← hz]
    exact State.session_keepReply ..
  obtain ⟨w, hw, e0, -⟩ := State.cache_emitReply (n := h.session.toNat) (key := none) (p := replyPkt s h (opcodeOf cmd) st c t body) hk
  exact ⟨w, { e with reply := some (replyPkt s h (opcodeOf cmd) st c t body) }, _, hw, e0 ▸ hm, hs, rfl, rfl, rfl, rfl, rfl⟩

/-- A command that is done when it starts: its own effect, then its reply (R434). -/
theorem exec_done {s : State} {x : Session} {h : Hdr} {cmd : HostCmd} {r : Res} (w : Starts s x h cmd)
    (h0 : longClass (classOf (opcodeOf cmd)) = true → ∀ q, runCommand (x.heard h s.now) h cmd (s.heard x h cmd) = .done q → q.status = .ok)
    (hr : runCommand (x.heard h s.now) h cmd (s.begun x h cmd) = .done r) :
    s.receive h cmd = (r.st.answer (x.heard h s.now) h cmd r.status r.committed r.touched r.body).afterReply h cmd r.status := by
  rw [receive_of_starts w]
  obtain ⟨-, -, -, -, -, -, -, -, -, -, hp, -, ho, hrec, hctx, hm, hf⟩ := w
  unfold State.start
  have a1 : ¬ ((s.heard x h cmd).mgmt.oos = true ∧ 3 ≤ classOf (opcodeOf cmd) ∧ classOf (opcodeOf cmd) ≤ 6) := fun k => ho k.1 k.2
  have a2 : ¬ ((s.heard x h cmd).pins.recovery = true ∧ (!recoveryCmd (opcodeOf cmd)) = true) := by
    rintro ⟨k1, k2⟩
    simp [hrec k1] at k2
  have a5 : ¬ (classOf (opcodeOf cmd) = 15 ∧ ((s.heard x h cmd).authOf h.session.toNat).isNone = true) := by
    rintro ⟨k1, k2⟩
    have k3 : ((s.heard x h cmd).authOf h.session.toNat) = s.authOf h.session.toNat := rfl
    rw [k3] at k2
    unfold permitted at hp
    simp only [Bool.and_eq_true, Bool.or_eq_true, bne_iff_ne, ne_eq] at hp
    rcases hp.2 with k | k
    · exact k k1
    · rw [Option.isNone_iff_eq_none] at k2
      rw [k2] at k
      exact absurd k (by decide)
  have a3 : ¬ (3 < h.context.toNat ∨ (!maskOk (s.heard x h cmd) h cmd) = true) := by
    rintro (k | k)
    · omega
    · have : maskOk (s.heard x h cmd) h cmd = maskOk s h cmd := rfl
      simp [this, hm] at k
  have a4 : ¬ (classOf (opcodeOf cmd) ≠ 11 ∧ namesBasins cmd = true ∧
      ((maskBasins h.mask).any fun b => ((s.heard x h cmd).basin b).st.state == .fenced) = true) := by
    rintro ⟨k1, k2, k3⟩
    rcases hf with hf | hf | hf
    · exact k1 hf
    · simp [hf] at k2
    · have : ((maskBasins h.mask).any fun b => ((s.heard x h cmd).basin b).st.state == .fenced) =
        ((maskBasins h.mask).any fun b => (s.basin b).st.state == .fenced) := rfl
      simp [this, hf] at k3
  simp only [a1, a2, a5, a3, a4, if_false]
  have eb : s.begun x h cmd =
    if longClass (classOf (opcodeOf cmd)) then (s.heard x h cmd).acceptedReply h.session.toNat h cmd else s.heard x h cmd := rfl
  rw [eb] at hr
  cases hg : runCommand (x.heard h s.now) h cmd (s.heard x h cmd) with
  | done q =>
    cases hl : longClass (classOf (opcodeOf cmd)) with
    | true => simp only [hl, if_true] at hr; simp only [h0 hl q hg, Bool.not_false, Bool.and_true, beq_self_eq_true, if_true, hr]
    | false => simp only [hl, Bool.false_eq_true, if_false] at hr; simp only [Bool.false_and, Bool.false_eq_true, if_false, hr]
  | later a b => simp only [Bool.not_false, Bool.and_true, hr]

/-- A command whose work goes on once it has started (R418). -/
theorem exec_later {s t : State} {x : Session} {h : Hdr} {cmd : HostCmd} {units : Nat} (w : Starts s x h cmd) (hw : cmd ≠ .warmReset)
    (h0 : longClass (classOf (opcodeOf cmd)) = true → ∀ q, runCommand (x.heard h s.now) h cmd (s.heard x h cmd) = .done q → q.status = .ok)
    (hr : runCommand (x.heard h s.now) h cmd (s.begun x h cmd) = .later t units) :
    s.receive h cmd = afterStart h cmd { t with ep := { t.ep with running := t.ep.running ++ [t.runCmdOf (x.heard h s.now) h cmd units] } } := by
  rw [receive_of_starts w]
  obtain ⟨-, -, -, -, -, -, -, -, -, -, hp, -, ho, hrec, hctx, hm, hf⟩ := w
  unfold State.start
  have a1 : ¬ ((s.heard x h cmd).mgmt.oos = true ∧ 3 ≤ classOf (opcodeOf cmd) ∧ classOf (opcodeOf cmd) ≤ 6) := fun k => ho k.1 k.2
  have a2 : ¬ ((s.heard x h cmd).pins.recovery = true ∧ (!recoveryCmd (opcodeOf cmd)) = true) := by
    rintro ⟨k1, k2⟩
    simp [hrec k1] at k2
  have a5 : ¬ (classOf (opcodeOf cmd) = 15 ∧ ((s.heard x h cmd).authOf h.session.toNat).isNone = true) := by
    rintro ⟨k1, k2⟩
    have k3 : ((s.heard x h cmd).authOf h.session.toNat) = s.authOf h.session.toNat := rfl
    rw [k3] at k2
    unfold permitted at hp
    simp only [Bool.and_eq_true, Bool.or_eq_true, bne_iff_ne, ne_eq] at hp
    rcases hp.2 with k | k
    · exact k k1
    · rw [Option.isNone_iff_eq_none] at k2
      rw [k2] at k
      exact absurd k (by decide)
  have a3 : ¬ (3 < h.context.toNat ∨ (!maskOk (s.heard x h cmd) h cmd) = true) := by
    rintro (k | k)
    · omega
    · have : maskOk (s.heard x h cmd) h cmd = maskOk s h cmd := rfl
      simp [this, hm] at k
  have a4 : ¬ (classOf (opcodeOf cmd) ≠ 11 ∧ namesBasins cmd = true ∧
      ((maskBasins h.mask).any fun b => ((s.heard x h cmd).basin b).st.state == .fenced) = true) := by
    rintro ⟨k1, k2, k3⟩
    rcases hf with hf | hf | hf
    · exact k1 hf
    · simp [hf] at k2
    · have : ((maskBasins h.mask).any fun b => ((s.heard x h cmd).basin b).st.state == .fenced) =
        ((maskBasins h.mask).any fun b => (s.basin b).st.state == .fenced) := rfl
      simp [this, hf] at k3
  simp only [a1, a2, a5, a3, a4, if_false]
  have eb : s.begun x h cmd =
    if longClass (classOf (opcodeOf cmd)) then (s.heard x h cmd).acceptedReply h.session.toNat h cmd else s.heard x h cmd := rfl
  rw [eb] at hr
  cases hg : runCommand (x.heard h s.now) h cmd (s.heard x h cmd) with
  | done q =>
    cases hl : longClass (classOf (opcodeOf cmd)) with
    | true => simp only [hl, if_true] at hr; simp only [h0 hl q hg, Bool.not_false, Bool.and_true, beq_self_eq_true, if_true, hr, hw, if_false]
    | false => simp only [hl, Bool.false_eq_true, if_false] at hr; simp only [Bool.false_and, Bool.false_eq_true, if_false, hr, hw]
  | later a b => simp only [Bool.not_false, Bool.and_true, hr, hw, if_false]

/-- The common case of `exec_done`: the command takes effect, its reply stands in the cache, and beyond its effect only the endpoint
changes. -/
theorem exec_done_ok {s : State} {x y : Session} {h : Hdr} {cmd : HostCmd} {r : Res} {e : CacheEntry} (w : Starts s x h cmd)
    (h0 : longClass (classOf (opcodeOf cmd)) = true → ∀ q, runCommand (x.heard h s.now) h cmd (s.heard x h cmd) = .done q → q.status = .ok)
    (hr : runCommand (x.heard h s.now) h cmd (s.begun x h cmd) = .done r) (hok : r.status = .ok)
    (hc : ∀ f, cmd ≠ .closeSession f) (hk : ∀ c, cmd ≠ .rotateKey c)
    (hy : r.st.session h.session.toNat = some y) (he : e ∈ y.cache) (hs : e.seq = h.seq.toNat)
    (hb : readsOnly cmd = true → r.body.length ≤ paramCap h.carriage - 32) :
    EndpointOnly r.st (s.receive h cmd) ∧ Replied (s.receive h cmd) h .ok r.committed r.touched r.body := by
  have h13 : classOf (opcodeOf cmd) ≠ 13 := w.2.2.1
  rw [exec_done w h0 hr]
  have a : (r.st.answer (x.heard h s.now) h cmd r.status r.committed r.touched r.body).afterReply h cmd r.status =
      r.st.finalReply h.session.toNat x.scope h cmd .ok r.committed r.touched r.body := by
    unfold State.afterReply State.answer
    simp only [hok, h13, if_false, ne_eq, not_true]
    cases cmd <;> rfl
  rw [a]
  exact ⟨State.finalReply_endpoint .., State.finalReply_replied hy he hs hb⟩

end Sys2Proof.Machine
end

