-- ==== Sys2Proof/WellFormed.lean ====
section
/-! DEFINITION. Which terms of `Instr` a packet, a schedule word, a flit or a report of the hardware can spell: lists have the lengths that
the spec's layouts give, and numbers lie within their fields. A meaning is total on every term; statements that speak of what the
hardware can be told name `Instr.wellFormed`. -/

namespace Sys2Proof

/-- Between two bounds. -/
def within (lo n hi : Nat) : Bool := decide (lo ≤ n) && decide (n ≤ hi)

/-- OPEN_SESSION and ROTATE_KEY carry a ciphertext of 384 bytes (R409). -/
def cipherWf (cipher : List Byte) : Bool := cipher.length == 384

/-- A signature has 384 bytes; OPEN_SESSION may carry none (R409). -/
def sigWf (sig : List Byte) : Bool := sig.isEmpty || sig.length == 384

/-- CREATE_CONTEXT carries an admission key of 32 bytes (Table 12.7). -/
def CreateCtxP.wf (p : CreateCtxP) : Bool := p.key.length == 32

/-- SUBMIT carries at most 2,048 tokens (Table 12.9). -/
def SubmitP.wf (p : SubmitP) : Bool := within 1 p.tokens.length 2048

/-- APPEND carries at most 2,048 tokens (Table 12.8). -/
def AppendP.wf (p : AppendP) : Bool := within 1 p.tokens.length 2048

/-- A locator names a slice ordinal of 10 bits, a tile of its basin and an aligned place (Table 8.2). -/
def Locator.wf : Locator → Bool
  | .opbuf o .. | .sram o .. | .lpddr o _ | .flash o .. | .sluice o _ | .mgmt o _ => decide (o < 1024)
  | .zero | .reserved _ => true

/-- Both ends of a barge are locators. -/
def BargeHdr.wf (h : BargeHdr) : Bool := h.src.wf && h.dst.wf

/-- A grant carries at most 2,048 bytes of its barge and lies within its count (R366, Table 10.4). -/
def GrantP.wf (g : GrantP) : Bool := g.barge.wf && decide (g.grant < g.grants) && decide (g.data.length ≤ 2048) && decide (g.queueFlits.length ≤ 32) &&
  g.queueFlits.all fun f => decide (f.payload.length = 16)

/-- A phrase starts with SP6 to SP15 as Foloon fixed them (Table 4.3). -/
def PhraseP.wf (p : PhraseP) : Bool := decide (p.params.length ≤ 10)

/-- A weight tile meets at most 32 row blocks, each with its zero map (R61). -/
def zmapsWf (l : List ZMap) : Bool := decide (l.length ≤ 32)

/-- LOCK names a slot, or none, for at most 1,024 basins (R136, R383). -/
def slotsWf (l : List (Option (Fin 4))) : Bool := decide (l.length ≤ 1024)

/-- A routing pass has one logit for each expert, the same number in every row (R182). -/
def routeToksWf (l : List RouteTok) : Bool :=
  match l with
  | [] => true
  | t :: ts => ts.all fun u => u.logits.length == t.logits.length

/-- As many records as the header says (Table 5.3). -/
def recordsWf (h : A2AHdr) (n : Nat) : Bool := h.records.toNat == n

/-- At most 8 draft tokens, with one target distribution more (R358, Table 9.1). -/
def StepTokens.wf (t : StepTokens) : Bool := decide (t.entry < 4096) && decide (t.drafts.length ≤ 8) && decide (t.target.length ≤ 9)

/-- A temperature for each basin (R590). -/
def sensorsWf (l : List Int) : Bool := l.length == 8

/-- Start-up trains links, channels and tables within their numbers: the milliseconds fit STARTUP_STAT (Table 18.7). -/
def StartIn.wf (i : StartIn) : Bool := decide (i.lpddrFailed.length ≤ 128) && decide (i.towpathUp.length ≤ 6) && decide (i.switchUp.length ≤ 84)

/-- A Rinzan command as a packet can carry it. -/
def Instr.commandWf : Instr → Bool
  | .openSession _ c g => cipherWf c && sigWf g
  | .rotateKey _ c => cipherWf c
  | .writeState _ _ vs => within 1 vs.length 2048
  | .storeShard _ _ _ _ _ d => within 1 d.length 8192
  | .fwStage _ _ _ _ d => within 1 d.length 8192
  | .createContext _ p => p.wf
  | .selectCut _ l => l.length == 8
  | .submit _ p => p.wf
  | .append _ p => p.wf
  | .setRoutes _ t _ => t.length == 128
  | .setSlice _ _ l => within 1 l.length 1024
  | .setRampPlan _ _ l => within 1 l.length 64
  | .attest _ n => n.length == 32
  | _ => true

/-- An event or a schedule word as the hardware can see it. -/
def Instr.eventWf : Instr → Bool
  | .rinzanPacket c _ _ l => match c with | .ethernet => decide (l.length ≤ 9146) | .i3c => decide (l.length ≤ 2048)
  | .i3cPrivateWrite l => decide (l.length ≤ 2048)
  | .operatorKey _ _ m => m.length == 384
  | .auth k => match k with | .challenge => true | .response g => g.length == 384
  | .shape _ p _ step rows seqs _ _ => decide (p.val < 16) && decide (step < 2 ^ 32) && decide (rows < 2 ^ 16) && decide (seqs < 2 ^ 16)
  | .phraseStart _ _ p => p.wf
  | .muLoad _ _ l => zmapsWf l
  | .lock _ _ _ l _ => slotsWf l
  | .tokenHandoff _ _ _ l => l.all StepTokens.wf
  | .routingPass _ _ _ _ l => routeToksWf l
  | .dispatch _ _ h _ l => recordsWf h l.length
  | .combine _ _ h _ l => recordsWf h l.length
  | .towPost _ _ _ l => l.all BargeHdr.wf
  | .bargeArrival _ h _ => h.wf
  | .chunkReload _ _ _ d _ _ => d.length == 65536
  | .grantArrival g => g.wf
  | .gack _ _ a b => decide (a ≤ b)
  | .thermalSample l _ => sensorsWf l
  | .sysRstRise i | .startUp i | .railRetry i | .deviceWarmReset i _ _ | .dualWatchdogMiss i _ _ => i.wf
  | _ => true

/-- A term that the hardware can be told. -/
def Instr.wellFormed (i : Instr) : Bool := i.commandWf && i.eventWf

end Sys2Proof
end

