-- ==== Sys2Proof/Tests/Slice0.lean ====
section
/-! SUPPORT. The model's own tests: an ill-formed term for each check of WellFormed, states that meet the hypotheses of the statements,
and what a row leaves there, with the value that the spec gives. -/

set_option Elab.async false

namespace Sys2Proof.Tests

open Sys2Proof.Machine

/-! ### Small states -/

/-- The state after a row, where it answers one. -/
def after (i : Instr) (s : State) : State := match exec i s with | .next t => t | _ => s

/-- An OPERATOR session. -/
def op : Session where
  role := .operator
  key := List.replicate 32 1#8
  ctx := 0
  basins := 0xFF
  rx := 4
  tx := 1
  rxCount := 1
  txCount := 0
  cache := []
  target := none
  noticeSeq := 0
  lastTick := 0
  carriage := .i3c
  oldKey := none
  opSlot := some 0
  peer := ⟨0, 0⟩

/-- A TENANT session of context 0 in basin 0. -/
def ten : Session := { op with role := .tenant, basins := 1 }

/-- The header of a command of session 1 for basin 0. -/
def hdr : Hdr where
  session := 1
  context := 0
  mask := 1
  seq := 9
  counter := 5
  timeout := 0
  notBefore := 0
  carriage := .i3c
  priority := 3
  peer := ⟨0, 0⟩

/-- A device in service at tick 1,000,000 with an OPERATOR session 1 and a TENANT session 2. -/
def up : State := { State.reset with
  pins := { State.reset.pins with step := 12, pgRun := true, lpddrReset := false }
  time := { State.reset.time with now := 1000000, source := 1, locked := true, hops := 0 }
  eth := { State.reset.eth with st := 2 }
  sec := { State.reset.sec with opProg := 1 }
  power := { State.reset.power with boundary := 10, heartbeat := 1000000, duty := 256 }
  ep := { State.reset.ep with sessions := [(1, some op), (2, some ten)] } }

/-- Basin 0 in a state. -/
def inState (st : BState) (s : State) : State := s.modBasin 0 fun x => { x with st := { x.st with state := st } }

/-- Context 0 of basin 0 as CREATE_CONTEXT could leave it. -/
def ctx0 : Ctx := { Ctx.fresh with exist := true, slots := 1, pages := 80, key := List.replicate 32 2#8 }

/-- Basin 0 serving, with context 0. -/
def serving : State := (inState .serving up).modBasin 0 fun x => { x with
  ctxs := [(0, ctx0)], sram := [(0, ⟨1, 8, 0⟩)], brg := [(0, ⟨0, 16⟩)], man := [(0, ⟨128, 0⟩)] }

/-- The header of a command that names no basins. -/
def dev : Hdr := { hdr with mask := 0 }

/-- What the reply cache holds for a header: status, extents and parameters. -/
def reply (t : State) (h : Hdr) : Option (Status × Nat × Nat × List Byte) :=
  (t.session h.session.toNat).bind fun x => (x.cache.find? fun e => e.seq == h.seq.toNat).bind fun e =>
    e.reply.map fun p => (p.status, p.committed, p.touched, p.body)

/-- `Starts` is decidable. -/
def startsDec (s : State) (x : Session) (h : Hdr) (cmd : HostCmd) : Decidable (Starts s x h cmd) := by
  unfold Starts; infer_instance

theorem starts_of {s : State} {x : Session} {h : Hdr} {cmd : HostCmd}
    (e : @decide (Starts s x h cmd) (startsDec s x h cmd) = true) : Starts s x h cmd := @of_decide_eq_true _ (_) e
/-! ### Commands of a session -/

theorem test_front_command : step { up with pending := [.holdover, .tclkLoss] } = exec .holdover { up with pending := [.tclkLoss] } := rfl

theorem test_empty_queue_ticks : (match step up with | .next t => t.time.now | _ => 0) = 1000001 := by decide +kernel

/-- A plaintext of a TENANT session with an empty scope. -/
def plain : KeyPlain :=
  { key := List.replicate 32 7#8, role := 1, context := 0, basins := 0, reserved := 0, notAfter := 1000000, ticket := 0 }

/-- An identity key whose private exponent is 1, so that a ciphertext is its own OAEP block. -/
def keyed : State := { up with sec := { up.sec with identity := (2 ^ 3064, 1) } }

/-- `plain` in the OAEP encoding of RFC 8017, the seed 32 bytes of 5; computed with another SHA-256. -/
def block1 : List Byte := natBe 384
  0x005eaf8b0c3b84ba536179884e548a41085ef4fd8b3f31571524f420f9db43f8efab9e13a2ae994d67908f062bb6ea19f5e41c3271042611f95699b610d8950ed4e5261f622cf82c7d6b8fb8efb2ca286f055e0c58761422ad1529c3d58be04ddb5a5149bef4ad63cb89658c6b9615ac6b5e131cc3bb28ee5ffeafdbe78d2d08d04654de1a3459fe1ea90808928f4f2fee59e1d005e1c5f0ea1ab433df19891dd290009c7dd1681cba2443b22d63e48955e5471fbdf47ee251d4a9b2311f525649601aad63bb46ec0bfeb67e5f3ebee147e6f17694131c05a8b5d78fea6457de2f03893c3a490dc7de2ceee256a949751de5eddc69510695af1755266325a2fbd816b5abecee6b4cfd88a9b950aa19a72ebc71e23ba929447e06f0c1e2ac7f4dcb26d589712de3f5e5d88938a42b2babb9a8e2bed388cd55cbf42fbd023b0f6786fa96da3106b1356dfa20942b8417e05c559c9594aa808098b0c8c02ac3f26dfb817ca2bdb0aef6e29fa4610af6408d4c709abf52c2ce653b05402ce5ae3a88

theorem test_unwrap : keyed.unwrap block1 = some plain := by decide +kernel

theorem test_open_session : keyed.openStatus { dev with session := 0, mask := 0 } block1 [] plain = .ok ∧
    keyed.reaches .i3c 0x0101 = true ∧ keyed.sessionsFull .tenant 0 0 = false ∧ keyed.ticketOk plain = true ∧
    keyed.unclaimedDrops (.openSession block1 []) = false := by decide +kernel

theorem test_close_session : Starts up op dev (.closeSession 1) ∧ (after (.closeSession dev 1) up).session 1 = none := by
  unfold Starts; decide +kernel

def rotated : KeyPlain := { plain with role := 0, basins := 0xFF }

/-- `rotated` in the same encoding. -/
def block2 : List Byte := natBe 384
  0x0015bba7352a885b357e1e6f0fb0cab4567c63c62bfebec4c4097c5e8aca1f312bab9e13a2ae994d67908f062bb6ea19f5e41c3271042611f95699b610d8950ed4e5261f622cf82c7d6b8fb8efb2ca286f055e0c58761422ad1529c3d58be04ddb5a5149bef4ad63cb89658c6b9615ac6b5e131cc3bb28ee5ffeafdbe78d2d08d04654de1a3459fe1ea90808928f4f2fee59e1d005e1c5f0ea1ab433df19891dd290009c7dd1681cba2443b22d63e48955e5471fbdf47ee251d4a9b2311f525649601aad63bb46ec0bfeb67e5f3ebee147e6f17694131c05a8b5d78fea6457de2f03893c3a490dc7de2ceee256a949751de5eddc69510695af1755266325a2fbd816b5abecee6b4cfd88a9b950aa19a72ebc71e23ba929447e06f0c1e2ac7f4dcb26d589712de3f5e5d88938a42b2babb9a8e2bed388cd55cbf42fbd023b0f6786fa96da3106b1356dfa20942b8417e05c559c9594aa808098b0c8c02ac3f26dfb817ca2bcb051f6e29fa4610af6408d4c709abf52c2ce653b05402ce5ae3a88

theorem test_unwrap_rotated : keyed.unwrap block2 = some rotated := by decide +kernel

theorem test_rotate_key : Starts keyed op dev (.rotateKey block2) ∧
    ((after (.rotateKey dev block2) keyed).session 1).map (·.key) = some rotated.key := by unfold Starts; decide +kernel

theorem test_notice_target : Starts up op dev (.setNoticeTarget 2 63 0 0) ∧
    ((after (.setNoticeTarget dev 2 63 0 0) up).session 1).map (·.target) = some (some ⟨2, 63, 0, 0⟩) := by
  unfold Starts; decide +kernel

theorem test_read_state : Starts up op dev (.readState 0x01000050 1) ∧
    reply (after (.readState dev 0x01000050 1) up) dev = some (.ok, 1, 1, natBe 4 0x2120) := by unfold Starts; decide +kernel

theorem test_write_state : Starts up op dev (.writeState 0x01000040 [0x00050000]) ∧
    ((after (.writeState dev 0x01000040 [0x00050000]) up).basin 0).sliceId = 5 := by unfold Starts; decide +kernel

/-! ### Model store and residency -/

def beginP : StoreBeginP := { model := 3, edition := 1, mode := 0, shards := 1, intakeMs := 0, bytes := 1, digest := 0 }

def formatted : State := { up with flash := { up.flash with capacity := 8, opPct := 14 } }

theorem test_store_begin : Starts formatted op dev (.storeBegin beginP) ∧ formatted.object 3 1 = none ∧
    formatted.usedExtents.length + 1 ≤ formatted.flash.capacity.toNat ∧
    ((after (.storeBegin dev beginP) formatted).object 3 1).map (·.intakeMs) = some 600000 := by unfold Starts; decide +kernel

/-- A shard of no chunks: one lane, kind WEIGHT, header and nothing else. -/
def image : List Byte := natLe 4 0x44524853 ++ natLe 4 3 ++ natLe 2 1 ++ natLe 1 0 ++ natLe 1 0 ++ natLe 4 0 ++ natLe 4 1 ++ natLe 2 0 ++
  List.replicate 106 0#8

def open1 : State := after (.storeBegin { dev with counter := 4, seq := 8 } beginP) { formatted with
  ep := { formatted.ep with sessions := [(1, some { op with rx := 3 })] } }

def sess1 : Session := (open1.session 1).getD op

theorem test_store_shard : Starts open1 sess1 dev (.storeShard 3 1 0 0 image) ∧
    image.length = imageBytes image ∧ (open1.object 3 1).any (fun o => headerOk o 0 image && intakeOk o image) = true ∧
    ((after (.storeShard dev 3 1 0 0 image) open1).object 3 1).map (fun o => (o.shard 0).acked) = some true := by
  unfold Starts; decide +kernel

def stored : State := after (.storeShard { dev with counter := 5, seq := 9 } 3 1 0 0 image) open1

def dev2 : Hdr := { dev with counter := 7, seq := 11 }

theorem test_store_commit : Starts stored ((stored.session 1).getD op) dev2 (.storeCommit 3 1) ∧
    (stored.object 3 1).any (fun o => objectDigestOk o) = true ∧
    ((after (.storeCommit dev2 3 1) stored).object 3 1).map (·.committed) = some true := by unfold Starts; decide +kernel

def cold : State := after (.storeCommit { dev with counter := 6, seq := 10 } 3 1) stored
def coldS : Session := (cold.session 1).getD op

theorem test_store_delete : Starts cold coldS dev2 (.storeDelete 3 1) ∧
    (after (.storeDelete dev2 3 1) cold).object 3 1 = none := by unfold Starts; decide +kernel

theorem test_store_list : Starts cold coldS dev2 (.storeList 0 1) ∧
    (reply (after (.storeList dev2 0 1) cold) dev2).map (fun r => (r.1, r.2.1)) = some (.ok, 1) := by unfold Starts; decide +kernel

theorem test_store_verify : Starts cold coldS dev2 (.storeVerify 3 1) ∧
    reply (after (.storeVerify dev2 3 1) cold) dev2 = some (.ok, 1, 1, natBe 4 1 ++ [0#8]) := by unfold Starts; decide +kernel

def hdr2 : Hdr := { hdr with counter := 7, seq := 11 }

/-- Basin 0 serving with context 0 and the COLD object. -/
def cold0 : State := (inState .serving cold).modBasin 0 fun x => { x with
  ctxs := [(0, ctx0)], sram := [(0, ⟨1, 8, 0⟩)], brg := [(0, ⟨0, 16⟩)], man := [(0, ⟨128, 0⟩)] }

theorem test_make_warm : Starts cold0 coldS hdr2 (.makeWarm 3 1) ∧ (cold0.object 3 1).map (·.lanes) = some 1 ∧
    cold0.residency 0 0 3 1 = .cold ∧ (after (.makeWarm hdr2 3 1) cold0).residency 0 0 3 1 = .loading := by unfold Starts; decide +kernel

theorem test_make_hot : Starts cold0 coldS hdr2 (.makeHot 3 1 0) ∧
    (after (.makeHot hdr2 3 1 0) cold0).residency 0 0 3 1 = .loading := by unfold Starts; decide +kernel

/-- The object WARM in context 0. -/
def warm0 : State := after (.loadComplete 0 0 3 1 true) (after (.makeWarm hdr2 3 1) cold0)

theorem test_load_complete : warm0.residency 0 0 3 1 = .warm ∧
    reply warm0 hdr2 = some (.ok, 1, 1, 1#8 :: List.replicate 7 0xFF#8) := by decide +kernel

def hdr3 : Hdr := { hdr with counter := 8, seq := 12 }

theorem test_evict : Starts warm0 ((warm0.session 1).getD op) hdr3 (.evict 3 1) ∧
    (after (.evict hdr3 3 1) warm0).residency 0 0 3 1 = .cold := by unfold Starts; decide +kernel

theorem test_residency_query : Starts warm0 ((warm0.session 1).getD op) hdr3 (.residencyQuery 3 1) ∧
    (reply (after (.residencyQuery hdr3 3 1) warm0) hdr3).map (·.1) = some .ok := by unfold Starts; decide +kernel

/-! ### Contexts, cuts and requests -/

def createP : CreateCtxP :=
  { slots := 1, store := 1, share := 8, ways := 1, barges := 1, pages := 64, key := List.replicate 32 2#8 }

def ready : State := inState .ready up

theorem test_create_context : Starts ready op hdr (.createContext createP) ∧ createOk createP = true ∧ ready.runCmd 1 9 = none ∧
    (∀ b ∈ maskBasins hdr.mask, ((ready.basin b).ctx 0).exist = false ∧
      ((ready.basin b).st.state = .ready ∨ (ready.basin b).st.state = .serving)) ∧
    (ready.defineAll 0 createP (maskBasins hdr.mask)).isSome = true ∧
    (((after (.createContext hdr createP) ready).basin 0).ctx 0).pages = 64 := by unfold Starts; decide +kernel

theorem test_destroy_context : Starts serving op hdr .destroyContext ∧
    (∀ b ∈ maskBasins hdr.mask, ((serving.basin b).ctx 0).exist = true) ∧
    (((after (.destroyContext hdr) serving).basin 0).ctx 0).exist = false := by unfold Starts; decide +kernel

/-- A CUT shard of cut 7 for lane 0 with a payload of no bytes. -/
def cutShard : List Byte := natLe 4 0x44524853 ++ natLe 4 3 ++ natLe 2 1 ++ natLe 1 1 ++ List.replicate 13 0#8 ++ natLe 4 7 ++
  List.replicate 100 0#8

def resHot : ResEntry where
  model := 3
  edition := 1
  state := .hot
  warm := false
  prev := .cold
  prevWarm := false
  target := .hot
  chunks := 0
  pages := []
  lane := 0
  replace := false
  askedAt := 0
  armed := false
  off := 0
  cutOff := 0

def cutObj : StoreObj where
  model := 3
  edition := 1
  mode := 0
  count := 1
  intakeMs := 0
  opened := 0
  bytes := 128
  digest := 0
  committed := true
  damagedCommit := false
  extents := [0]
  shards := [(0, { Shard.fresh with acked := true, image := cutShard })]
  upstream := 0xFF
  downstream := 0xFF
  source := 0
  timedOut := false

/-- Basin 0 in slice 5 alone, with a HOT object whose lane holds cut 7, and slots 0 and 1 of context 0. -/
def hot : State := { (serving.modBasin 0 fun x => { x with
    sliceId := 5
    slots := [(0, { Slot.fresh with assigned := true }), (1, { Slot.fresh with assigned := true, valid := true, model := 3, edition := 1, cutId := 7 })]
    shares := [{ parseShare 3 1 [] with cutId := 7, maxLen := 64, maxDraft := 1 }]
    ctxs := [(0, { ctx0 with res := [resHot] })] }) with
  store := { objects := [cutObj], forward := [] }
  fab := { up.fab with valid := true, members := [(5, [(0, 0)])] } }

theorem test_load_cut : Starts hot op hdr (.loadCut 3 1 0 7) ∧
    (∀ b ∈ maskBasins hdr.mask, ((hot.basin b).ctx 0).exist = true ∧ hot.residency b 0 3 1 = .hot ∧ ((hot.basin b).slot 0).assigned = true ∧
      ((hot.basin b).slot 0).ctx.toNat = 0 ∧ (hot.basin b).sliceId ≠ 0#16 ∧ (hot.cutPayload b 0 3 1 7).isSome = true ∧
      hot.slotBusy b 0 = false) ∧
    ((after (.loadCut hdr 3 1 0 7) hot).basin 0).slot 0 =
      { Slot.fresh with assigned := true, filling := true, model := 3, edition := 1, cutId := 7 } := by unfold Starts; decide +kernel

def select1 : List Byte := [1, 0xFF, 0xFF, 0xFF, 0xFF, 0xFF, 0xFF, 0xFF]

theorem test_select_cut : Starts hot op hdr (.selectCut select1) ∧
    (∀ b < 8, select1[b]? ≠ some 0xFF#8 → b ∈ maskBasins hdr.mask) ∧
    ((hot.basin 0).slot 1).valid = true ∧ ((hot.basin 0).slot 1).assigned = true ∧ ((hot.basin 0).slot 1).ctx.toNat = 0 ∧
    ((hot.basin 0).shareOf 1).any (fun g => hot.buffersFit 0 0 g && hot.requestsFit 0 0 g) = true ∧
    (hot.ordinal 0).isSome = true ∧ hot.oneCut 5 (fun a => match select1[a]? with
      | some v => if v = 0xFF#8 then none else some v.toNat
      | none => none) = true ∧
    (after (.selectCut hdr select1) hot).selects.map (fun q => (q.slice, q.bytes)) = [(5, select1)] := by unfold Starts; decide +kernel

def policy : BalanceP :=
  { evalTicks := 10000, holdTicks := 0, minPrefill := 1, maxPrefill := 1, queueHigh := 0, queueLow := 0,
    firstLateHigh := 0, nextLateHigh := 0, mixedPrefillRows := 0 }

/-- Basin 0 with cut 7 of two units active in slot 1. -/
def active : State := hot.modBasin 0 fun x => { x with
  shares := x.shares.map fun g => { g with units := 2, kind := 1 }
  cut := { x.cut with hasSlot := true, activeSlot := 1, lockState := .running } }

theorem test_set_balance : Starts active op hdr (.setBalance policy) ∧
    (∀ b ∈ maskBasins hdr.mask, (active.basin b).sliceId.toNat = 5) ∧
    ((((active.localMembers 5).filterMap fun b => (active.basin b).activeShare).head?).map (·.units)).getD 0 = 2 ∧
    active.keeperOrdinal 0 = some 0 ∧ active.localOfOrdinal 5 0 = some 0 ∧
    (after (.setBalance hdr policy) active).man.balance.map (fun b => (b.sliceId, b.pending)) = [(5, some policy)] := by
  unfold Starts; decide +kernel

/-- The same slice with its keeper on another device. -/
def elsewhere : State := { active.modBasin 0 (fun x => { x with genTable := [(0, 1)] }) with
  fab := { active.fab with members := [(5, [(1, 0), (0, 0)])] } }

theorem test_set_balance_elsewhere : Starts elsewhere op hdr (.setBalance policy) ∧ elsewhere.keeperOrdinal 0 = some 0 ∧
    elsewhere.localOfOrdinal 5 0 = none ∧
    (after (.setBalance hdr policy) elsewhere).msgs.map (fun m => (m.dest, m.msg)) = [(.member 5 0, .balance policy)] := by
  unfold Starts; decide +kernel

def submitP : SubmitP :=
  { requestId := 77, promptLen := 2, genLimit := 4, firstBudget := 0, nextBudget := 0, holdTicks := 0, stopToken := 0xFFFFFFFF,
    priority := 1, latePolicy := 0, draftReq := 0, flags := 0, temperature := 0, topP := 0x3F800000, topK := 0, tokens := [10] }

theorem test_submit : Starts serving op hdr (.submit submitP) ∧ maskBasins hdr.mask = [0] ∧ submitParamsOk submitP = true ∧
    serving.power.inputLow = false ∧ (serving.basin 0).lenOk 0 6 0 = true ∧ (serving.basin 0).draftOk 0 6 0 = true ∧ serving.takeEntry 0 0 = some 0 ∧
    logPagesFor 6 ≤ (((serving.releaseEntry 0).basin 0).ctx 0).pagesFree ∧
    ((after (.submit hdr submitP) serving).entry 0).st = .queued ∧
    ((after (.submit hdr submitP) serving).entry 0).topP = 0x3F800000 := by unfold Starts; decide +kernel

/-- Entry 0 a request of session 1 with one token of its prompt of two. -/
def queued : State := serving.setEntry 0 { Entry.fresh with
  st := .queued, session := 1, requestId := 77, promptLen := 2, genLimit := 4, log := [10], logPages := 1 }

theorem test_append : Starts queued op dev (.append ⟨0, 77, 0, 0, [11]⟩) ∧ queued.namedEntry dev 0 77 = some (queued.entry 0) ∧
    (queued.basin 0).lenOk 0 6 0 = true ∧
    ((after (.append dev ⟨0, 77, 0, 0, [11]⟩) queued).entry 0).log = [10, 11] := by unfold Starts; decide +kernel

/-- Entry 0 on hold after a turn of one token. -/
def onHold : State := serving.setEntry 0 { Entry.fresh with
  st := .paused, pause := .hold, hold := true, session := 1, requestId := 77, promptLen := 2, genLimit := 1, genLen := 1, log := [10, 11, 12], logPages := 1 }

theorem test_append_turn : Starts onHold op dev (.append ⟨0, 77, 5, 2, [13, 14]⟩) ∧
    onHold.namedEntry dev 0 77 = some (onHold.entry 0) ∧ (onHold.entry 0).onHold = true ∧
    (onHold.basin 0).lenOk 0 10 0 = true ∧ logPagesFor 10 ≤ ((onHold.basin 0).ctx 0).pagesFree + 1 ∧
    ((after (.append dev ⟨0, 77, 5, 2, [13, 14]⟩) onHold).entry 0).prefilled = 2 ∧
    ((after (.append dev ⟨0, 77, 5, 2, [13, 14]⟩) onHold).entry 0).promptLen = 5 := by unfold Starts; decide +kernel

theorem test_cancel : Starts queued op dev (.cancel 0 77) ∧ queued.namedEntry dev 0 77 = some (queued.entry 0) ∧
    (queued.entry 0).active = true ∧ (queued.entry 0).inStep = false ∧
    ((after (.cancel dev 0 77) queued).entry 0).status = .aborted := by unfold Starts; decide +kernel

/-- Entry 0 decodes, after two tokens of its turn. -/
def decoding (inStep : Bool) : State := serving.setEntry 0 { Entry.fresh with
  st := .decode, session := 1, requestId := 77, promptLen := 2, genLimit := 4, genLen := 2, log := [10, 11, 12, 13], logPages := 1,
  inStep := inStep, turnSeq := 3 }

theorem test_cancel_in_step : Starts (decoding true) op dev (.cancel 0 77) ∧
    (decoding true).namedEntry dev 0 77 = some ((decoding true).entry 0) ∧ ((decoding true).entry 0).active = true ∧
    ((after (.cancel dev 0 77) (decoding true)).entry 0).cancelBy = [(1, 9)] := by unfold Starts; decide +kernel

theorem test_tokens : Starts (decoding false) op dev (.tokens 0 77 1) ∧
    (decoding false).namedEntry dev 0 77 = some ((decoding false).entry 0) ∧ ((decoding false).entry 0).turnTokensOut = [12, 13] ∧
    (decoding false).eth.pfcA.toNat ∉ (decoding false).eth.paused ∧
    ((after (.tokens dev 0 77 1) (decoding false)).ep.sent.filter fun q => q.kind == .delivery).map (fun q => (q.seq, q.body)) =
      [(3, natBe 2 0 ++ natBe 2 4 ++ natBe 8 77 ++ natBe 4 1 ++ natBe 2 1 ++ natBe 2 0 ++ natBe 4 13)] := by unfold Starts; decide +kernel

theorem test_set_draft : Starts (decoding false) op dev (.setDraft 0 8 77) ∧ ((decoding false).entry 0).active = true ∧
    ((decoding false).basin 0).draftOk 0 6 8 = true ∧
    ((after (.setDraft dev 0 8 77) (decoding false)).entry 0).draftLen = 8 := by unfold Starts; decide +kernel

theorem test_manifest_read : Starts queued op dev (.manifestRead 4095 1) ∧ Starts queued ten { dev with session := 2 } (.manifestRead 0 1) ∧
    ((reply (after (.manifestRead dev 0 1) queued) dev).map fun r => (r.1, r.2.2.2.length)) = some (.ok, 128) := by
  refine ⟨starts_of ?_, starts_of ?_, ?_⟩ <;> decide +kernel

theorem test_manifest_stats : Starts serving op hdr .manifestStats ∧
    ((reply (after (.manifestStats hdr) serving) hdr).map (·.1)) = some .ok := by unfold Starts; decide +kernel

/-! ### Fabric, power, recovery, firmware, identity, debug -/

/-- All basins OFFLINE, as at reset; a table in which positions 0 and 127 are present. -/
def table : List (BitVec 32) := 0xC0000000 :: List.replicate 126 0 ++ [0xA0000000]

theorem test_set_routes : Starts up op dev (.setRoutes table 127) ∧ table.length = 128 ∧ table.all routeEntryOk = true ∧
    (∀ b < 8, (up.basin b).st.state ≠ .serving) ∧ (after (.setRoutes dev table 127) up).fab.position = 127 := by
  unfold Starts; decide +kernel

theorem test_link_state : Starts up op dev (.linkState 0xFF 0xFF) ∧ Starts up op dev (.linkState 95 3) ∧
    (after (.linkState dev 95 3) up).live = [(0x020015F0, 3, 1)] := by refine ⟨starts_of ?_, starts_of ?_, ?_⟩ <;> decide +kernel

/-- A device at position 0 of a table that has it. -/
def placed : State := { up with fab := { up.fab with valid := true, devTable := [(0, routeEntry 0xA0000000)] } }

theorem test_set_slice : Starts placed op dev (.setSlice 5 [0, 1]) ∧ placed.memberListOk [0, 1] = true ∧
    (∀ m ∈ [(0#16), 1#16].map memberOf, m.1 = placed.fab.position.toNat → (placed.basin m.2).stopped = true) ∧
    (after (.setSlice dev 5 [0, 1]) placed).membersOf 5 = [(0, 0), (0, 1)] := by unfold Starts; decide +kernel

theorem test_set_chain : Starts open1 sess1 dev (.setChain 3 1 5 0xFF 8) ∧ (open1.object 3 1).any (fun o => !o.committed) = true ∧
    ((after (.setChain dev 3 1 5 0xFF 8) open1).object 3 1).map (·.upstream) = some 5 := by unfold Starts; decide +kernel

def steps2 : List PlanStepP := [⟨1000000, 260, 5⟩, ⟨2000000, 1200, 400⟩]

theorem test_set_ramp_plan : Starts up op dev (.setRampPlan 260 steps2) ∧ risingStarts steps2 = true ∧
    (∀ k ∈ steps2, capSlewOk k.cap.toNat k.slew.toNat = true) ∧
    (after (.setRampPlan dev 1200 steps2) up).power.plan.map (·.start) = [2000000] ∧
    (after (.setRampPlan dev 260 steps2) up).power.target = 26000000 := by unfold Starts; decide +kernel

theorem test_set_cap : Starts up op dev (.setCap 1200 400) ∧ Starts up op dev (.setCap 260 0) ∧
    (after (.setCap dev 260 0) up).power.capNext = some (26000000, 40) := by refine ⟨starts_of ?_, starts_of ?_, ?_⟩ <;> decide +kernel

theorem test_reports : Starts up op dev .powerReport ∧ Starts up ten { dev with session := 2 } .powerReport ∧ Starts up op dev .timeStatus ∧
    Starts up ten { dev with session := 2 } .timeStatus ∧
    (reply (after (.timeStatus dev) up) dev).map (·.2.2.2) = some (natBe 8 1000000 ++ [1, 1, 0, 0, 0, 0, 0, 0]) := by
  refine ⟨starts_of ?_, starts_of ?_, starts_of ?_, starts_of ?_, ?_⟩ <;> decide +kernel

theorem test_bist_policy : Starts up op dev (.bistPolicy 1 1 60) ∧ Starts up op dev (.bistPolicy 0 0 10) ∧
    (after (.bistPolicy dev 1 1 60) up).mgmt.bistNext = some (true, true, 60, 0x0101003C) := by refine ⟨starts_of ?_, starts_of ?_, ?_⟩ <;> decide +kernel

theorem test_bist_report : Starts ready op hdr .bistReport ∧ 544 * (maskBasins hdr.mask).length ≤ paramCap hdr.carriage - 32 ∧
    (reply (after (.bistReport hdr) ready) hdr).map (fun r => (r.1, r.2.1)) = some (.ok, 136) := by unfold Starts; decide +kernel

theorem test_spare_report : Starts ready op hdr .spareReport ∧
    (reply (after (.spareReport hdr) ready) hdr).map (·.2.2.2.length) = some 16 := by unfold Starts; decide +kernel

theorem test_fence : Starts serving op hdr .fence ∧ (∀ b ∈ maskBasins hdr.mask, serving.fenceable b = true ∧
    (serving.basin b).st.state ≠ .offline) ∧ serving.runCmd 1 9 = none ∧ serving.selects = [] ∧
    ((after (.fence hdr) serving).basin 0).st.state = .fenced := by unfold Starts; decide +kernel

theorem test_reset_basin : Starts serving op hdr .resetBasin ∧
    ((after (.resetBasin hdr) serving).basin 0).st.resetDue = true := by unfold Starts; decide +kernel

theorem test_warm_reset : Starts up op dev .warmReset ∧
    (after (.warmReset dev) up).mgmt.warmDue = some 1100000 := by unfold Starts; decide +kernel

/-- The device out of service after its second failover. -/
def out : State := { up with mgmt := { up.mgmt with oos := true, failovers := [1, 2] } }

theorem test_readmit_device : Starts out op dev (.readmit 1) ∧
    ((List.range 8).filter fun b => (out.basin b).st.state == .retired).length < 3 ∧
    (after (.readmit dev 1) out).mgmt.oos = false := by unfold Starts; decide +kernel

theorem test_readmit : Starts (inState .retired up) op hdr (.readmit 0) ∧ Starts (inState .fenced up) op hdr (.readmit 0) ∧
    readmittable ((inState .retired up).basin 0).st = true ∧ readmittable ((inState .fenced up).basin 0).st = true ∧
    ((after (.readmit hdr 0) (inState .retired up)).basin 0).st.state = .ready ∧
    ((after (.readmit hdr 0) (inState .fenced up)).basin 0).st.state = .ready := by refine ⟨starts_of ?_, starts_of ?_, ?_⟩ <;> decide +kernel

/-- A MAKE_WARM of sequence 11 runs. -/
def loading : State := after (.makeWarm hdr2 3 1) cold0

theorem test_completion_query : Starts loading ((loading.session 1).getD op) { dev with counter := 8, seq := 12 } (.completionQuery 1 11) ∧
    Starts warm0 ((warm0.session 1).getD op) { dev with counter := 8, seq := 12 } (.completionQuery 1 11) ∧
    Starts up op dev (.completionQuery 1 11) ∧ (loading.runCmd 1 11).isSome = true ∧
    warm0.runCmd 1 11 = none ∧ (warm0.ep.kept.reverse.find? fun k => k.session == 1 && k.seq == 11).isSome = true ∧
    up.runCmd 1 11 = none ∧
    (reply (after (.completionQuery { dev with counter := 8, seq := 12 } 1 11) loading) { dev with counter := 8, seq := 12 }).map
      (·.2.2.2) = some (natBe 2 0x0401 ++ natBe 1 1 ++ natBe 5 0) := by refine ⟨starts_of ?_, starts_of ?_, starts_of ?_, ?_⟩ <;> decide +kernel

theorem test_fw_stage_piece : Starts up op dev (.fwStage 3 2049 1024 (List.replicate 1024 7#8)) ∧ (up.image 3).st = .none ∧
    ((after (.fwStage dev 3 2049 1024 (List.replicate 1024 7#8)) up).image 3).st = .staging := by
  unfold Starts; decide +kernel

/-- The modulus of a test key, big-endian. -/
def modulus1 : List Byte := natBe 384
  0xdcbe6719a20dcb99766c98630e516422c79a68734593bd9ee895814f92182a58003cffcf67ac53312d6b4edcb52f769e421b3468c519380881709cd4f7b875a81611c7c458b4421a7a9419a6374d89b77a6fbd11bf559756b41056d0f87f2800ea56cc654be44e7ac4b0fe34b8e467cea535092abfeb8760ac34cdd8ab0c07c95f634dcfc759095913f4ae761e541cd66554d934e2620d628e85aa1b7789cc794f32fbeaf75302712c531a476e9e90b94f09afc696d1fee2944a6a7ed4bea481b198d422b4b2153a9597f28781200863d3b1d3d6ed33649af5c3234da30b5b64ccb1f5505c72c9179179c9654cff2c5e7763e813d0abac952f1e4bf7a650ca78a80ada46850f448c7a5b6cef45c70be9c67acfc376fac296e64bd6546a22db5b3c191e5aedd787a380ca38fa76ee7868b46623606086e342832ae74bf210acc828a8587c25b6674666c8cb8c82df041c93cffb4230f5ffbad7cf2b2eaf500f5180b86660e82025a3e83c7608d1032f250fb244f83f50ee7303757fbfc06e25d3

/-- The signature of the image's header and modulus under that key, computed outside the model (RFC 8017, salt of 32 bytes of 3). -/
def imageSig : List Byte := natBe 384
  0xc4fea40ba385b3720684cf0be8202713736e48447ed3b0328942e9dcce2ad3dcf76387c73b5fad8376fac9c41b2ae6a92fab12acfa4cc847a724acc437b60a75fa35b4087f8da080ef50e271ff9114f581775c1b7e57eb65442c81a7dd19d50b19e1c8fe6f0e57599de9cde2238be2dc3360778df90170446c2502c0cb6e74c854120db011204878272e586f9ae5cdc3fa0d26cf4cc57c11308eeff3e752b72fe660d12e6d2288221764b79023734b2b465087695331edf326976748f4059d842e20b224269c024d9e1516957a1b925b613b9960049c8564ce442f0d5b8cbb977294f505e40bf172282d78bd7537c08cfa2876b08ccc2eb412688b38fa986760fce0add7f245d27861020e0fd823bffb2db84ac9b80d4c66ede902a669529f4049e0e8c4f97546343cbdef9461a41c9d7a302ad2bc9d4a2c227591b856bc0b150d84be25938d6cef66fc0bbdaf4a56b15c4c76cc2db0c543f4a1d5018b407f8ae7b3b1ba38192d8465775deb6fa284685afe0ce1793e035a96a5f7a939ef5a74

/-- A flash controller image of security version 1 with a payload of 64 bytes (Table 16.3). -/
def fwImg : List Byte := natLe 4 0x474D4953 ++ [3, 0, 0, 1] ++ natLe 4 5 ++ natLe 4 64 ++ List.replicate 16 0#8 ++
  natBe 32 0xAA725E51A9D8E9A8ABE3CEFA68561D19A4B06C6F1526E46E3A55A23AEF753C73 ++ modulus1 ++ imageSig ++ List.replicate 384 0#8 ++
  List.replicate 64 9#8

/-- Vendor slot 0 holds the hash of that modulus. -/
def vendor : State := { up with sec := { up.sec with vendorHash := [0xC0C992A801E1B96E512DBA55FAD1F4700DF85977CC232C2D54A13234CFFFB40D] } }

theorem test_fw_verdict : vendor.fwVerdict 3 fwImg = .ok := by decide +kernel

theorem test_fw_stage_whole : Starts vendor op dev (.fwStage 3 1280 0 fwImg) ∧ fwImg.length = 1280 ∧ (vendor.image 3).st = .none ∧
    (vendor.image 3).burning = false := by unfold Starts; decide +kernel

/-- Image 1 verified. -/
def verified (i : Nat) : State := inState .serving (up.modImage i fun x => { x with st := .verified })

theorem test_fw_activate : Starts (verified 1) op dev (.fwActivate 1) ∧ Starts (verified 2) op hdr (.fwActivate 2) ∧
    (verified 1).stillValid 1 = true ∧ (verified 2).stillValid 2 = true ∧
    (∀ b ∈ maskBasins hdr.mask, ((verified 2).basin b).st.state ≠ .offline ∧ ((verified 2).basin b).st.state ≠ .retired ∧
      ((verified 2).basin b).image = false) ∧
    ((after (.fwActivate dev 1) (verified 1)).image 1).st = .activating ∧
    ((after (.fwActivate hdr 2) (verified 2)).basin 0).imageArmed = true := by refine ⟨starts_of ?_, starts_of ?_, ?_⟩ <;> decide +kernel

theorem test_fw_status : Starts up op dev .fwStatus ∧
    (reply (after (.fwStatus dev) up) dev).map (·.2.2.2.length) = some 64 := by unfold Starts; decide +kernel

/-- The header of an attestation request of no session. -/
def bare : Hdr := { dev with session := 9, carriage := .ethernet }

theorem test_identity : up.reaches .ethernet 0x0D01 = true ∧ up.reaches .ethernet 0x0D02 = true ∧ up.session 9 = none ∧
    (up.now < up.ep.identTick + 100000000 → up.ep.identRate < 100) ∧ bare.mask = 0 ∧
    permitted up op dev (.attest []) = true ∧ up.cached op 9 = none ∧
    (after (.attest bare (List.replicate 32 3#8)) up).sec.attests = 1 ∧
    ((after (.attest bare (List.replicate 32 3#8)) up).ep.sent.map fun q => (q.sign, q.body.take 32)) =
      [(2, List.replicate 32 3#8)] := by decide +kernel

theorem test_trace_config : Starts up op dev (.traceConfig 0x01000001 0xFFFFFFFF 1) ∧
    (after (.traceConfig dev 0x01000001 0xFFFFFFFF 1) up).trace.armed = true := by unfold Starts; decide +kernel

theorem test_trace_read : Starts up op dev (.traceRead 0x7FFFE0 32) ∧
    reply (after (.traceRead dev 0x7FFFE0 32) up) dev = some (.ok, 32, 32, List.replicate 32 0) := by unfold Starts; decide +kernel

def dump1 : Dump :=
  { cause := .channel, basins := 1, device := false, failover := false, tick := 5, units := [], images := [] }

def dumped : State := { up with dumps := { up.dumps with retention := [dump1], flash := [dump1] } }

theorem test_dump_read : Starts dumped op dev (.dumpRead 0 0 8) ∧ Starts dumped op dev (.dumpRead 1 0 8) ∧
    dumped.dumps.retention.head? = some dump1 ∧
    (reply (after (.dumpRead dev 1 0 8) dumped) dev).map (·.2.2.2.drop 8) = some [0x44, 0x55, 0x4D, 0x50, 1, 4, 1, 0] := by
  refine ⟨starts_of ?_, starts_of ?_, ?_⟩ <;> decide +kernel

theorem test_counters_read : Starts up op dev (.countersRead 0 1087 1) ∧ Starts up op dev (.countersRead 1 95 1) ∧
    reply (after (.countersRead dev 0 1087 1) up) dev = some (.ok, 1, 1, List.replicate 32 0) := by refine ⟨starts_of ?_, starts_of ?_, ?_⟩ <;> decide +kernel

/-- Session 1 authorized for debug. -/
def debugger : State := { up with sec := { up.sec with auths := [(1, some 0)], opStored := [(0, [1])] } }

theorem test_perturb_set : Starts debugger op dev (.perturbSet 9 15 95 16 0) ∧ perturbOk 9 95 16 = true ∧
    (after (.perturbSet dev 9 15 95 16 0) debugger).ptbNext =
      [(15, { Perturb.fresh with active := true, kind := 9, session := 1, target := 95, amount := 16, left := 0xFFFFFFFF })] := by
  unfold Starts; decide +kernel

theorem test_perturb_clear : Starts debugger op dev (.perturbClear 0xFF) ∧ Starts debugger op dev (.perturbClear 15) ∧
    (after (.perturbClear dev 0xFF) debugger).ptbNext.length = 16 := by refine ⟨starts_of ?_, starts_of ?_, ?_⟩ <;> decide +kernel

/-! ### State words, debug port, endpoint -/

theorem test_arith_clear : Starts up op dev (.writeState (BitVec.ofNat 32 (0x06000000 + 1087 * 0x1000 + 0x11C)) [1]) ∧
    (after (.arithClear dev 1087 1) up).live = [(0x0643F11C, 1, 1)] := by unfold Starts; decide +kernel

theorem test_slice_id : Starts up op dev (.writeState (BitVec.ofNat 32 (basinBase 7 + 0x40)) [0x00050003]) ∧
    (up.basin 7).stopped = true ∧ ((after (.sliceIdWrite dev 7 0x00050003) up).basin 7).sliceId = 5 := by unfold Starts; decide +kernel

theorem test_slc_cap : Starts serving op dev (.writeState (BitVec.ofNat 32 (basinBase 0 + 0x100 + 4 * 0)) [4]) ∧
    serving.capOk 0 0 4 = true ∧ ((after (.slcCapWrite dev 0 0 4) serving).basin 0).staged.map (fun w => (w.off, w.value)) = [(0x100, 4)] := by
  unfold Starts; decide +kernel

theorem test_lc_ways : Starts serving op dev (.writeState (BitVec.ofNat 32 (basinBase 0 + 0x210 + 4 * 0)) [3]) ∧
    serving.waysOk 0 0 3 = true ∧ ((after (.lcWaysWrite dev 0 0 3) serving).basin 0).staged.map (fun w => (w.off, w.value)) = [(0x210, 3)] := by
  unfold Starts; decide +kernel

theorem test_man_ctx : Starts serving op dev (.writeState (BitVec.ofNat 32 (basinBase 0 + 0x400 + 4 * 0)) [0x00800F80]) ∧
    State.rangeMeets 0xF80 0x80 (serving.otherRanges 0 0) = false ∧
    (after (.manCtxWrite dev 0 0 0x00800F80) serving).live = [(basinBase 0 + 0x400, 0x00800F80, 1)] := by unfold Starts; decide +kernel

theorem test_dredge_phase : Starts up op dev (.writeState (BitVec.ofNat 32 (basinBase 7 + 0x80)) [198]) ∧
    ((after (.dredgePhaseWrite dev 7 198) up).basin 7).staged.map (fun w => (w.off, w.value)) = [(0x80, 198)] := by unfold Starts; decide +kernel

theorem test_device_words : Starts up op dev (.writeState 0x03000004#32 [1]) ∧ Starts up op dev (.readState 0x00100008#32 1#16) ∧
    Starts up op dev (.writeState 0x0F00F000#32 [1#32]) ∧ Starts up op dev (.writeState 0x0F00F000#32 [2#32]) ∧
    reply (after (.timNowLatch dev) up) dev = some (.ok, 1, 1, natBe 4 1000000) := by
  refine ⟨starts_of ?_, starts_of ?_, starts_of ?_, starts_of ?_, ?_⟩ <;> decide +kernel

/-- A signature under the test key of session 1's challenge of one byte 1 (R562), computed outside the model. -/
def authSig : List Byte := natBe 384
  0xa99a63686066ebf14a66b231e6093a3a5787b625b52b8e808d4b7dc746278e31972dfe513c05bde37aaac00b985ce486dd7944a096f8a2e41f4de06998da783d0b1da3bbc59afc473956ae82b9aae1bdeba08ad96a21fca678e74518b5211b63d820ac27a24b092e1ff3bc80b38dea8621861021d23e1666fa87eb8f04239c9410b2dfc19b09cdb19c30c561b60113a24e9de7d48aa3953f56f0cd3a811380ac793e04c9601d0a3dcf2e4538e992e66a4d65ef19a9ebcc6b59896d27865b48a69e18626e1ff60cbf3db71325ba304822f08a5255e16a67adbc9ef90b9645485568cbb383fa18bf2ee50851492f305959d7f3206efa4efaf56c063fcf2c423b4ed406d29371cfc251431a9aa9ca4719bd4bfc6f3c58db85a5e57cba493fc1744d06fa2625393815dc1accb044350360b6c96d80fa8c3b0881d3647d4cfadea9bebba003ff92260576577d2497ea5038f45c9c569c719f169fbbb353b82be6b785dfc37e515aca166610aca5097d4f7fafc4e3d19c372fdb638189efc0a70e0761

/-- Its last word. -/
def authWord : BitVec 32 := BitVec.ofNat 32 (leNat (authSig.drop 380))

/-- The same for the debug port's challenge of one byte 2. -/
def portSig : List Byte := natBe 384
  0x5d9097f0b2f3f96df92ff780adbd0de0d61d7720197224f5a211bb2fc523cd153f1c90d29dc48b4503795681772cf0298928db496dc87b468f90aba96a27a837f33feee98633d8b9d6cf6cc66c8337126f4c9c69423bfc7ccd004026d3feb58afd8fea92fb9d99204e17c285b600476dc8413f58f70f8fd148d1c27df450e303752a0b42a3dbf9b3096dd2a0323c8873b362133eaa9dcb30516a9cb6a8285a248eaf5a2d5ea542696382ab509d53f533968823d651e1424338a6d5eec553263c9a95fdd9b2793ef1a098285fcefa8f8e4702ebb6341133094dec1f6d36d485936251f936106860d0538ffd2722d775f4951cfc9d84be47c1614f731e9d74d3800c7202a16c02cc06e233faff6088766f69c3869f4dce1fd2062bdb123fc762a7732a31750f72bbc01986bae4e581fc3daa8e6610076d1756141451d9250a2506addc2f39bdde944911c45f2117a187bdaad168e0ff4689a9dc6badb2e9df233a935f8067ac146a7b47bfe475525af1582d09f21ce975200d30a47bae5df8c0a5

theorem test_auth_ctl_live : (after (.authChallenge dev) up).live = [(0x0F00F000, 1, 1)] ∧
    (after (.authRevoke dev) up).live = [(0x0F00F000, 2, 1)] := by decide +kernel

/-- Session 1 and the port hold a challenge, OPERATOR slot 0 the test key and session 1 the first words of a response. -/
def challenged : State := { keyed with sec := { keyed.sec with
  opStored := [(0, modulus1)], challenges := [(1, some ([1], 5)), (0xFFFF, some ([2], 5))]
  resp := (List.range 95).map fun j => (96 + j, BitVec.ofNat 32 (leNat ((authSig.drop (4 * j)).take 4))) } }

theorem test_auth_response : Starts challenged op dev (.writeState 0x0F00F27C#32 [authWord]) ∧
    challenged.signer authSig ([1] ++ natBe 2 1 ++ challenged.identityDigest) = some 0 ∧
    (after (.authResponse dev authWord) challenged).liveTick.authOf 1 = some 0 := by
  refine ⟨starts_of ?_, ?_, ?_⟩ <;> decide +kernel

theorem test_auth_response_wrong : challenged.signer (authSig.take 380 ++ natLe 4 9) ([1] ++ natBe 2 1 ++ challenged.identityDigest) = none ∧
    (after (.authResponse dev 9) challenged).liveTick.sec.challenges = [(0xFFFF, some ([2], 5))] := by decide +kernel

/-- The debug port is authorized. -/
def portOpen : State := { up with sec := { up.sec with opProg := 3, auths := [(0xFFFF, some 0)] } }

theorem test_operator_key : up.sec.opProg ≠ 0#4 ∧ up.authOf 0xFFFF = none ∧ (portOpen.authOf 0xFFFF).isSome = true ∧
    portOpen.sec.opProg &&& ~~~(portOpen.sec.opRev ||| BitVec.ofNat 4 (2 ^ 1)) ≠ 0#4 ∧
    (after (.operatorKey 0 false (List.replicate 384 1#8)) State.reset).sec.opProg = 1 ∧
    (after (.operatorKey 1 true []) portOpen).sec.opRev = 2 := by decide +kernel

theorem test_auth : (after (.auth (.response portSig)) challenged).authOf 0xFFFF = some 0 := by decide +kernel

theorem test_extest : (portOpen.authOf 0xFFFF).isSome = true ∧ (inState .serving portOpen).fenceable 0 = true ∧
    ((after .extest (inState .serving portOpen)).basin 0).st.cause = .operator ∧ (after .extest State.reset).pins.extest = true := by
  decide +kernel

/-- A minute and a tick after the challenges. -/
def later : State := { challenged with time := { challenged.time with now := 6000000006 } }

theorem test_challenge_expiry : (after (.challengeExpiry 1) later).sec.challenges = [(0xFFFF, some ([2], 5))] := by decide +kernel

/-- Image 2 burns its security version. -/
def burning : State := (inState .serving up).modImage 2 fun x => { x with burning := true, security := 4 }

theorem test_fuse_burn : (burning.image 2).burning = true ∧ ((after (.fuseBurnComplete 2) burning).image 2).burned = 4 := by
  decide +kernel

/-- A perturbation whose 1 ms is over. -/
def perturbed : State := debugger.setPerturb 15 { Perturb.fresh with active := true, kind := 9, session := 1, left := 1, since := 900000 }

theorem test_perturb_expiry : (perturbed.perturb 15).since + (perturbed.perturb 15).left.toNat * 100000 ≤ perturbed.now ∧
    (after (.perturbExpiry 15) perturbed).ptb = [] := by decide +kernel

/-- A POWER_REPORT of session 1 without its MAC, in its wire form. -/
def unsealed : List Byte := [0x10, 0, 0x09, 0x03, 0, 1, 0, 0] ++ natBe 4 9 ++ natBe 8 5 ++ natBe 2 0 ++ natBe 2 0 ++ natBe 8 0

def powerPacket : List Byte := unsealed ++ (hmac op.key unsealed).take 16

theorem test_packet : formatOk powerPacket .ethernet = true ∧ macOk op.key powerPacket = true ∧ up.reaches .ethernet 0x0903 = true ∧
    up.unclaimedDrops .powerReport = false ∧ State.keySpent op 0x0903 = false ∧
    parseCmd 0x0903 [] = some .powerReport ∧
    ((after (.rinzanPacket .ethernet 3 ⟨7, 9⟩ powerPacket) up).ep.sent.map fun q => (q.opcode, q.status)) = [(0x0903, .ok)] ∧
    ((after (.rinzanPacket .ethernet 3 ⟨7, 9⟩ powerPacket) up).ep.sent.map (·.peer)) = [⟨7, 9⟩] ∧
    ((after (.i3cPrivateWrite powerPacket) up).ep.i3c.map (·.seq)) = [9] := by decide +kernel

theorem test_bad_format : formatOk (unsealed.take 31) .ethernet = false ∧
    ((after (.rinzanPacket .ethernet 3 ⟨7, 9⟩ (unsealed.take 31)) up).ep.sent.map fun q => (q.auth, q.status)) = [(false, .badFormat)] := by
  decide +kernel

theorem test_neighbour : up.ours6 State.linkLocal = true ∧ up.oursAny State.linkLocal = true ∧ up.eth.st = 2#2 ∧ up.eth.portReset = false ∧
    Tbl.get 0 (up.bufferOf 0).1 up.eth.levels + 9216 ≤ (up.bufferOf 0).2 :=
  ⟨by simp [State.ours6], by rw [State.oursAny, (by simp [State.ours6] : up.ours6 State.linkLocal = true), Bool.true_or], by decide +kernel⟩

theorem test_pfc : (after (.pfcThreshold 3 0x200000) up).eth.xoff = [3] ∧ (after (.pfcPause 1 true) up).eth.paused = [1] := by
  decide +kernel

/-- A reply waits in the I3C queue. -/
def answered : State := after (.powerReport dev) up

theorem test_i3c_read : answered.ep.i3c.length = 1 ∧ answered.pins.alertN = false ∧ (after .i3cPrivateRead answered).pins.alertN = true := by
  decide +kernel

/-- A TIME_STATUS held until tick 2,000,000, once its time has come. -/
def held : State := after (.timeStatus { dev with notBefore := 2000000 }) up

def due : State := { held with time := { held.time with now := 2000000 } }

theorem test_not_before : held.ep.held.map (·.owner.isSome) = [true] ∧ (∀ e ∈ due.ep.held, e.hdr.notBefore.toNat ≤ due.now) ∧
    (due.session 1).isSome = true ∧ (after .notBeforeReached due).ep.held = [] ∧
    (reply (after .notBeforeReached due) dev).map (·.1) = some .ok := by decide +kernel

/-- An OPEN_SESSION held until tick 2,000,000: no session is open for it. -/
def heldOpen : State := after (.openSession { dev with session := 0, notBefore := 2000000 } block1 []) keyed

theorem test_not_before_open : heldOpen.ep.held.map (fun e => (e.owner, e.cmd)) = [(none, .openSession block1 [])] := by decide +kernel

/-- A MAKE_WARM and an image activation long past their deadlines. -/
def overdue : State := { loading with time := { loading.time with now := 400000000000 } }

def slow : State := after (.fwActivate dev 1) (verified 1)

def overdueDevice : State := { slow with time := { slow.time with now := 400000000000 } }

theorem test_command_timeout : (overdue.runCmd 1 11).any (fun r => decide (r.deadline ≤ overdue.now) && decide (classOf (opcodeOf r.cmd) ≠ 6) &&
      decide (0 ∈ maskBasins (r.mask &&& ~~~r.doneMask))) = true ∧ overdue.fenceable 0 = true ∧
    ((after (.commandTimeout 1 11) overdue).basin 0).st.cause = .commandTimeout ∧
    (overdueDevice.runCmd 1 9).any (fun r => decide (r.deadline ≤ overdueDevice.now) && decide (r.mask = 0)) = true ∧
    (reply (after (.commandTimeout 1 9) overdueDevice) dev).map (·.1) = some .timedOut := by decide +kernel

/-- A tenant's wait of 1 ms ends before its command. -/
def tenant3 : Hdr := { hdr2 with session := 2, timeout := 1 }

def tenantLoads : State := after (.makeWarm tenant3 3 1) (cold0.setSession 2 (some ten))

theorem test_short_timeout : (tenantLoads.runCmd 2 11).any (fun r => r.shortDeadline.any fun d => decide (d ≤ overdue.now) && !r.waitOver) = true ∧
    (reply (after (.shortTimeout 2 11) { tenantLoads with time := overdue.time }) tenant3).map (·.1) = some .timedOut ∧
    ((after (.shortTimeout 2 11) { tenantLoads with time := overdue.time }).ep.running.map (·.waitOver)) = [true] := by decide +kernel

/-- An hour after tick 0, and an old key that has had its time. -/
def nextDay : State := { up with
  time := { up.time with now := 400000000000 }
  ep := { up.ep with sessions := [(1, some { op with oldKey := some ⟨[1], 3, .powerReport, 7⟩ }), (2, some ten)] } }

theorem test_session_timers : nextDay.session 2 = some ten ∧ ten.lastTick + 360000000000 ≤ nextDay.now ∧
    (∀ e ∈ nextDay.man.entries, e.2.session = 2 → e.2.active = false) ∧ (after (.sessionIdle 2) nextDay).session 2 = none ∧
    ((after (.oldKeyExpiry 1) nextDay).session 1).map (·.oldKey) = some none := by decide +kernel

theorem test_reply_timers : (answered.session 1).any (fun x => x.cache.length == 1) = true ∧
    ((after (.replyCacheExpiry 1 9) { answered with time := overdue.time }).session 1).map (·.cache) = some [] ∧
    answered.ep.kept.length = 1 ∧ (after (.keptReplyExpiry 1 9) { answered with time := overdue.time }).ep.kept = [] := by decide +kernel

/-! ### Requests, steps and schedule words -/

/-- A pound of one tile at the basin's first position that is source and sink of its steps. -/
def pnd : Pound := { Pound.fresh with pdef := { PoundDef.fresh with
  source := true, sink := true, height := 1, width := 1, layers := 1, phrases := 1,
  ring := { Ring.fresh with h := 1, w := 1, rings := 1, g := 1, sMax := 1, stageBytes := 64 } } }

/-- Basin 0 with pound 0 of context 0 under a mixed cut. -/
def running (p : Pound) : State := active.modBasin 0 fun x => { x with
  pounds := [(0, p)]
  shares := x.shares.map fun g => { g with kind := 3, maxRows := 32, maxSeqs := 4, dynKib := 1 } }

/-- Entry 0 as a request of context 0. -/
def request : Entry := { Entry.fresh with
  st := .queued, session := 1, requestId := 77, promptLen := 2, genLimit := 4, log := [10, 11], logPages := 1 }

def withEntry (e : Entry) (s : State) : State := s.setEntry 0 e

theorem test_admission : (withEntry request (running pnd)).admissible request = true ∧
    ((withEntry { request with log := [10] } (running pnd)).admissible { request with log := [10] }) = false ∧
    ((after (.admission 0) (withEntry request (running pnd))).entry 0).st = .prefill := by decide +kernel

def decodes : Entry := { request with st := .decode, prefilled := 2, genLen := 2, log := [10, 11, 12, 13], draftReq := 1 }

theorem test_draft_pass : decodes.draftDone < decodes.draftNow ∧
    ((after (.draftPass 0) (withEntry decodes up)).entry 0).draftDone = 1 := by decide +kernel

def rebuilding : Entry := { decodes with st := .paused, pause := .rebuild, kvTag := 3, rebuilt := 3 }

theorem test_rebuild_seal : (running pnd).servingBasins rebuilding = [0] ∧
    ((after (.kvRebuildSeal 0) (withEntry rebuilding (running pnd))).entry 0).st = .decode := by decide +kernel

def late (policy : Nat) : Entry := { decodes with deadline := some 999999, latePolicy := policy }

theorem test_deadline : (late 0).active = true ∧ (late 0).onHold = false ∧
    ((after (.deadlinePass 0) (withEntry (late 1) up)).entry 0).demoted = true ∧
    ((after (.deadlinePass 0) (withEntry (late 2) up)).entry 0).status = .timedOut ∧
    ((after (.deadlinePass 0) (withEntry { late 2 with inStep := true } up)).entry 0).latePending = true := by decide +kernel

def holds : Entry := { decodes with st := .paused, pause := .hold, hold := true, holdTicks := 1000000 }

theorem test_hold_expiry : holds.onHold = true ∧ holds.pauseTick + holds.holdTicks ≤ up.now ∧
    ((after (.holdExpiry 0) (withEntry holds up)).entry 0).st = .done := by decide +kernel

theorem test_entry_release : ((after (.entryRelease 0) (withEntry { decodes with st := .done } { up with time := overdue.time })).entry 0) =
    Entry.fresh := by decide +kernel

def waitingPolicy : Balance :=
  { sliceId := 5, policy := none, pending := some policy, lastEval := 0, lastMove := 0, firstLate := 1, nextLate := 1 }

def balanced : State := { active with man := { active.man with balance := [waitingPolicy] } }

theorem test_balance_evaluation :
    (balanced.man.balance.find? fun x => x.sliceId == (balanced.basin 0).sliceId.toNat) = some waitingPolicy ∧
    balanced.isKeeper 0 = true ∧ waitingPolicy.lastEval + policy.evalTicks.toNat ≤ balanced.now ∧
    (after (.balanceEvaluation 0) balanced).man.balance.map (fun y => (y.policy, y.pending, y.lastEval)) =
      [(some policy, none, 1000000)] := by decide +kernel

/-- Entry 0 in PREFILL waits for a step of the pound. -/
def forming : State := withEntry { request with st := .prefill } (running pnd)

theorem test_step_formation : ((forming.basin 0).activeShare).any (fun g => decide (forming.formRows 0 0 0 g ≠ [])) = true ∧
    (forming.basin 0).running = some 0 ∧ pnd.pdef.height ≠ 0 ∧ pnd.ctx = 0 ∧ (forming.basin 0).st.state = .serving ∧
    forming.beforeLock 0 = true ∧
    (((forming.basin 0).activeShare).map fun g => (forming.formRows 0 0 0 g).map fun r => (r.entry, r.rows, r.prefill)) = some [(0, 2, true)] := by
  decide +kernel

/-- The step that forms from it waits to start. -/
def flight0 : Flight :=
  { home := 0, pound := 0, step := 0, kind := 3, started := false, sealed := false, voided := false, byFence := false
    rows := [{ entry := 0, rows := 2, pos := 0, prefill := true, rebuild := false, draft := 0, counted := false }] }

def formed : State :=
  { forming.modBasin 0 (fun x => { x with pounds := [(0, { pnd with nextFormed := some 0 })] }) with
    man := { forming.man with flights := [flight0] } }

theorem test_step_start : ((formed.stepShape 0 0).any fun r => formed.mayStart 0 0 r) = true ∧
    ((after (.stepStart 0 0) formed).basin 0).pounds.map (fun p => (p.2.running, p.2.rows, p.2.seqs)) = [(true, 2, 1)] := by decide +kernel

def steps : State := after (.stepStart 0 0) formed

/-- The step with a program of one phrase. -/
def toIssue : State := steps.modBasin 0 fun x => { x with pounds := x.pounds.map fun p => (p.1, { p.2 with prog := [⟨0, 0, .dense⟩] }) }

def phrase0 : PhraseP :=
  { layer := 0, phrase := 0, kind := .dense, seq := 0, len := 0, params := [], route := 0, slot := 0, half := none, zmap := ⟨0, 0⟩ }

theorem test_phrase_start : toIssue.nextPhrases 0 0 = [.issue 0 ⟨0, 0, .dense⟩ 0] ∧ ((toIssue.basin 0).pound 0).phraseOn = false ∧
    ((toIssue.basin 0).pound 0).piece = 0 ∧ ((toIssue.basin 0).pound 0).running = true ∧ ((toIssue.basin 0).pound 0).stopped = false ∧
    (toIssue.basin 0).st.state = .serving ∧ toIssue.poundTiles 0 0 = [0] ∧
    ((toIssue.basin 0).pound 0).pdef.ring = pnd.pdef.ring ∧ ((toIssue.basin 0).pound 0).rows = 2 := by decide +kernel

/-- No plan of a cut makes that phrase longer than the commit bitmap. -/
theorem test_phrase_fits (cut : Nat) :
    pnd.pdef.ring.rings * (planOf cut 0 0 pnd.pdef.ring).segs * State.groupCount pnd.pdef.ring.g 2 ≤ 4096 := by
  show 1 * max 1 (min 4096 _) * 1 ≤ 4096
  omega

theorem test_shape_seal_void : ((after (.shape 0 1 2 3 4 5 6 7) up).basin 0).pounds.map (fun p => p.2.shapes) = [[⟨2, 3, 4, 5, 6, 7⟩]] ∧
    ((after (.seal 0 1 2 3) up).basin 0).pounds.map (fun p => p.2.sealed) = [[(2, 3)]] ∧
    ((after (.void 0 1 2 3) up).basin 0).pounds.map (fun p => p.2.voids) = [[(2, 3)]] := by decide +kernel

theorem test_idle_tick : up.issueTick = true ∧ State.reset.issueTick = false ∧ (after .idleTick State.reset).time.now = 0 := by decide +kernel

/-- The step ends clean, tainted, and tainted for the third time. -/
def tainted (n : Nat) : State := steps.modBasin 0 fun x => { x with
  pounds := x.pounds.map fun p => (p.1, { p.2 with taint := true, replays := n }) }

theorem test_step_end : (∀ v ∈ ((steps.basin 0).pound 0).voids, v.2 ≠ ((steps.basin 0).pound 0).step) ∧
    (∀ y ∈ steps.poundBasins 0 0, (steps.basin y).st.state ≠ .fenced) ∧
    steps.programDone 0 0 = true ∧ steps.exchangesDone 0 0 = true ∧ steps.passesBad 0 0 = false ∧ steps.poundRoute 0 0 = none ∧
    ((after (.stepEnd 0 0) (tainted 1)).basin 0).pounds.map (fun p => p.2.replaying) = [true] := by decide +kernel

def replays : State := after (.stepEnd 0 0) (tainted 1)

theorem test_local_replay : ((replays.basin 0).pound 0).replaying = true ∧ (replays.repairSources 0 0).inputBad 0 0 = false ∧
    (replays.repairSources 0 0).sourcesPending 0 0 = false ∧
    ((after (.localReplay 0 0) replays).basin 0).pounds.map (fun p => (p.2.replays, p.2.taint)) = [(2, false)] := by decide +kernel

/-- The step was voided, and its request has joined `n` later ones already. -/
def voidedStep (n : Nat) : State :=
  let s := withEntry { request with st := .prefill, promptLen := 100, inStep := true, readmits := n } up
  { s with man := { s.man with flights := [{ flight0 with started := true, voided := true }] } }

theorem test_readmission : (∀ e, e ∈ (voidedStep 2).man.flights.find? (fun f => f.home == 0 && f.pound == 0 && f.step == 0 && f.voided) →
      e = { flight0 with started := true, voided := true }) ∧
    (∀ y ∈ (voidedStep 2).sliceBasins 0, ((voidedStep 2).basin y).st.held = false ∧ ((voidedStep 2).basin y).st.state ≠ .fenced) ∧
    ((after (.readmission 0 0 0) (voidedStep 0)).entry 0).readmits = 1 ∧
    ((after (.readmission 0 0 0) (voidedStep 2)).entry 0).st = .failed := by decide +kernel

/-- The step was sealed, and its sink hands over one token. -/
def sealedStep : State :=
  { steps with man := { steps.man with flights := [{ flight0 with started := true, sealed := true }] } }

/-- Token 21 has the higher of two logits. -/
def greedy21 : StepTokens := ⟨0, [], [[(20, 0x3F800000), (21, 0x40000000)]], [], [], 0⟩

theorem test_token_handoff : (sealedStep.man.flights.find? fun f => f.step == 0 && f.sealed && sealedStep.onPath f 0 0).any
      (fun f => decide (f.rows.map (·.entry) = [0])) = true ∧ (sealedStep.entry 0).active = true ∧
    keptTokens 0 4 (verifyStep true 0 greedy21).2 = [21] ∧ (sealedStep.entry 0).readmits = 0 ∧
    ((after (.tokenHandoff 0 0 0 [greedy21]) sealedStep).entry 0).log = [10, 11, 21] := by decide +kernel

/-- Two drafts against the target's first tokens 21 and 30, and a sampled draft of probability 1/2 under both. -/
def drafted : StepTokens := ⟨0, [21, 31], [[(20, 0x3F800000), (21, 0x40000000)], [(30, 0x3F800000)], []], [], [], 0⟩

def sampled (u : BitVec 32) : StepTokens :=
  ⟨0, [7], [[(7, 0x3E800000), (8, 0x3F400000)], [(9, 0x3F800000)]], [[(7, 0x3F000000), (8, 0x3F000000)]], [u], 9⟩

theorem test_verify : verifyStep true 2 drafted = (1, [21, 30]) ∧ verifyStep false 1 (sampled 0x3F000000) = (1, [7, 9]) ∧
    verifyStep false 1 (sampled 0x3F400000) = (0, [8]) := by decide +kernel

/-- A datagram of this tick waits behind the deadline. -/
def busy : State := { withEntry (late 2) up with pending := [.i3cPrivateWrite []] }

theorem test_commands_first : busy.commandsWait = true ∧ (after (.deadlinePass 0) busy).man.due = [.deadline 0] ∧
    ((after (.deadlinePass 0) busy).entry 0).st = .decode := by decide +kernel

/-- The basin's slice is held for its resume. -/
def heldSlice : State := (voidedStep 0).modBasin 0 fun x => { x with st := { x.st with held := true } }

theorem test_held_readmission : (∃ y ∈ heldSlice.sliceBasins 0, (heldSlice.basin y).st.held = true) ∧
    ((after (.readmission 0 0 0) heldSlice).entry 0).readmits = 0 := by decide +kernel

/-- Past its lock tick the basin forms no step. -/
def locked5 : State := forming.modBasin 0 fun x => { x with part := { x.part with tLock := some 5 } }

theorem test_no_formation : locked5.beforeLock 0 = false ∧ (after (.stepFormation 0 0) locked5).man.flights = [] := by decide +kernel

/-! ### Schedule words (words spelt from Tables 3.6 and 3.17) -/

/-- A step of two rows in a phrase of pound `p` of basin 0, whose tile 0 issues the words `ws` of a phrase of `len` cycles with SP0 = 1. Its
operand buffer holds a one at 0 and a two at 256, in FP32. -/
def issuing (p : Pound) (len : Nat) (ws : List Nat) : State :=
  (running { p with
    running := true, rows := 2, seqs := 1, phrase := some phrase0, phraseOn := true, plan := ⟨1, 1, 64, 4, 8, 1, none, false⟩ }).modTile 0 fun x => { x with
      core := { x.core with inPhrase := true, phrase := some phrase0, len := len, sp := [(0, 1)] }
      mem := { x.mem with
        sched := Memory.write [] (wordByte 1 0) (ws.flatMap (natLe 8))
        opbuf := Memory.write (Memory.write [] 0 (natLe 4 0x3F800000)) 256 (natLe 4 0x40000000) } }

/-- The next word of tile 0 is `o`, and no word of its unit stands in the cycle. -/
def nextIs (s : State) (o : SchedOp) : Bool := s.issues 0 && decide (decodeSched (s.fetch 0) = some o) && !(s.tile 0).core.used.contains o.unit

/-- Tile 0 has stopped with a fault. -/
def stopped (s : State) : Bool := (s.tile 0).core.stopped

def v01 : VuSpan := { srcBank := 0, srcAddr := 0, dstBank := 0, dstAddr := 16, len := 0 }

theorem test_issue : (issuing pnd 9 [0x80000000000000]).issues 0 = true ∧ up.issues 0 = false ∧ nextIs (issuing pnd 9 [0x80000000000000]) .nop = true ∧
    schedWait ((issuing pnd 9 [0x80000000000000]).fetch 0) = 2 ∧
    (fun c : TileCore => (c.pc, c.cyc)) ((after (.nop 0) (issuing pnd 9 [0x80000000000000])).tile 0).core = (1, 2) ∧
    ((after (.endWord 0) (issuing pnd 9 [0x80000000000000])).tile 0).core.pc = 0 := by decide +kernel

theorem test_issue_faults : decodeSched 0x28000000000000 = none ∧ stopped (after (.nop 0) (issuing pnd 9 [0x28000000000000])) = true ∧
    nextIs (after (.add32 0) (issuing pnd 9 [0xc100000001000, 0xc100000001000])) (.vu 1 0 0 v01) = false ∧
    stopped (after (.add32 0) (after (.add32 0) (issuing pnd 9 [0xc100000001000, 0xc100000001000]))) = true ∧
    nextIs (issuing pnd 9 [0xd100000001000]) (.vu 17 0 0 v01) = true ∧ stopped (after (.sel 0) (issuing pnd 9 [0xd100000001000])) = true := by
  decide +kernel

theorem test_add32 : nextIs (issuing pnd 9 [0xc100000001000]) (.vu 1 0 0 v01) = true ∧ inBank (spanSrc v01) 256 = true ∧ inBank (spanDst v01) 512 = true ∧
    (after (.add32 0) (issuing pnd 9 [0xc100000001000])).opWords 0 256 2 = [0x40400000, 0] := by decide +kernel

theorem test_span_beyond : inBank (spanDst { v01 with dstAddr := 4095 }) 256 = false ∧
    stopped (after (.add32 0) (issuing pnd 9 [0xc1000000fff00])) = true := by decide +kernel

theorem test_lanes : lane32 FVal.mul 0x3F800000 0x40000000 = (0x40000000, Ev.zero) ∧ (lane32 FVal.min2 0x3F800000 0xC0000000).1 = 0xC0000000 ∧
    (lane32 FVal.max2 0x3F800000 0xC0000000).1 = 0x3F800000 ∧ (fma32Lane 0x3F800000 0x40000000 0x3F800000).1 = 0x40400000 ∧
    (fnExp 0x42C80000).1 = 0x7F7FFFFF ∧ (fnRcp 0).1 = 0x7F7FFFFF ∧
    (fnRsqrt 0).1 = 0x7F7FFFFF := by decide +kernel

theorem test_halves : (halves2 (lane16 FVal.add) 0x3F804000 0x3F803F80).1 = 0x40004040 ∧
    (halves2 (lane16 FVal.mul) 0x40004000 0x3F803F80).1 = 0x40004000 ∧ (halves2 (lane16 FVal.min2) 0x40003F80 0x3F804000).1 = 0x3F803F80 ∧
    (halves2 (lane16 FVal.max2) 0x40003F80 0x3F804000).1 = 0x40004000 := by decide +kernel

theorem test_rcp_fma : nextIs (issuing pnd 9 [0xce00000001000]) (.vu 14 0 0 v01) = true ∧ nextIs (issuing pnd 9 [0xc000000001000]) (.vu 0 0 0 v01) = true ∧
    nextIs (issuing pnd 9 [0xca00000001000]) (.vu 10 0 0 v01) = true ∧ 
    (after (.fma32 0) (issuing pnd 9 [0xc000000001000])).opWords 0 256 1 = [0x40000000] := by decide +kernel

theorem test_cmp_sel : nextIs (issuing pnd 9 [0xc530000001000]) (.vu 5 3 0 v01) = true ∧ nextIs (issuing pnd 9 [0xc600000001000]) (.vu 6 0 0 v01) = true ∧
    ((after (.cmp32 0) (issuing pnd 9 [0xc530000001000])).tile 0).core.cmp.take 2 = [true, false] ∧
    (after (.sel 0) (after (.cmp32 0) (issuing pnd 9 [0xc530000001000, 0xc600000001000]))).opWords 0 256 1 = [0x40000000] ∧
    stopped (after (.cmp32 0) (issuing pnd 9 [0xc540000001000])) = true := by decide +kernel

theorem test_convert : nextIs (issuing pnd 9 [0xc787000001000]) (.vu 7 8 7 v01) = true ∧ fmtOfCode 8 = some .fp32 ∧ fmtOfCode 7 = some .bf16 ∧
    inBank (spanSrc v01) (packedBytes .fp32 64) = true ∧ inBank (spanDst v01) (packedBytes .bf16 64) = true ∧ fmtOfCode 15 = none ∧
    (after (.convert 0) (issuing pnd 9 [0xc787000001000])).opWords 0 256 1 = [0x3F80] ∧
    stopped (after (.convert 0) (issuing pnd 9 [0xc7f7000001000])) = true := by decide +kernel

theorem test_topk : nextIs (issuing pnd 9 [0xd010000001000]) (.vu 16 1 0 v01) = true ∧ spanVectors v01 ≤ 64 ∧ spanVectors { v01 with len := 64 } = 65 ∧
    topK 2 [(FVal.fin false 1 0), (FVal.fin false 3 0), (FVal.fin false 3 0)] = [1, 2] ∧
    (after (.topk 0) (issuing pnd 9 [0xd010000001000])).opWords 0 256 4 = [0x3F800000, 0, 0, 1] ∧
    stopped (after (.topk 0) (issuing pnd 9 [0xd000000001040])) = true := by decide +kernel

/-! #### Matrix unit, drain, SRAM -/

theorem test_mu_load : nextIs (issuing pnd 9 [0x4c00080000000]) (.muLoad 3 0 .i8 .dense) = true ∧ muLoadOk .i8 .dense .int8 = true ∧
    muLoadOk .i8 .dense .bf16 = false ∧ (issuing pnd 9 [0x4c00080000000]).nullBeat 0 = false ∧
    allSkipped ((issuing pnd 9 [0x4c00080000000]).tile 0).mem.opbuf [] (tileK .i8 .dense / 32) = false ∧
    inBank (opAddr 3 0) (weightBytes .i8 .dense .int8) = true ∧
    (fun c : TileCore => (c.shadow.mode, c.loaded)) ((after (.muLoad 0 .int8 []) (issuing pnd 9 [0x4c00080000000])).tile 0).core = (.i8, true) ∧
    stopped (after (.muLoad 0 .bf16 []) (issuing pnd 9 [0x4c00080000000])) = true := by decide +kernel

theorem test_mu_load_skipped : allSkipped ((issuing pnd 9 [0x4c00080000000]).tile 0).mem.opbuf [⟨8192, 0⟩] (tileK .i8 .dense / 32) = true ∧
    ((after (.muLoad 0 .int8 [⟨8192, 0⟩]) (issuing pnd 9 [0x4c00080000000])).tile 0).core.shadow.real = false := by decide +kernel

/-- The active plane holds 8-bit integers, every weight zero. -/
def streaming : State := (issuing pnd 9 [0x5000000400000]).modTile 0 fun x => { x with core := { x.core with active := ⟨.i8, .dense, .int8, 0, [], true⟩ } }

theorem test_mu_stream : nextIs streaming (.muStream 0 0 0 false 1) = true ∧ actOk .i8 .int8 = true ∧ actOk .i8 .fp32 = false ∧
    streamRows streaming 0 0 false 1 = 2 ∧ allSkipped (streaming.tile 0).mem.opbuf [⟨8192, 0⟩] (tileK .i8 .dense / 32) = true ∧
    inBank (opAddr 0 0) (tileK .i8 .dense / 32 * actBlockBytes false .int8) = true ∧
    ((after (.muStream 0 .int8 (some ⟨8192, 0⟩)) streaming).tile 0).cnt.skip = 1 ∧
    ((after (.muStream 0 .int8 none) streaming).tile 0).cnt.muActive = 2 ∧ stopped (after (.muStream 0 .fp32 none) streaming) = true := by
  decide +kernel

/-- A pound of a ring of two tiles that owns both ends of queue 0. -/
def ring2 : Pound := { pnd with pdef := { pnd.pdef with
  width := 2, outQ := [0], inQ := [0], ring := { pnd.pdef.ring with shape := 1, w := 2 } } }

/-- Cycle 12 of a phrase with fill 8 and beats of 4 cycles: tile 0 has the unit of tile 1, which is null. -/
def nullTime : State := (issuing ring2 99 [0x5000000400000]).modTile 0 fun x => { x with
  core := { x.core with cyc := 12 }, mem := { x.mem with sched := Memory.write x.mem.sched (32768 + 0x40) (natLe 8 0x100000) } }

theorem test_null_beat : nextIs nullTime (.muStream 0 0 0 false 1) = true ∧ nullTime.nullBeat 0 = true ∧
    stopped (after (.muStream 0 .fp32 none) nullTime) = false := by decide +kernel

def supply : DrainSupply :=
  { rowScales := 0x8000, colScales := 0x8100, bias := 0x8200, outScale := 0x8300, outScales := 0x8400, zeroMap := ⟨0x9000, 0⟩, stride := 1, mx := false,
    partialSum := true, fan := none }

theorem test_drain : nextIs (issuing ring2 9 [0x8008001000000]) (.drain 0 0 8 0 0 1 0) = true ∧ fmtOfCode 8 = some .fp32 ∧
    (issuing ring2 9 [0x8008001000000]).drainGroup 0 = none ∧ inBank (opAddr 1 0) (1 * actBlockBytes false .fp32) = true ∧
    (issuing ring2 9 [0x8008001000000]).poundOf 0 = some (0, 0) ∧ 0 < (issuing ring2 9 [0x8008001000000]).phraseOps 0 (((issuing ring2 9 []).basin 0).pound 0) ∧
    stopped (after (.drain 0 supply) (issuing ring2 9 [0x8008004000000])) = true := by decide +kernel

theorem test_sram : nextIs (issuing pnd 9 [0x10000000000000]) (.sram false 0 0 0 0) = true ∧ nextIs (issuing pnd 9 [0x121ff000000000]) (.sram true 4088 0 0 0) = true ∧
    (issuing pnd 9 []).inShare 0 0 128 = true ∧ (issuing pnd 9 []).inShare 0 524288 128 = false ∧
    (issuing pnd 9 []).inDynamic 0 523264 128 = true ∧ (issuing pnd 9 []).inDynamic 0 0 128 = false ∧ inBank (opAddr 0 0) 128 = true ∧
    Memory.read ((after (.sramWrite 0) (issuing pnd 9 [0x121ff000000000])).tile 0).mem.column 523264 4 = natLe 4 0x3F800000 ∧
    ((after (.sramRead 0) (issuing pnd 9 [0x10000000000000])).opWords 0 0 1) = [0] ∧
    stopped (after (.sramRead 0) (issuing pnd 9 [0x10200000000000])) = true ∧ stopped (after (.sramWrite 0) (issuing pnd 9 [0x12000000000000])) = true := by
  decide +kernel

/-! #### Control words, queues -/

def flit : Flit :=
  { payload := List.replicate 16 7, parity := if parityBit 7 then 0xFFFF else 0, epoch := 0, queue := true, qid := 0, dstRow := 0, dstCol := 0
    segOrigin := 0 }

/-- Tile 0 owns the cycles of its east output and holds a flit from the south. -/
def routing : State := (issuing pnd 9 [0x14300000000000]).modTile 0 fun x => { x with net := { x.net with
  inq := [(sideCode .south, [(0, flit)])], slots := [(sideCode .east, BitVec.allOnes 64)] } }

theorem test_route : nextIs routing (.route .none (.side .south) .none .none .none 0) = true ∧ frameCycle routing.now 1 = 1 ∧
    (routing.tile 0).given .east 1 = true ∧ (routing.tile 0).net.input .south = [(0, flit)] ∧ routing.neighbour 0 .east = some 1 ∧
    routing.borderOpen 0 0 = true ∧ (routing.tile 1).net.route = none ∧
    ((after (.route 0 1 0 0 none) routing).tile 1).net.input .west = [(1, routing.outFlit 0 (.side .south) .east flit)] ∧
    stopped (after (.route 0 0 0 0 none) routing) = true := by decide +kernel

/-- Queue 0 of depth 4 runs from pound 0 to the pound `sink`; pound 0 has two credits, pound 1 is tile 1. -/
def queues (sink : Nat) (ws : List Nat) : State :=
  (issuing { pnd with pdef := { pnd.pdef with outQ := [0], inQ := [0] }, credits := [(0, 2)] } 9 ws).modBasin 0 fun x => { x with
    queues := [(0, { Queue.fresh with producer := 0, consumer := sink, depth := 4, owed := 1, launch := BitVec.allOnes 64 })]
    pounds := x.pounds ++ [(1, { pnd with pdef := { pnd.pdef with left := 1, inQ := [0] } })] }

theorem test_queue_push : nextIs (queues 1 [0x18000000000800]) (.queue false 0 0 0 1) = true ∧ (queues 1 []).poundOf 0 = some (0, 0) ∧
    ((queues 1 []).queueOf 0 0).consumer = 1 ∧ inBank (opAddr 0 0) 128 = true ∧
    ((after (.queuePush 0) (queues 1 [0x18000000000800])).tile 0).net.egress.map (fun f => (f.flit.qid, f.flit.dstRow, f.flit.dstCol)) = [(0, 0, 1), (0, 0, 1)] ∧
    Tbl.get 0 0 (((after (.queuePush 0) (queues 1 [0x18000000000800])).basin 0).pound 0).credits = 0 ∧
    stopped (after (.queuePush 0) (queues 1 [0x18000000001000])) = true := by decide +kernel

/-- Two flits of the step wait in tile 0's part of queue 0, which begins at byte 523,264 of the column. -/
def waits (ws : List Nat) : State :=
  let s := (queues 0 ws).modTile 0 fun x => { x with
    net := { x.net with queue := [(0, ⟨2, [(0, 0), (1, 1)], 0⟩)] }
    mem := { x.mem with column := Memory.write [] 523264 [9, 8] } }
  s.modBasin 0 fun x => { x with queues := x.queues.map fun q => (q.1, { q.2 with pushed := 2, marks := [(0, 0, 2)], perBlock := 2 }) }

theorem test_queue_pop : nextIs (waits [0x1a008000000800]) (.queue true 0 1 0 1) = true ∧
    Memory.read ((after (.queuePop 0 none) (waits [0x1a008000000800])).tile 0).mem.opbuf 65536 2 = [9, 8] ∧
    (Tbl.get QPart.fresh 0 ((after (.queuePop 0 none) (waits [0x1a008000000800])).tile 0).net.queue).taken = 2 ∧
    ((after (.queuePop 0 none) (waits [0x1a008000000800])).queueOf 0 0).popped = 2 ∧
    stopped (after (.queuePop 0 none) (waits [0x1a0e0000000000])) = true := by decide +kernel

theorem test_counter : nextIs (issuing ring2 99 [0x1fc000c0000000]) (.counter 15 3) = true ∧
    claimFor ⟨1, 1, 64, 4, 8, 1, none, false⟩ 2 0 1 0 = some 0 ∧ (issuing ring2 99 [0x1fc000c0000000]).ringPlace 0 (0, 0) = (0, 0) ∧
    (after (.counter 0) (issuing ring2 99 [0x1fc000c0000000])).basins.map (fun b => b.2.pounds.map fun p => Tbl.get 0 0 p.2.lanes) = [[3]] ∧
    ((after (.counter 0) (issuing ring2 99 [0x1fc000c0000000])).tile 0).core.ops = [⟨0, 0, 2⟩] := by decide +kernel

theorem test_loop : nextIs (issuing pnd 9 [0x20000048000000]) (.loop 0 false 9) = true ∧
    (fun c : TileCore => (c.pc, c.loops)) ((after (.loop 0) (issuing pnd 9 [0x20000048000000])).tile 0).core = (0, [(0, 9)]) := by decide +kernel

theorem test_end : nextIs (issuing pnd 4 [0xe4000000000000]) .endWord = true ∧ schedWait ((issuing pnd 4 [0xe4000000000000]).fetch 0) = 3 ∧
    ((after (.endWord 0) (issuing pnd 4 [0xe4000000000000])).tile 0).core.inPhrase = false ∧
    ((after (.endWord 0) (issuing pnd 4 [0xe4000000000000])).basin 0).pounds.map (fun p => p.2.phraseOn) = [false] ∧
    stopped (after (.endWord 0) (issuing pnd 4 [0x124000000000000])) = true ∧
    commitsWhole (issuing ring2 4 [0xe4000000000000]) 0 (((issuing ring2 4 [0xe4000000000000]).basin 0).pound 0) = false ∧
    stopped (after (.endWord 0) (issuing ring2 4 [0xe4000000000000])) = true := by decide +kernel

/-- A flit for tile 0 is next in the egress buffer of tile 1. -/
def sending : State := (queues 0 []).modTile 1 fun x => { x with net := { x.net with egress := [⟨flit, 0, 0, 0⟩] } }

theorem test_flit_arrival : sending.neighbour 0 .east = some 1 ∧ sending.leavesBy 1 .west ⟨flit, 0, 0, 0⟩ = true ∧ (sending.tile 1).given .west 1 = false ∧
    badFlit (struck ⟨flit, 0, 0, 0⟩ 0).flit = false ∧ sending.position 0 = some (0, 0) ∧ sending.queueTiles (sending.queueOf 0 0) = [0] ∧
    (sending.queueOf 0 0).perTile 1 = 4 ∧
    Tbl.get QPart.fresh 0 ((after (.queueFlitArrival 0 .east 1 0) sending).tile 0).net.queue = ⟨1, [(0, 0)], 0⟩ ∧
    Memory.read ((after (.queueFlitArrival 0 .east 1 0) sending).tile 0).mem.column 523264 4 = natLe 4 7 := by decide +kernel

/-- It arrived bad. -/
def replaying : State := after (.queueFlitArrival 0 .east 1 1) sending

theorem test_mesh_replay : Tbl.get none (sideCode .east) (replaying.tile 0).net.replayFrom = some 0 ∧
    ((after (.meshLinkReplay 0 .east 1 0) replaying).basin 0).par.link = 1 ∧
    Tbl.get none (sideCode .east) ((after (.meshLinkReplay 0 .east 1 0) replaying).tile 0).net.replayFrom = none := by decide +kernel

theorem test_credit_return : Tbl.get 0 0 (((after (.creditReturn 0 0 0 9) (queues 1 [])).basin 0).pound 0).credits = 3 ∧
    (queues 1 []).queueHome 0 0 = some 0 := by decide +kernel

/-- Both areas of the claim hold 128 bytes. -/
def gathering : State := (waits []).modBasin 0 fun x => { x with pounds := x.pounds.map fun p => (p.1, { p.2 with
  pdef := { p.2.pdef with ring := { p.2.pdef.ring with stageBytes := 128 } } }) }

theorem test_gather : gathering.poundOf 0 = some (0, 0) ∧
    (gathering.gatherData (0, 0) ⟨0, 0, gathering.iterRows (0, 0) 0⟩ 0 0 2).map (fun x => (x.1.take 2, x.1.length)) = some ([9, 8], 128) ∧
    gathering.gatherData (0, 0) ⟨0, 0, 0⟩ 0 0 3 = none ∧ gathering.inDynamic 0 523776 128 = true ∧
    groupFlits (gathering.queueOf 0 0) 1 (gathering.phraseRows 0 ((gathering.basin 0).pound 0)) 0 = (0, 2) ∧
    ((gathering.basin 0).pound 0).phraseOn = true := by decide +kernel

theorem test_gather_moves : Memory.read ((after (.gatherComplete 0 false 523776 0 0 2) gathering).tile 0).mem.column 523776 2 = [9, 8] ∧
    ((after (.gatherComplete 0 false 523776 0 0 2) gathering).tile 0).core.stage = [(0, 523776)] ∧
    stopped (after (.gatherComplete 0 false 523776 0 0 2) (waits [])) = true ∧
    stopped (after (.gatherComplete 0 false 0 0 0 2) gathering) = true ∧
    ((after (.gatherComplete 0 false 523776 0 0 1) gathering).tile 0).core.gathers = 0 ∧
    ((after (.gatherComplete 0 true 523776 0 0 2) gathering).tile 0).core.gathers = 0 := by decide +kernel

/-- A barge landed in half 1. -/
def camePart : State := (waits []).modTile 0 fun x => { x with core := { x.core with came := [(1, 1)] } }

theorem test_half_landed : camePart.halfComing 0 true = false ∧ Tbl.get 0 1 ((after (.halfLanded 0 true) camePart).tile 0).core.halves = 1 ∧
    Tbl.get 0 1 ((after (.halfLanded 0 true) (waits [])).tile 0).core.halves = 0 := by decide +kernel

/-! #### Overwritten inputs, damaged words, formats of the plan -/

/-- Two flits from the south, the second over the first in cycle 0; the next word stands in cycle 2. -/
def flooded : State := (issuing pnd 9 [0x80000000000000]).modTile 0 fun x => { x with net := { x.net with
  inq := [(sideCode .south, [(0, flit), (0, flit)])] } }

theorem test_overwritten : State.overwritten (flooded.tile 0) 2 = true ∧ State.overwritten (flooded.tile 0) 0 = false ∧
    stopped (after (.nop 0) flooded) = true ∧ stopped (after (.nop 0) (issuing pnd 9 [0x80000000000000])) = false := by decide +kernel

/-- A reserved word whose parity fails. -/
def spoiltWord : State := (issuing pnd 9 [0x28000000000000]).modTile 0 fun x => { x with mem := { x.mem with
  parity := [{ space := .sched, word := wordByte 1 0 / 4, transient := false, seen := false }] } }

theorem test_damaged_word : (spoiltWord.tile 0).mem.damaged .sched (wordByte 1 0 / 4) 2 = true ∧
    stopped (after (.nop 0) spoiltWord) = false ∧ ((after (.nop 0) spoiltWord).basin 0).pounds.map (fun p => p.2.taint) = [true] := by
  decide +kernel

/-- The plan of the phrase names 16-bit mode, which the word's own mode contradicts. -/
def inFormats (f : PhraseForm) (ws : List Nat) : State := (issuing pnd 9 ws).modBasin 0 fun x => { x with
  pounds := x.pounds.map fun p => (p.1, { p.2 with plan := { p.2.plan with form := some f } }) }

theorem test_phrase_formats : ((inFormats ⟨.i8, .dense, .int8, .int8⟩ []).phraseForm 0).map (·.wgt) = some .int8 ∧
    stopped (after (.muLoad 0 .bf16 []) (inFormats ⟨.i8, .dense, .int8, .int8⟩ [0x4c00080000000])) = false ∧
    stopped (after (.muLoad 0 .int8 []) (inFormats ⟨.i8, .dense, .int8, .bf16⟩ [0x4c00080000000])) = true := by decide +kernel

/-- Row 0 of accumulator block 0 holds what the last operation left; this operation's first stream begins it anew. -/
def leftover : State := streaming.modTile 0 fun x => { x with
  core := { x.core with stale := [(0, 1)] }, mem := { x.mem with acc := [(0, 5), (32, 6)] } }

theorem test_fresh_rows : Tbl.get 0 0 ((after (.muStream 0 .int8 none) leftover).tile 0).mem.acc = 0 ∧
    Tbl.get 0 32 ((after (.muStream 0 .int8 none) leftover).tile 0).mem.acc = 6 ∧
    Tbl.get 0#32 0 ((after (.muStream 0 .int8 none) leftover).tile 0).core.stale = 0 := by decide +kernel

theorem test_end_overwritten : stopped (after (.endWord 0) ((issuing pnd 4 [0xe4000000000000]).modTile 0 fun x => { x with net := { x.net with
    inq := [(sideCode .south, [(0, flit), (0, flit)])] } })) = true := by decide +kernel

/-! ### Sluice, collectives, barges -/

/-- Context 0 has route 0: two experts, both of this basin, the only peer. -/
def routed : State := (issuing pnd 9 []).modBasin 0 fun x => { x with gen := 1, ctxs := x.ctxs.map fun c => (c.1, { c.2 with
  routes := [(0, { RouteRec.fresh with layer := 0, experts := 2, k := 1, score := 2, peers := 1, local_ := 2, peerOrd := [0] })] }) }

def tok : RouteTok := { tag := 5, logits := [0x3F800000, 0x40000000], row := [1] }
def nanTok : RouteTok := { tag := 6, logits := [0x3F800000, 0x7FC00000], row := [1] }

theorem test_routing_pass : (routed.basin 0).routeCurrent 0 0 = true ∧ ((routed.basin 0).routeStep 0 0 0).routed = false ∧
    ((issuing pnd 9 []).basin 0).routeCurrent 0 0 = false ∧
    ((after (.routingPass 0 0 0 0 [tok, nanTok]) routed).basin 0).sluice.nanTok = 1 ∧
    ((((after (.routingPass 0 0 0 0 [tok, nanTok]) routed).basin 0).routeStep 0 0 0).sent.map fun e => e.2.map fun r => (r.tag, r.mask)) =
      [[(5, 2)]] := by decide +kernel

def hdrOf (kind : Byte) : A2AHdr := { kind := kind, route := 0, source := 0, step := 0, records := 1, pairs := 1, dropped := 0 }

def rec1 : DispatchRec := { tag := 5, mask := 2, gates := [0x3F800000], row := [1] }

def dispatched : State := after (.dispatch 0 0 (hdrOf 1) 0 [rec1]) routed

theorem test_dispatch : routed.stepHeld 0 0 0 0 = true ∧ routed.mooringArea 0 = none ∧ (0 : BitVec 2) = (routed.basin 0).cut.epoch ∧
    ((dispatched.basin 0).routeStep 0 0 0).got.length = 1 ∧
    (((after (.dispatch 0 0 (hdrOf 1) 0 [rec1]) dispatched).basin 0).routeStep 0 0 0).got.length = 1 ∧
    (((after (.dispatch 0 0 (hdrOf 2) 0 [rec1]) routed).basin 0).pound 0).fault = some .unit ∧
    (((after (.dispatch 0 0 (hdrOf 1) 1 [rec1]) routed).basin 0).pound 0).fault = some .epoch := by decide +kernel

/-- The mooring area of the cut holds one byte. -/
def small : State := routed.modBasin 0 fun x => { x with shares := x.shares.map fun g => { g with buffers := [(4, 0, 1)] } }

theorem test_dispatch_area : small.mooringArea 0 = some 1 ∧ 1 < recBytes rec1 ∧
    ((after (.dispatch 0 0 (hdrOf 1) 0 [rec1]) small).basin 0).routeStep 0 0 0 = RouteStep.fresh 0 0 0 := by decide +kernel

/-- Capacity 1 with two rows for expert 1. -/
def crowded : State := after (.dispatch 0 0 { hdrOf 1 with records := 2 } 0 [rec1, { rec1 with tag := 6 }])
  (routed.modBasin 0 fun x => { x with sluice := { x.sluice with cap := [(0, 1)] }, shares := x.shares.map fun g => { g with maxExpert := 8 } })

theorem test_mooring_pass : crowded.capacity 0 0 = 1 ∧ (((crowded.basin 0).routeStep 0 0 0).got.all fun g => g.1 == 0 &&
      g.2.1.records.toNat == g.2.2.length) = true ∧
    (((after (.mooringPass 0 0 0 0) crowded).basin 0).routeStep 0 0 0).table = [(0, 0, 0), (1, 1, 1)] ∧
    ((after (.mooringPass 0 0 0 0) crowded).basin 0).sluice.drops = 1 ∧ ((after (.mooringPass 0 0 0 0) crowded).basin 0).sluice.empty = 1 := by
  decide +kernel

def back : CombineRec := { tag := 5, applied := 2, dropped := 0, row := [0x40000000] }

/-- The token of the routing pass came back. -/
def combined : State := after (.combine 0 0 (hdrOf 2) 0 [back]) (after (.routingPass 0 0 0 0 [tok]) routed)

theorem test_combine : ((combined.basin 0).routeStep 0 0 0).combined.length = 1 ∧
    combineWhole ((combined.basin 0).routeStep 0 0 0) ((combined.basin 0).route 0 0) = true ∧
    ((combined.basin 0).routeStep 0 0 0).routed = true ∧
    (((after (.combineComplete 0 0 0 0) combined).basin 0).routeStep 0 0 0).contrib = [(5, [0x40000000])] ∧
    (((after (.combine 0 0 (hdrOf 2) 0 [back]) combined).basin 0).routeStep 0 0 0).combined.length = 1 := by decide +kernel

theorem test_collectives : (routed.basin 0).sluice.colls = [] ∧
    ((after (.reduce 0 0 (hdrOf 3) 0 1 [0x3F800000]) routed).basin 0).sluice.colls.map (·.result) = [some [0x3F800000]] ∧
    ((after (.gather 0 0 (hdrOf 4) 0 2 [1]) routed).basin 0).sluice.colls.map (·.result) = [none] ∧
    ((after (.handoff 0 0 (hdrOf 5) 0 1 [1]) routed).basin 0).sluice.colls.map (·.result) = [some [1]] := by decide +kernel

def tow : TowHdr := { pack := false, ordered := false, stream := false, notify := false, next := 0, done := 64 }

/-- 64 bytes of tile 0's operand buffer to the LPDDR5X of its basin. -/
def barge : BargeHdr :=
  { src := .opbuf 0 0 0 0, dst := .lpddr 0 128, rows := 1, rowUnits := 1, format := 0, epoch := 0, ctx := 0, cls := .step, packed := false,
    last := false, generation := 0, slot := 0, origin := 0, step := 9 }

def towing : State := after (.towPost 0 0 tow [barge]) routed

theorem test_tow_post : ((routed.basin 0).ctx 0).exist = true ∧ Tbl.get [] 0 (routed.basin 0).eng.tows = [] ∧
    ((routed.basin 0).brgCtx 0).inUse.toNat < ((routed.basin 0).brgCtx 0).quota.toNat ∧ hdrOk barge = true ∧
    (routed.locBasin 0 (locOrdinal barge.dst)).isSome = true ∧ (Tbl.get BargeSlot.fresh 0 (routed.basin 0).eng.slots).hdr.rows = 0 ∧
    ((towing.basin 0).brgCtx 0).inUse = 1 := by decide +kernel

/-- The header that the engine gave the barge. -/
def sent : BargeHdr := (Tbl.get BargeSlot.fresh 0 (towing.basin 0).eng.slots).hdr

/-- The barge may land: page 0 is of context 0. -/
def harbour : State := towing.modBasin 0 fun x => { x with ctxs := x.ctxs.map fun c => (c.1, { c.2 with kvDir := [(0, ⟨false, [0], []⟩)] }) }

theorem test_barge_arrival : harbour.destCheck 0 sent [sent] = .ok ∧ harbour.sourceWaits 0 0 sent.src 64 = false ∧
    harbour.moveWaits 0 sent.dst = false ∧ harbour.locBasin 0 sent.origin.toNat = some 0 ∧
    (Tbl.get BargeSlot.fresh 0 (harbour.basin 0).eng.slots).members = [] ∧
    Memory.read ((after (.bargeArrival 0 sent []) harbour).basin 0).dram.mem 128 4 = natLe 4 0x3F800000 ∧
    harbour.destCheck 0 { sent with generation := 77 } [sent] ≠ .ok := by decide +kernel

def landed : State := after (.bargeArrival 0 sent []) harbour

theorem test_barge_tow_complete : (Tbl.get BargeSlot.fresh 0 (landed.basin 0).eng.slots).status = some .ok ∧ landed.startable 0 0 = 0 ∧
    (((after (.bargeComplete 0 0 0) landed).basin 0).brgCtx 0).inUse = 0 ∧
    Memory.read ((after (.towComplete 0 0) (after (.bargeComplete 0 0 0) landed)).basin 0).dram.mem 64 8 ≠ List.replicate 8 0 ∧
    Tbl.get [] 0 ((after (.towComplete 0 0) (after (.bargeComplete 0 0 0) landed)).basin 0).eng.tows = [] := by decide +kernel

/-- Word 0 of the stored own row, and then the mooring area, fail their parity. -/
def badRow : State := (after (.routingPass 0 0 0 0 [tok]) routed).modBasin 0 fun x => { x with sluice := { x.sluice with
  steps := x.sluice.steps.map fun k => { k with rowBad := [(k.sent.length - 1, 0, 0)] } } }

def badArea : State := (after (.mooringPass 0 0 0 0) crowded).modBasin 0 fun x => { x with sluice := { x.sluice with
  steps := x.sluice.steps.map fun k => { k with areaBad := [3] } } }

def badIntake : State := routed.modBasin 0 fun x => { x with sluice := { x.sluice with intake := [(0, 0, 7)] } }

theorem test_passes_repeat : ((badRow.basin 0).routeStep 0 0 0).rowBad.any (fun w => w.1 == ((badRow.basin 0).route 0 0).self) = true ∧
    ((badRow.basin 0).routeStep 0 0 0).routed = true ∧
    (((after (.routingPass 0 0 0 0 [tok]) badRow).basin 0).routeStep 0 0 0).rowBad = [] ∧
    ((badArea.basin 0).routeStep 0 0 0).moored = true ∧
    (((after (.mooringPass 0 0 0 0) badArea).basin 0).routeStep 0 0 0).areaBad = [] ∧
    ((after (.mooringPass 0 0 0 0) badArea).basin 0).sluice.drops = 1 ∧
    (((after (.routingPass 0 0 0 0 [tok]) badIntake).basin 0).routeStep 0 0 0).routed = false ∧
    ((after (.routingPass 0 0 0 0 [tok]) badIntake).basin 0).sluice.intake = [] := by decide +kernel

/-- Format code 11 is none of Table 2.4: the descriptor fails at issue. -/
def badBarge : BargeHdr := { barge with format := 11 }

theorem test_tow_bad : (hdrOk badBarge && ownChannels badBarge) = false ∧
    (Tbl.get [] 0 ((after (.towPost 0 0 tow [badBarge]) routed).basin 0).eng.tows).map (fun w => (w.first, w.running)) = [(some .badParam, 0)] ∧
    ((after (.towPost 0 0 tow [badBarge]) routed).basin 0).eng.slots = [] := by decide +kernel

/-- The tow notifies. -/
def notified : State := after (.towPost 0 0 { tow with notify := true } [barge]) routed

def notifiedEnd : State := after (.bargeComplete 0 0 0) (after (.bargeArrival 0 sent []) (notified.modBasin 0 fun x => { x with
  ctxs := x.ctxs.map fun c => (c.1, { c.2 with kvDir := [(0, ⟨false, [0], []⟩)] }) }))

theorem test_tow_notifies : ((after (.towComplete 0 0) notifiedEnd).basin 0).eng.notices = [(0, 0x8000000000000001)] ∧
    (after (.towComplete 0 0) notifiedEnd).freeCtr = notifiedEnd.freeCtr + 1 := by decide +kernel

/-! ### Lockages -/

/-- The active slice of basin 0, with a staged capacity. -/
def stagedS : State := active.modBasin 0 fun x => { x with staged := [⟨0x100, 4, 1000000⟩] }

def twoDevices (s : State) : State := { s with fab := { s.fab with members := [(5, [(0, 0), (1, 0)])] } }

theorem test_lockage_start : stagedS.isKeeper 0 = true ∧ stagedS.lockageDue 0 5 = true ∧ (stagedS.basin 0).keeper.active = false ∧
    (stagedS.basin 0).keeper.unsync = [] ∧ up.isKeeper 0 = false ∧ stagedS.oneDevice 5 = true ∧ (twoDevices stagedS).oneDevice 5 = false ∧
    ((after (.lockageStart 0 []) stagedS).basin 0).armed = [⟨0x100, 4, 1000000⟩] ∧ ((after (.lockageStart 0 []) (twoDevices stagedS)).basin 0).keeper.tLock = 1001000 := by
  decide +kernel

theorem test_lock : active.ordinal 0 = some 0 ∧ (active.basin 0).part.tLock ≠ some 1000000 ∧ active.keeperOrdinal 0 = some 0 ∧
    ((after (.lock 0 999000 1000000 [some 1] 0) active).basin 0).cut.lockState = .locking ∧
    ((after (.lock 0 999000 1000001 [some 1] 0) active).basin 0).cut.lockState = .running ∧
    ((after (.lockAck 0 3 true) active).basin 0).keeper.unsync = [3] := by decide +kernel

/-- Basin 0 has taken part in a lockage to slot 1 from tick 1,000,000. -/
def locking (st : LockState) : State := active.modBasin 0 fun x => { x with
  part := { x.part with tLock := some 1000000, slots := [some 1] }
  cut := { x.cut with lockState := st }
  keeper := { x.keeper with active := true, tLock := 1000000 } }

theorem test_lock_tick : ((after (.lockTick 0) (locking .running)).basin 0).cut.lockState = .locking ∧
    (0 ∉ ((locking .running).basin 0).keeper.lockAcks) ∧
    Tbl.get 0 0 ((after (.lockResend 0 0) (locking .running)).basin 0).keeper.resendAt = 1001000 := by decide +kernel

theorem test_drained : (locking .locking).drained 0 = true ∧ (locking .locking).ordinal 0 = some 0 ∧
    (locking .locking).keeperOrdinal 0 = some 0 ∧ ((locking .locking).basin 0).part.reported = false ∧
    ((after (.basinDrained 0) (locking .locking)).basin 0).cut.lockState = .drained ∧
    ((after (.drained 0 0 false) (locking .drained)).basin 0).keeper.tResume = some 1000200 ∧
    ((after (.drained 0 0 false) (twoDevices (locking .drained))).basin 0).keeper.tResume = none := by decide +kernel

theorem test_resume : ((after (.resume 0 1000200) (locking .drained)).basin 0).part.tResume = some 1000200 ∧
    ((after (.resume 0 1000299) (twoDevices (locking .drained))).basin 0).cut.lateResume = 1 ∧
    ((after (.resume 0 1000300) (twoDevices (locking .drained))).basin 0).cut.lateResume = 0 ∧
    ((after (.resumeAck 0 1) (locking .drained)).basin 0).keeper.resumeAcks = [1] := by decide +kernel

/-- T_R is 200 ticks away; T_R is here. -/
def resuming (st : LockState) (r : Nat) : State := (locking st).modBasin 0 fun x => { x with
  part := { x.part with tResume := some r }
  keeper := { x.keeper with tResume := some r } }

theorem test_resume_void : (twoDevices (resuming .drained 1000300)).oneDevice 5 = false ∧
    ((after (.resumeVoid 0) (twoDevices (resuming .drained 1000300))).basin 0).keeper.tResume = some 1001000 ∧
    ((after (.resumeVoid 0) (twoDevices (resuming .drained 1000301))).basin 0).keeper.tResume = some 1000301 := by decide +kernel

theorem test_slot_switch : (((resuming .drained 1000200).basin 0).slot 1).ctx.toNat = 0 ∧
    (((resuming .drained 1000200).basin 0).shareOf 1).isSome = true ∧
    ((after (.slotSwitch 0) (resuming .drained 1000200)).basin 0).cut.lockState = .switching ∧
    ((after (.slotSwitch 0) (resuming .drained 1000200)).basin 0).part.switched = true := by decide +kernel

def switched : State := (after (.slotSwitch 0) (resuming .drained 1000000)).modBasin 0 fun x => { x with armed := [⟨0x100, 4, 1000000⟩] }

/-- No basin of the slice changes its slot. -/
def kept : State := (resuming .drained 1000000).modBasin 0 fun x => { x with part := { x.part with slots := [none] } }

theorem test_resume_tick : ((after (.resumeTick 0) switched).basin 0).cut.epoch = 1 ∧ ((after (.resumeTick 0) switched).basin 0).cap 0 = 4 ∧
    ((after (.resumeTick 0) switched).basin 0).cut.lockState = .running ∧
    ((after (.resumeTick 0) kept).basin 0).cut.epoch = 0 ∧ kept.nextSlot 0 = none ∧
    ((after (.wayMoveComplete 0) (active.modBasin 0 fun x => { x with dram := { x.dram with moving := 3 } })).basin 0).dram.moving = 0 := by
  decide +kernel

/-! ### Gap moves, self-test, failures, memory ladder -/

theorem test_gap_move : ((active.basin 0).row 3).kindOf 32 = some .spare ∧ (active.basin 0).maint.move = none ∧
    ((active.basin 0).row 3).nearest 32 true = some 31 ∧
    ((after (.gapMove 0 3 false true) active).basin 0).maint.move = some (3, 32, 31) := by decide +kernel

def moving : State := after (.gapMove 0 3 false true) active

def copied : State := after (.staticCopyComplete 0 3) moving

theorem test_static_copy : (moving.basin 0).maint.moveHeld = false ∧ (moving.tile (tileNo 0 3 31)).mem.parity = [] ∧
    (copied.basin 0).maint.moveHeld = true ∧ copied.isStale (tileNo 0 3 32) = false ∧
    (∀ p ∈ copied.allPounds, copied.moveHolds p.1 p.2 = true → ((copied.basin p.1).pound p.2).running = false) ∧
    (∀ c, c < 34 → (copied.tile (tileNo 0 3 c)).net.egress = []) ∧
    ((after (.gapMoveHoldReached 0 3) copied).basin 0).maint.move = none ∧
    (((after (.gapMoveHoldReached 0 3) copied).basin 0).row 3).kindOf 31 = some .spare := by decide +kernel

/-- Self-test runs with its last tile next. -/
def tested : State := { (active.modBasin 0 fun x => { x with maint := { x.maint with nextTest := 7 } }) with
  mgmt := { active.mgmt with bistOn := true, bistOrder := false } }

/-- Its tile is initialized anew and joins its row 2,458 ticks later. -/
def renewing (d : Nat) : State :=
  let t := after (.selfTestComplete 0 true) (after (.selfTestStart 0 true true) tested)
  { t with time := { t.time with now := t.time.now + d } }

theorem test_reinit : ((renewing 0).basin 0).maint.bistState = 3 ∧ ((renewing 0).basin 0).maint.reinitAt = 1000000 ∧
    (((renewing 2457).reinitTick 0).basin 0).maint.bistState = 3 ∧ (((renewing 2458).reinitTick 0).basin 0).maint.bistState = 0 ∧
    ((((renewing 2458).reinitTick 0).basin 0).row 3).kindOf 33 = some .spare := by decide +kernel

def testing : State := after (.selfTestStart 0 true true) tested

theorem test_self_test : tested.mgmt.bistOn = true ∧ (tested.basin 0).maint.bistState = 0 ∧ ((tested.basin 0).row 3).kindOf 33 = some .spare ∧
    (testing.basin 0).maint.bistState = 2 ∧ ((testing.basin 0).row 3).kindOf 33 = some .test ∧
    ((after (.selfTestComplete 0 true) testing).basin 0).maint.bistState = 3 ∧
    ((after (.selfTestLimitCheck 0 true false) testing).basin 0).maint.skipped = 1 ∧
    ((after (.selfTestStart 0 true true) active).basin 0).maint.bistState = 0 := by decide +kernel

theorem test_tile_failure : ((active.basin 0).row 0).kindOf 33 = some .spare ∧ ((active.basin 0).row 0).failures = 0 ∧
    ((after (.tileFailure 33 false) active).basin 0).st.state = .serving ∧
    ((after (.tileFailure 0 true) active).basin 0).st.cause = .spares ∧
    ((after (.tileFailure 33 false) (active.modBasin 0 fun x => { x with
      rowmap := [(0, { RowMap.fresh with failures := 2 })] })).basin 0).st.cause = .spares := by decide +kernel

def ladder (a b c : Bool) : LineLadder := ⟨a, b, c⟩

theorem test_lpddr : (Basin.badWordsOf ((active.basin 0).lookLine active.basinLines 0 (512 * 0x7FFFF + 511))).isEmpty = true ∧
    ((after (.lpddrReread 0 0 0x7FFFF 511 .weight (ladder true true true)) active).basin 0).par.transient = 1 ∧
    ((after (.lpddrReread 0 0 0x7FFFF 511 .weight (ladder false true true)) active).basin 0).par.reload = 1 ∧
    ((after (.lpddrReread 0 0 0 0 (.tokenLog 0) (ladder false true true)) (withEntry decodes active)).entry 0).status = .parityUnrecovered := by
  decide +kernel

theorem test_chunk : active.storedParts 0 0 0 95 = [] ∧ ((active.basin 0).ctx 0).exist = true := by decide +kernel

/-- Tile 0's scrub is due. -/
def scrubs : State := active.modTile 0 fun x => { x with maint := { x.maint with scrubDue := 1000000 } }

theorem test_scrub : ((after (.scrubPass 0) scrubs).tile 0).maint.scrubDue = 2600000 ∧ active.shareOwner 0 0 = some 0 ∧
    active.inDynamic 0 0 4 = false ∧ ((after (.scrubError 0 0 true) active).basin 0).par.transient = 1 ∧
    ((after (.scrubError 0 0 false) active).tile 0).maint.named = true := by decide +kernel

/-- LOCK reaches a fenced basin, and again one that has reported DRAINED. -/
def fencedMember : State := active.modBasin 0 fun x => { x with st := { x.st with state := .fenced }, genTable := [(1, 3)] }

def reported : State := (locking .drained).modBasin 0 fun x => { x with part := { x.part with reported := true } }

theorem test_lock_elsewhere : (twoDevices fencedMember).ordinal 0 = some 0 ∧ (twoDevices fencedMember).keeperOrdinal 0 = some 1 ∧
    (after (.lock 0 999000 1000500 [some 1] 0) (twoDevices fencedMember)).msgs.map (fun m => m.msg) = [.lockAck 0 false] ∧
    ((after (.lock 0 999000 1000500 [some 1] 0) (twoDevices fencedMember)).basin 0).part = LockPart.fresh ∧
    (after (.lock 0 999000 1000000 [some 1] 0) reported).msgs.map (fun m => m.msg) = [.lockAck 0 false, .drained 0 false] ∧
    ((after (.lock 0 999000 1000500 [some 1] 0) reported).basin 0).cut.lockState = .running := by decide +kernel

/-- The cache holds the line dirty: it is not read again from LPDDR5X. -/
def dirtyLine : State := active.modBasin 0 fun x => x.setWay 5 0 { LcLine.fresh with
  ctx := 0, line := 5, dirty := true, bytes := List.replicate 128 1, par := 0xFFFFFFFF }

theorem test_dirty_reread : (dirtyLine.basin 0).cached 0 5 = some 0 ∧ ((dirtyLine.basin 0).way 5 0).dirty = true ∧
    ((after (.lpddrReread 0 0 0 5 .weight (ladder true true true)) dirtyLine).basin 0).cached 0 5 = some 0 := by decide +kernel

/-! ### Fences and recovery -/

def modSt (f : Status15 → Status15) (s : State) : State := s.modBasin 0 fun x => { x with st := f x.st }

/-- A step that started at tick `t` at full duty. -/
def startedAt (t : Nat) : State := steps.modBasin 0 fun x => { x with pounds := x.pounds.map fun p => (p.1, { p.2 with startTick := t }) }

theorem test_step_overdue : ((startedAt 0).basin 0).pounds.map (fun p => (p.2.running, p.2.startDuty)) = [(true, 256)] ∧
    (startedAt 0).power.inputLow = false ∧ max (4 * (startedAt 0).drainTicks 0) 1000000 = 1000000 ∧
    ((after (.stepOverdue 0 0) (startedAt 0)).basin 0).st.cause = .stepTimeout ∧
    ((after (.stepOverdue 0 0) (startedAt 1)).basin 0).st.state = .serving := by decide +kernel

/-- The lockage began at tick `t`. -/
def lockedAt (t : Nat) : State := (locking .locking).modBasin 0 fun x => { x with part := { x.part with tLock := some t } }

theorem test_lock_drain_timeout : ((after (.lockDrainTimeout 0) (lockedAt 0)).basin 0).st.cause = .lockDrain ∧
    ((after (.lockDrainTimeout 0) (lockedAt 1)).basin 0).st.state = .serving := by decide +kernel

theorem test_gen : (active.basin 0).st.state = .serving ∧ ((after (.gen 0 3 0) active).basin 0).st.held = true ∧
    ((after (.gen 0 3 7) active).basin 0).genTable = Tbl.set 0 3 7 (active.basin 0).genTable := by decide +kernel

/-- A fenced basin whose drain has yet to end; one whose drain has ended. -/
def drains : State := modSt (fun x => { x with state := .fenced, cause := .stepTimeout, draining := true, resetDue := true }) active
def fenced0 : State := modSt (fun x => { x with draining := false }) drains

theorem test_fence_drain_end : (drains.basin 0).st.draining = true ∧ (drains.basin 0).eng.slots = [] ∧
    ((after (.fenceDrainEnd 0 true) drains).basin 0).st.draining = false ∧ (fenced0.basin 0).st.draining = false := by decide +kernel

theorem test_crash_dump : dumpCause .stepTimeout = true ∧ dumpCause .operator = false ∧ (fenced0.basin 0).st.dumped = false ∧
    ((after (.crashDump 0 []) fenced0).dumps.current.map fun d => (d.cause, d.basins)) = some (.stepTimeout, 1) := by decide +kernel

/-- A dump that the engine writes. -/
def dump0 : Dump := { cause := .operator, basins := 1, device := false, failover := false, tick := 5, units := [(1, 0, 4, 0)], images := [[1, 2, 3, 4]] }

def dumping : State := { active with dumps := { active.dumps with current := some dump0 } }

theorem test_dump_timeout : dump0.images.length = dump0.units.length ∧ active.dumps.current = none ∧
    ((after (.dumpReadTimeout 1 0) dumping).dumps.current.map fun d => d.units.map fun u => decide (u.2.2.2 = 0)) = some [false] ∧
    ((after (.dumpReadTimeout 1 1) dumping).dumps.current.map (·.units)) = some [(1, 0, 4, 0)] := by decide +kernel

/-- A pound of the slice has a fault. -/
def faulty : State := steps.modBasin 0 fun x => { x with pounds := x.pounds.map fun p => (p.1, { p.2 with fault := some .unit }) }

theorem test_teardown : faulty.sliceFault 0 = some .unit ∧ active.sliceFault 0 = none ∧ (faulty.basin 0).activeShare.isSome = true ∧
    ((faulty.basin 0).ctx 0).tears = [] ∧ (faulty.basin 0).running = some 0 ∧ (faulty.basin 0).st.torn = none ∧
    (∀ e ∈ (faulty.basin 0).eng.slots, e.2.hdr.ctx.val = 0 → e.2.hdr.cls = .background) := by decide +kernel

/-- The dump is made; `n` resets count. -/
def resets (n : Nat) : State := modSt (fun x => { x with dumped := true, window := BitVec.ofNat 8 n }) fenced0

theorem test_basin_reset : (resets 0).pins.memPg = true ∧ ((resets 0).basin 0).st.retireDue = false ∧
    ((after (.basinReset 0 true [] []) (resets 0)).basin 0).st.state = .init ∧
    ((after (.basinReset 0 true [] []) (resets 3)).basin 0).st.cause = .escalation ∧
    ((after (.basinReset 0 true [] []) fenced0).basin 0).st.state = .fenced := by decide +kernel

theorem test_basin_reset_offline : (∀ r : BitVec 2, r.toNat ≤ (resets 0).memDev.speed.toNat → ((1 : Fin 4), r) ∈ [((1 : Fin 4), (0 : BitVec 2)), (1, 1), (1, 2), (1, 3)]) ∧
    ((after (.basinReset 0 true [] [(1, 0), (1, 1), (1, 2), (1, 3)]) (resets 0)).basin 0).st.state = .offline ∧
    ((after (.basinReset 0 true [] []) (modSt (fun x => { x with thermalDue := true }) (resets 2))).basin 0).st.cause = .thermal := by decide +kernel

/-- One reset is 15 minutes old, one a tick younger. -/
def old2 : State := modSt (fun x => { x with window := 2, resets := [0, 1] }) { active with time := { active.time with now := 90000000000 } }

theorem test_reset_window : ((after (.resetWindowDecay 0) old2).basin 0).st.window = 1 ∧
    ((after (.resetWindowDecay 0) old2).basin 0).st.resets = [1] := by decide +kernel

/-- The basin is in INIT and restores. -/
def inits : State := modSt (fun x => { x with state := .init, restoring := true }) active

theorem test_restoration : (inits.ordinal 0).isSome = true ∧ (inits.basin 0).maint.excluded = 0 ∧
    ((after (.restorationComplete 0 true []) inits).basin 0).st.state = .serving ∧
    ((after (.restorationComplete 0 false []) inits).basin 0).st.held = true ∧
    ((after (.rehydration 0 true) { inits with pins := { inits.pins with step := 11 } }).basin 0).st.restoring = false ∧
    ((after (.restorationComplete 0 true []) active).basin 0).st.state = .serving := by decide +kernel

theorem test_dump_copy : (after .dumpCopy dumping).dumps.flash.length = 1 ∧ (after .dumpCopy active).dumps.flash = [] := by decide +kernel

/-- The wharf's link 95 is active towards a partner that is no device. -/
def wharf : State := { active with
  dumps := { active.dumps with flash := [dump0] }
  fab := { active.fab with links := [(95, { Link.fresh with st := .active, partnerValid := false })] } }

theorem test_dump_export : (wharf.link 95).st = .active ∧ (wharf.link 95).partnerValid = false ∧ (active.link 95).st ≠ .active ∧
    (after .dumpExport wharf).dumps.exported = [dump0] ∧
    ((after .dumpExport wharf).msgs.any fun m => decide (m.dest = .link 95) && decide (m.msg = .dump 5)) = true := by decide +kernel

/-- Start-up that finds everything good. -/
def good : StartIn where
  supplyOk := true
  memPg := true
  railsOk := true
  romOk := true
  bootOk := false
  fallbackOk := true
  operatorBad := []
  otherSlot := []
  imagesOk := true
  mgmtStarts := true
  nandFailed := []
  memSpeed := 3
  memDensity := 1
  memRanks := 0
  flsSpeed := 2
  flsTargets := 1
  flsLuns := 1
  flsGeometry := { pageBytes := 16384, planes := 4, qlc := false, blockBytes := 4194304, goodBlocks := [8, 8] }
  towpathUp := []
  switchUp := []
  timeSource := true
  tickAtEnd := 1000000
  ethUp := true
  lpddrFailed := []
  pprDone := []
  ms := 5

/-- A warm reset is due. -/
def warmDue : State := { active with mgmt := { active.mgmt with warmDue := some 1000000 } }

theorem test_device_warm_reset : warmDue.mgmt.warmDue = some 1000000 ∧ warmDue.time.locked = true ∧ warmDue.pins.memPg = true ∧
    active.mgmt.warmDue = none ∧ good.romOk = true ∧ warmDue.loaderOf good = some true ∧ good.mgmtStarts = true ∧ good.imagesOk = true ∧ good.nandFailed = [] := by decide +kernel

theorem test_failover : (after .watchdogFailover active).mgmt.core = 1 - active.mgmt.core ∧ (after .watchdogFailover active).ep.pause = true ∧
    (after .watchdogFailover active).mgmt.oos = false ∧
    (after .watchdogFailover { active with mgmt := { active.mgmt with failovers := [999999] } }).mgmt.oos = true := by decide +kernel

theorem test_handover : (slow.image 1).st = .activating ∧ slow.mgmt.activating = true ∧
    (after (.mgmtHandover true) slow).mgmt.core = 1 - slow.mgmt.core ∧ ((after (.mgmtHandover false) slow).image 1).st = .failed ∧
    (active.image 1).st ≠ .activating := by decide +kernel

theorem test_new_standby : ((after (.mgmtHandover true) slow).image 1).st = .activating ∧ ((after (.mgmtHandover true) slow).image 1).burning = false ∧
    ((after .newStandbyStarted (after (.mgmtHandover true) slow)).image 1).burning = true := by decide +kernel

/-- An image activation for basin 0 waits for its lockage. -/
def armedImage : State := (locking .locking).modBasin 0 fun x => { x with imageArmed := true }

theorem test_basin_image : (armedImage.modBasin 0 fun y => { y with imageArmed := false }).drained 0 = true ∧
    ((after (.basinImageStart 0 true) armedImage).basin 0).image = true ∧ ((after (.basinImageStart 0 false) armedImage).image 2).st = .failed ∧
    (active.basin 0).imageArmed = false := by decide +kernel

/-- The flash controller's image activates. -/
def flashImage : State := active.modImage 3 fun x => { x with st := .activating, staged := 7 }

theorem test_flash_image : (flashImage.image 3).burning = false ∧ ((after .flashImageSwitch flashImage).image 3).running = 7 ∧
    ((after .flashImageSwitch flashImage).image 3).burning = true := by decide +kernel

/-- A basin that waits in READY for its restoration. -/
def waitsReady : State := modSt (fun x => { x with state := .ready, restoring := true }) active

theorem test_ready_restoration : ((after (.restorationComplete 0 true []) waitsReady).basin 0).st.state = .serving ∧
    ((after (.restorationComplete 0 false []) waitsReady).basin 0).st.held = true := by decide +kernel

/-! ### Dredge windows and lanes -/

/-- Basin 0 with an open memory channel 0. -/
def opened : State := active.modChan 0 fun c => { c with st := .open }

/-- Basin 0 is outside its window (phase 100), with FORCE_DREDGE for it in slot 15. -/
def forced : State := (active.modBasin 0 fun x => { x with maint := { x.maint with phase := 100 } }).setPerturb 15 { Perturb.fresh with
  active := true, kind := 5, session := 1, target := 0, amount := 0, left := 0xFFFFFFFF }

/-- The window that opened at tick `t`. -/
def openWindow (t : Nat) (extra : Bool) (phase : BitVec 8) : State := active.modBasin 0 fun x => { x with
  maint := { x.maint with open_ := true, openAt := t, extra := extra, phase := phase } }

theorem test_dredge_open : active.inWindow 0 = true ∧ (active.basin 0).maint.open_ = false ∧ active.recheckList 0 = [] ∧
    ((after (.dredgeWindowOpen 0 none) active).basin 0).maint.open_ = true ∧ ((after (.dredgeWindowOpen 0 none) opened).chan 0).st = .closed ∧
    (opened.chan 0).st = .open ∧ forced.inWindow 0 = false ∧ forced.extraWindow 0 = some 15 ∧
    ((after (.dredgeWindowOpen 0 none) forced).basin 0).maint.extra = true := by decide +kernel

theorem test_router_fails : active.routerTested 0 = some 0 ∧
    ((after (.dredgeWindowOpen 0 (some true)) active).basin 0).st.cause = .spares ∧
    ((after (.dredgeWindowOpen 0 (some true)) active).basin 0).maint.routerTile = 1 ∧
    ((after (.dredgeWindowOpen 0 (some false)) active).basin 0).st.state = .serving := by decide +kernel

theorem test_dredge_close : ((after (.dredgeWindowClose 0) (openWindow 1000000 false 0)).basin 0).maint.open_ = true ∧
    ((after (.dredgeWindowClose 0) (openWindow 1000000 false 100)).basin 0).maint.open_ = false ∧
    ((after (.dredgeWindowClose 0) (openWindow 998000 true 100)).basin 0).maint.open_ = false ∧
    ((after (.dredgeWindowClose 0) (openWindow 998001 true 100)).basin 0).maint.open_ = true := by decide +kernel

def calibrates : State := after (.dredgeWindowOpen 0 none) opened

theorem test_calibration : ((after (.lpddrCalibrationDone 0 true) calibrates).chan 0).st = .open ∧
    ((after (.lpddrCalibrationDone 0 false) calibrates).basin 0).st.cause = .channel ∧ (opened.chan 0).st ≠ .closed := by decide +kernel

/-- All mesh links of lane 0 are active; 30 s after the last recalibration a window opens. -/
def lanes (now : Nat) : State := { (openWindow now false 0) with
  time := { active.time with now := now }
  fab := { active.fab with links := (List.range 96).map fun n => (n, { Link.fresh with st := .active }) } }

theorem test_lane : (lanes 3000000000).removable 0 = true ∧ ((lanes 3000000000).link 0).st = .active ∧
    ((after .laneRecalibration (lanes 3000000000)).link 0).st = .leaving ∧ (after .laneRecalibration (lanes 2999999999)).fab.laneNext = 0 := by
  decide +kernel

/-- Link 0 in a state since tick `t`. -/
def linkAt (l : LinkSt) (t : Nat) : State := { active with fab := { active.fab with links := [(0, { Link.fresh with st := l, since := t })] } }

theorem test_link_timers : ((after (.leavingExpiry 0) (linkAt .leaving 998000)).link 0).st = .cal ∧
    ((after (.leavingExpiry 0) (linkAt .leaving 998001)).link 0).st = .leaving ∧
    ((after (.calComplete 0) (linkAt .cal 998001)).link 0).st = .active ∧ ((after (.calComplete 0) (linkAt .down 998001)).link 0).st = .down ∧
    ((after (.calTimeout 0) { linkAt .cal 0 with time := { active.time with now := 3000000 } }).link 0).st = .failed ∧
    ((after (.calTimeout 0) { linkAt .cal 1 with time := { active.time with now := 3000000 } }).link 0).st = .cal := by decide +kernel

/-! ### Fabric -/

def headFlit : LinkHdr := { type := .head, seq := 0, ack := 0, nak := false, vc := 0, creditVc := 0, credits := 0 }

/-- Link 0 is up, and its partner asks for the same flit a fourth time. -/
def asked : State := { active with fab := { active.fab with links := [(0, { Link.fresh with st := .active, resentSame := 3 })] } }

theorem test_flit_receive : ((after (.flitReceive 0 headFlit true 2) (linkAt .active 0)).link 0).rxSeq = 1 ∧
    ((after (.flitReceive 0 headFlit true 2) (linkAt .active 0)).link 0).corrected = 2 ∧
    ((after (.flitReceive 0 headFlit false 0) (linkAt .active 0)).link 0).nakOut = true ∧
    ((after (.flitReceive 0 { headFlit with nak := true } true 0) asked).link 0).st = .failed ∧ ackFlits [] 0 = [] := by decide +kernel

theorem test_link_failure : ((after (.linkFailure 0) (linkAt .active 0)).link 0).st = .failed ∧
    ((after (.linkFailure 0) (linkAt .down 0)).link 0).st = .down := by decide +kernel

/-- Link 84 failed a second and less than a second ago. -/
def retrains (t : Nat) : State := { active with
  time := { active.time with now := 200000000 }
  fab := { active.fab with links := [(84, { Link.fresh with st := .failed, since := t })] } }

theorem test_link_training : ((after (.linkRetrain 84) (retrains 100000000)).link 84).attempts = 1 ∧
    ((after (.linkRetrain 84) (retrains 100000001)).link 84).st = .failed ∧ ((retrains 0).link 84).admin ≠ 1 ∧
    ((after (.partnerSignalReturn 84) (retrains 100000001)).link 84).st = .training ∧
    ((after (.linkTrainingComplete 84 7) (after (.linkRetrain 84) (retrains 0))).link 84).partner = 7 ∧
    ((after (.linkTrainingComplete 84 7) (after (.linkRetrain 84) (retrains 0))).fab.ignored.contains 84) =
      decide ((retrains 0).neighbourPos 84 ≠ 7) := by decide +kernel

def masked : State := after (.mask 3 5 9) active

theorem test_mask : (Tbl.get PeerMask.fresh 3 masked.fab.peers).live = 9 ∧
    (Tbl.get PeerMask.fresh 3 (after (.mask 3 5 1) masked).fab.peers).live = 9 ∧
    (Tbl.get PeerMask.fresh 3 (after (.mask 3 6 1) masked).fab.peers).live = 1 := by decide +kernel

/-- Position 0 with its towpath links up. -/
def towpath : State := { active with fab := { active.fab with
  valid := true, position := 0, links := (List.range 6).map fun k => (84 + k, { Link.fresh with st := .active }) } }

theorem test_towpath : (towpath.towHop 1).isSome = true ∧ active.towHop 1 = none ∧
    (after (.towpathForward 1) towpath).msgs.map (·.dest) = [.device 1] := by decide +kernel

/-! #### Grants -/

/-- A barge of basin 1 to the column of tile 0. -/
def incoming : BargeHdr := { barge with src := .sram 1 0 0, dst := .sram 0 0 523264, origin := 1, slot := 2 }

def grant : GrantP where
  dstBasin := 0
  srcPos := 0
  srcBasin := 1
  sliceId := 5
  code := 0
  resend := 0
  grant := 0
  grants := 1
  generation := 1
  epoch := 0
  barge := incoming
  data := List.replicate 64 9
  queueFlits := []
  parityOk := true

/-- Basin 0 and basin 1 are one slice, basin 0 runs context 0. -/
def pair : State :=
  let s := (running pnd).modBasin 0 fun x => { x with genTable := [(1, 1)] }
  { s with fab := { s.fab with members := [(5, [(0, 0), (0, 1)])] } }

theorem test_grant_refused : (pair.basin 0).sliceId = 5 ∧ pair.ordinal 0 = some 0 ∧ (0, 1) ∈ pair.membersOf 5 ∧ (0, 2) ∉ pair.membersOf 5 ∧
    (after (.grantArrival { grant with srcBasin := 2 }) pair).fab.refused = 1 ∧
    (after (.grantArrival { grant with sliceId := 6 }) pair).fab.refused = 1 := by decide +kernel

theorem test_grant_code : ctrlCode 0x22 = false ∧ ctrlCode 0x20 = true ∧ (after (.grantArrival { grant with code := 0x22 }) pair).fab.refused = 1 ∧
    (after (.grantArrival { grant with code := 0x20 }) pair).fab.refused = 0 ∧
    ((after (.grantArrival { grant with code := 0x20 }) pair).tile 0).mem.column = [] := by decide +kernel

theorem test_grant_lands : pair.destCheck 0 { incoming with generation := 1, epoch := 0 } [incoming] = .ok ∧ pair.moveWaits 0 incoming.dst = false ∧
    Memory.read ((after (.grantArrival grant) pair).tile 0).mem.column 523264 2 = [9, 9] ∧
    ((after (.grantArrival { grant with parityOk := false }) pair).msgs.map (·.msg)) = [.gnak 2 0] ∧
    Tbl.get Landing.fresh (1 * 1024 + 2) (pair.basin 0).eng.landings = Landing.fresh := by decide +kernel

/-- Slot 2 of basin 0 sends two grants to basin 1 of another device. -/
def sendSlot : BargeSlot :=
  { BargeSlot.fresh with hdr := { barge with dst := .sram 1 0 0, slot := 2 }, remote := true, grants := 2, sendTick := 998000, tow := 1 }

def sends : State := pair.modBasin 0 fun x => { x with eng := { x.eng with
  slots := [(2, sendSlot)], tows := [(0, [⟨tow, [], 1, 0, none, false, false, 1⟩])] } }

def far : State := { sends with fab := { sends.fab with members := [(5, [(0, 0), (1, 0)])], valid := true } }

theorem test_gack : ((after (.gack 0 2 0 0) sends).basin 0).eng.slots.map (fun e => e.2.acked) = [[0]] ∧ sends.startable 0 0 = 0 ∧
    Tbl.get BargeSlot.fresh 2 ((after (.gack 0 2 0 1) sends).basin 0).eng.slots = BargeSlot.fresh := by decide +kernel

theorem test_gnak : far.grantOpen 0 2 1 = true ∧ far.grantOpen 0 2 2 = false ∧ far.remotePos (.member 5 1) = some 1 ∧
    (after (.gnak 0 2 1) far).fab.resent = 1 ∧ (after (.grantResendTimeout 0 2 1) far).fab.resent = 1 ∧
    (after (.grantResendTimeout 0 2 1) { far with time := { far.time with now := 999999 } }).fab.resent = 0 := by decide +kernel

theorem test_refuse : ((after (.refuse 0 2) sends).basin 0).eng.tows.map (fun e => e.2.map (·.first)) = [[some .unitFault]] := by decide +kernel

theorem test_qcredit : Tbl.get 0 0 (((after (.qcredit 0 0 0 9) (queues 1 [])).basin 0).pound 0).credits = 4 := by decide +kernel

/-- Queue 0 comes from another device. -/
def fromFabric : State := (queues 1 []).modBasin 0 fun x => { x with queues := x.queues.map fun q => (q.1, { q.2 with producer := 0xFF }) }

theorem test_qcredit_timer : (fromFabric.queueOf 0 0).owed = 1 ∧ ((after (.qcreditTimer 0 0) fromFabric).queueOf 0 0).owed = 0 ∧
    (after (.qcreditTimer 0 0) fromFabric).msgs.map (·.msg) = [.qcredit 0 1] ∧ ((queues 1 []).queueOf 0 0).producer ≠ 0xFF := by decide +kernel

/-! ### Rack time (frames with the CRC-8 of Table 17.1, computed outside the model) -/

/-- The port lost `n` markers. -/
def markers (n : Nat) : State := { up with time := { up.time with missRun := n } }

theorem test_tsync_miss : frameOk 0xA5 0x200000 67 = true ∧ frameOk 0xA5 0x200000 66 = false ∧ frameOk 0xA4 0x200000 67 = false ∧
    up.onPort = true ∧ up.towpathSource = none ∧ (after (.tsyncFrame 0xA4 0x200000 67) (markers 2)).time.missRun = 3 ∧
    (after (.tsyncFrame 0xA4 0x200000 67) (markers 3)).time.holdover = true := by decide +kernel

/-- No time source is locked; a frame was received. -/
def acquires : State := { up with time := { up.time with source := 0, locked := false, frame := some 0x200000 } }

theorem test_tsync_load : (after (.tsyncFrame 0xA5 0x200000 67) up).time.slips = 1 ∧ (after (.tsyncFrame 0xA5 0x200000 67) up).time.now = 0x200000 ∧
    (after (.tsyncFrame 0xA5 1000000 241) up).time.slips = 0 ∧ acquires.onPort = false ∧
    (after (.tsyncFrame 0xA5 0x300000 225) acquires).time.now = 0x300000 ∧ (after (.tsyncFrame 0xA5 0x300000 225) acquires).time.locked = true ∧
    (after (.tsyncFrame 0xA5 0x200000 67) acquires).time.locked = false := by decide +kernel

/-- The device follows link 84; the partner of link 84 has rack time at two hops. -/
def follows : State := { up with time := { up.time with source := 2, lockedTo := some 84, hops := 3 } }

def peered : State := { up with
  time := { up.time with peers := [(84, 2)] }
  fab := { up.fab with links := [(84, { Link.fresh with st := .active })] } }

theorem test_tclk_loss : peered.towpathSource = some (84, 2) ∧ (after .tclkLoss peered).time.hops = 3 ∧ (after .tclkLoss peered).time.source = 2 ∧
    (after .tclkLoss up).time.holdover = true ∧ (after .tclkLoss acquires).time.missRun = 4 ∧ (after .tclkLoss follows).time.missRun = 4 := by decide +kernel

theorem test_time : (after (.time 84 2000000 4 7) follows).time.now = 2000007 ∧ (after (.time 84 2000000 4 7) follows).time.hops = 5 ∧
    (after (.time 84 2000000 4 7) up).time.now = 1000000 := by decide +kernel

/-- Holdover since tick `t`. -/
def heldOver (t : Nat) : State := { up with time := { up.time with now := 100000000, holdover := true, lostAt := t } }

theorem test_holdover : (after .holdover (heldOver 0)).time.unsync = true ∧ (after .holdover (heldOver 1)).time.unsync = false ∧
    up.time.holdover = false := by decide +kernel

/-! ### Power, temperature, input -/

/-- A device in service at a cap of 500 W, its power boundary 10 ahead of tick 1,000,000 or one behind. -/
def powered (boundary : Nat) : State := { up with power := { up.power with
  boundary := boundary, capC := wattUnits 500, target := wattUnits 500, capE := wattUnits 500, tj := 400 } }

theorem test_power_boundary : (after .powerBoundary (powered 10)).power.boundary = 10 ∧ (after .powerBoundary (powered 9)).power.boundary = 10 ∧
    (after .powerBoundary { powered 9 with power := { (powered 9).power with shed := true } }).power.capE = wattUnits 300 ∧
    (after .powerBoundary { powered 9 with power := { (powered 9).power with tj := 1000, tau := 60 } }).power.tau = 55 := by decide +kernel

/-- A plan of one step at tick `t`. -/
def planned (t : Nat) : State := { powered 10 with power := { (powered 10).power with plan := [⟨t, wattUnits 400, 7⟩] } }

theorem test_plan_step : (after .planStep (planned 1000000)).power.target = wattUnits 400 ∧ (after .planStep (planned 1000000)).power.slew = 7 ∧
    (after .planStep (planned 1000001)).power.plan.length = 1 ∧
    (after .planStep { planned 0 with power := { (planned 0).power with safe := true, safeCap := wattUnits 350 } }).power.target =
      wattUnits 350 := by decide +kernel

theorem test_shed : (after .shedFall (powered 10)).power.capE = wattUnits 300 ∧ (after .shedFall (powered 10)).power.shed = true ∧
    (after .shedRise (after .shedFall (powered 10))).power.shed = false ∧ (after .shedRise (powered 10)).power.shed = false ∧
    (after .shedRise (after .shedFall (powered 10))).power.capE = wattUnits 300 := by decide +kernel

/-- The last heartbeat was at tick 0. -/
def silent (now : Nat) : State := { powered 0 with
  time := { up.time with now := now }
  power := { (powered 0).power with heartbeat := 0, safeCap := wattUnits 350 } }

theorem test_heartbeat : (silent 0).inService = true ∧ (after .rmLost (silent 100000000)).power.rmLost = true ∧
    (after .rmLost (silent 99999999)).power.rmLost = false ∧ (after .safeCap (silent 6000000000)).power.target = wattUnits 350 ∧
    (after .safeCap (silent 5999999999)).power.safe = false ∧ State.reset.inService = false := by decide +kernel

def eight (x : Int) : List Int := x :: List.replicate 7 300

theorem test_thermal : (inState .serving up).hotBasins = [] ∧ (after (.thermalSample (eight 1000) 300) up).power.thermal = 2 ∧
    (after (.thermalSample (eight 919) 300) up).power.thermal = 0 ∧
    ((after (.thermalSample (eight 1100) 300) (inState .serving up)).basin 0).st.cause = .thermal ∧
    ((after (.thermalSample (eight 1099) 300) (inState .serving up)).basin 0).st.state = .serving := by decide +kernel

/-- Basin 0 is fenced by temperature and cool since tick `t`. -/
def cools (t : Nat) : State :=
  let s := modSt (fun x => { x with state := .fenced, cause := .thermal }) up
  { s with time := { s.time with now := 100000000 }, power := { s.power with coolSince := [(0, t + 1)] } }

theorem test_thermal_release : ((after (.thermalRelease 0) (cools 0)).basin 0).st.released = true ∧
    ((after (.thermalRelease 0) (cools 1)).basin 0).st.released = false := by decide +kernel

/-- Channel 0 is open and the rails are on. -/
def railsOn : State := { opened with pins := { opened.pins with rails := true, vinOk := true } }

theorem test_input_low : (after .inputLow railsOn).power.inputLow = true ∧ ((after .inputLow railsOn).chan 0).st = .selfRefresh ∧
    ((after .inputRestored (after .inputLow railsOn)).chan 0).st = .open ∧
    (after .inputRestored (after .inputLow railsOn)).power.capE = wattUnits 260 ∧ (after .inputRestored railsOn).pins.vinOk = true ∧
    (after .inputLow { railsOn with pins := { railsOn.pins with step := 5 } }).pins.rails = false := by decide +kernel

/-! ### Pins, start-up -/

theorem test_mem_pg : (after .memPgFall up).pins.memPg = false ∧ ((after .memPgFall { inState .serving railsOn with tiles := [] }).basin 0).st.cause = .channel ∧
    (after .memPgRise { up with pins := { up.pins with step := 11, lpddrReset := true } }).pins.lpddrReset = false ∧
    (after .memPgRise { up with pins := { up.pins with step := 10, lpddrReset := true } }).pins.lpddrReset = true := by decide +kernel

theorem test_i3c_address : up.inService = true ∧ (after (.i3cDynamicAddress 9) up).pins.i3cAddr = some 9 ∧
    (after (.i3cDynamicAddress 9) State.reset).pins.i3cAddr = State.reset.pins.i3cAddr := by decide +kernel

theorem test_eth_link : (after .ethLinkLoss up).eth.st = 1 ∧ (after (.ethTrainingComplete up.eth.mode) (after .ethLinkLoss up)).eth.st = 2 ∧
    (after (.ethTrainingComplete (up.eth.mode + 1)) (after .ethLinkLoss up)).eth.st = 1 := by decide +kernel

/-- Standby power is on, no rail. -/
def standby : State := { State.reset with pins := { State.reset.pins with
  rails := false, pgRail := false, memPg := false, vinOk := false, step := 0 } }

theorem test_start_up_supplies : standby.pins.rails = false ∧ standby.pins.recovery = false ∧ standby.pins.halted = false ∧ standby.pins.sysRst = false ∧
    standby.pins.step.toNat < 11 ∧ standby.pins.failed ≠ 3 ∧ (after (.startUp { good with memPg := false }) standby).pins.rails = false ∧
    (after (.startUp { good with railsOk := false }) standby).pins.failed = 3 ∧ (after (.startUp { good with romOk := false }) standby).pins.failed = 4 := by
  decide +kernel

theorem test_start_up_images : (after (.startUp { good with fallbackOk := false }) standby).pins.failed = 5 ∧
    (after (.startUp { good with imagesOk := false }) standby).pins.recovery = true ∧
    (after (.startUp { good with nandFailed := [(0, 0), (0, 1), (0, 2)] }) standby).pins.halted = true := by decide +kernel

/-- The rails failed twice, or SYS_RST_N is low. -/
def retried : State := { standby with pins := { standby.pins with failed := 3, attempts := 2 } }
def resetLow : State := { standby with pins := { standby.pins with sysRst := true } }

theorem test_rail_retry : (after (.railRetry { good with railsOk := false }) retried).pins.halted = true ∧
    (after (.railRetry { good with railsOk := false }) { retried with pins := { retried.pins with attempts := 1 } }).pins.halted = false ∧
    (after (.sysRstRise { good with railsOk := false }) resetLow).pins.sysRst = false ∧
    (after (.sysRstRise { good with romOk := false }) standby).pins.failed = standby.pins.failed := by decide +kernel

theorem test_device_stops : (after .sysRstFall up).pins.rails = false ∧ (after .sysRstFall up).ep.sessions = [] ∧
    (after .inputCollapse up).pins.rails = false ∧ (after .standbySupplyLoss up).time.now = 0 := by decide +kernel

/-! ### Flash -/

/-- Extent 7 lies at the start of superblock 3; two extents were written to the open superblock 5, and a superblock takes 8. -/
def flash0 : State := { up with flash := { up.flash with
  map := [(7, 65536 * 3 + 1)], supers := 10, blockBytes := 4194304, dataBlocks := List.replicate 32 100, openSuper := some (5, 2) } }

def moved7 : Tbl Nat := [(7, 65536 * 5 + 3)]

theorem test_codeword : flash0.superOf 7 = some 3 ∧ flash0.superOf 8 = none ∧ flash0.blockIn 0 3 = 3 ∧ flash0.superAt 0 3 = some 3 ∧
    flash0.superExtents = 8 ∧ flash0.superGood 5 = true ∧
    ((after (.flashCodewordRead (.data 7 0) .hard []) flash0).block 0 3).reads = 1 ∧
    ((after (.flashCodewordRead (.data 7 1) .hard []) (after (.flashCodewordRead (.data 7 0) .hard []) flash0)).block 0 3).reads = 1 ∧
    ((after (.flashCodewordRead (.data 7 0) (.retry 2) []) flash0).block 0 3).reads = 4 := by decide +kernel

theorem test_codeword_moves : (after (.flashCodewordRead (.data 7 0) (.retry 2) []) flash0).flash.map = flash0.flash.map ∧
    (after (.flashCodewordRead (.data 7 0) (.retry 7) []) flash0).flash.map = moved7 ∧
    (after (.flashCodewordRead (.data 7 0) .soft []) flash0).flash.retry = 1 ∧
    ((after (.flashCodewordRead (.data 7 0) .uncorrectable []) flash0).block 0 3).bad = true := by decide +kernel

theorem test_codeword_metadata : flash0.slcBlock 0 100 = true ∧ flash0.slcBlock 0 99 = false ∧
    ((after (.flashCodewordRead (.metadata 0 100 4) .hard []) flash0).block 0 100).page = 5 ∧
    (after (.flashCodewordRead (.metadata 0 100 4) .uncorrectable []) flash0).flash.grownBad = 1 := by decide +kernel

theorem test_bad_block : (flash0.block 0 65535).bad = false ∧
    (after (.grownBadBlock 0 3 []) { flash0 with flash := { flash0.flash with blocks := [(3, { FlashBlock.fresh with bad := true })] } }).flash.grownBad = 0 := by
  decide +kernel

theorem test_extent_move : (after (.extentMove 7 5 true) flash0).flash.map = moved7 ∧ (after (.extentMove 7 5 true) flash0).flash.journal = 1 ∧
    (after (.extentMove 7 5 false) flash0).flash.map = flash0.flash.map ∧ (after (.extentMove 7 10 true) flash0).flash.map = flash0.flash.map := by
  decide +kernel

/-- Block 5 of channel 0 was erased `n` times. -/
def worn (n : Nat) : State := { flash0 with flash := { flash0.flash with blocks := [(5, { FlashBlock.fresh with erases := n })] } }

theorem test_wear : (after (.wearLevel 0 3 5 true) (worn 501)).flash.map = moved7 ∧ (after (.wearLevel 0 3 5 true) (worn 500)).flash.map = flash0.flash.map ∧
    (worn 501).superAt 0 5 = some 5 ∧ (worn 501).extentsIn 3 = [7] ∧ (after (.wearLevel 0 3 5 false) (worn 501)).flash.map = flash0.flash.map := by
  decide +kernel

/-- A block that was read as often as the board's limit. -/
def readOften : State := { flash0 with flash := { flash0.flash with blocks := [(3, { FlashBlock.fresh with reads := Config.boardConfig 0 })] } }

theorem test_read_disturb : Config.boardConfig 0 ≤ (readOften.block 0 3).reads ∧ (readOften.block 0 3).bad = false ∧ readOften.superGood 5 = true :=
  ⟨Nat.le_refl _, rfl, rfl⟩

/-- The extent is of an object in digest mode without a WARM copy. -/
def stale : State := { flash0 with store := { objects := [{ cutObj with
  extents := [7], shards := [(0, { Shard.fresh with acked := true, image := [1] })], mode := 1 }], forward := [] } }

theorem test_patrol : Tbl.get 0 7 (after (.patrolRead 7 [] none []) flash0).flash.patrolled = 1000000 ∧
    (stale.objectAt 7).any (fun o => o.digestMode && !stale.warmGood o 0 && o.shardsIn 0 65536 == [0]) = true ∧
    (after (.patrolRead 7 [] (some 0) []) stale).flash.badExtents = [7] := by
  decide +kernel

theorem test_count_save : (after .ftlCountSave { up with flash := { up.flash with retry := 3, uncorr := 2 } }).flash.savedRetry = 3 := by
  decide +kernel

/-! ### Chains, loads, fills, trace -/

/-- The open object on a chain from link 90 to link 91. -/
def chained : State := { open1 with
  store := { open1.store with objects := open1.store.objects.map fun o => { o with upstream := 0, downstream := 1, source := 2 } } }

theorem test_chain_shard : (chained.object 3 1).any (fun o => headerOk o 0 image && intakeOk o image) = true ∧
    ((after (.chainShard 3 1 0 0 (.shard image)) chained).object 3 1).map (fun o => (o.shard 0).acked) = some true ∧
    (after (.chainShard 3 1 5 0 (.shard image)) chained).msgs.map (·.dest) = [.link 91] ∧ chained.ownOrdinal = 0 := by decide +kernel

/-- The same in digest mode, whose digests the shard does not have. -/
def chainedDigest : State := { chained with
  store := { chained.store with objects := chained.store.objects.map fun o => { o with mode := 1 } } }

theorem test_chain_rerequest : (chainedDigest.object 3 1).any (fun o => !intakeOk o image && decide (o.upstream < 6)) = true ∧
    ((after (.chainShard 3 1 0 0 (.shard image)) chainedDigest).object 3 1).map (fun o => (o.shard 0).rerequests) = some 1 ∧
    (after (.chainShard 3 1 0 0 (.shard image)) chainedDigest).msgs.map (fun m => (m.dest, m.msg)) = [(.link 90, .shardRequest 3 1 0 0 none)] := by
  decide +kernel

/-- The forward buffer has the shard that the next device asks for. -/
theorem test_chain_request : (after (.chainShard 3 1 5 0 (.request none)) (after (.chainShard 3 1 5 0 (.shard image)) chained)).msgs.map (·.dest) =
      [.link 91, .link 91] ∧
    (after (.chainShard 3 1 5 1 (.request none)) chained).msgs.map (fun m => (m.dest, m.msg)) = [(.link 90, .shardRequest 3 1 5 1 none)] := by
  decide +kernel

/-- Ten minutes after STORE_BEGIN. -/
def overtime (n : Nat) : State := { chained with time := { chained.time with now := n } }

theorem test_intake_timeout : (chained.object 3 1).any (fun o => o.opened == 1000000 && o.intakeMs == 600000 && !o.missing.isEmpty) = true ∧
    ((after (.intakeTimeout 3 1) (overtime 60001000000)).object 3 1).map (·.timedOut) = some true ∧
    ((after (.intakeTimeout 3 1) (overtime 60000999999)).object 3 1).map (·.timedOut) = some false := by decide +kernel

theorem test_load_fails : (after (.loadComplete 0 0 3 1 false) loading).residency 0 0 3 1 = .notReady ∧
    (loading.resOf 0 0 3 1).map (fun r => (r.state, r.target, r.replace)) = some (.loading, .warm, false) := by decide +kernel

/-- A MAKE_HOT of the same object has landed. -/
def hot0 : State := after (.loadComplete 0 0 3 1 true) (after (.makeHot hdr2 3 1 0) cold0)

theorem test_load_hot : hot0.residency 0 0 3 1 = .hot ∧ (cold0.basin 0).st.state ≠ .ready := by decide +kernel

/-- Slot 0 of context 0 fills with a cut that the lane does not hold. -/
def fills : State := hot.modBasin 0 fun x => x.modSlot 0 fun k => { k with filling := true, model := 3, edition := 1, cutId := 9 }

theorem test_fill : ((fills.basin 0).slot 0).filling = true ∧ fills.cutPayload 0 0 3 1 9 = none ∧ ((hot.basin 0).slot 0).filling = false ∧
    (fun k : Slot => (k.valid, k.filling)) (((after (.cutFillComplete 0 0 0 true) fills).basin 0).slot 0) = (false, false) := by decide +kernel

/-- A trace of steps of basin 0 runs. -/
def traced : State := { up with trace := { up.trace with sources := 2, basins := 1, armed := true, recording := [(0, true)] } }

theorem test_trace : (Tbl.get [] 0 (after (.traceTrigger 0 1 0 77) traced).trace.buf).map (fun r => (r.tick, r.source, r.data)) = [(1000000, 1, 77)] ∧
    Tbl.get [] 0 (after (.traceTrigger 0 2 0 77) traced).trace.buf = [] ∧ Tbl.get [] 0 (after (.traceTrigger 0 9 0 77) traced).trace.buf = [] := by
  decide +kernel

/-! ### Rules, reset, an invariant -/

/-- A POWER_REPORT of sequence 9 was answered; the same comes again, and another command under its sequence. -/
theorem test_resend : answered.session 1 ≠ none ∧ (∃ x ∈ answered.session 1, ∃ e ∈ answered.cached x 9, e.cmd = .powerReport ∧ x.rx = 5) ∧
    ((after (.powerReport { dev with counter := 6 }) answered).ep.i3c.map fun q => (q.seq, q.status)) = [(9, .ok), (9, .ok)] ∧
    ((after (.timeStatus { dev with counter := 6 }) answered).ep.i3c.map fun q => (q.seq, q.status)) = [(9, .ok), (9, .badParam)] := by
  decide +kernel

/-- The same of a command that still runs (R420). -/
theorem test_resend_running : (loading.session 1).any (fun x => (loading.cached x 11).any fun e => e.reply.isNone) = true ∧
    ((after (.makeWarm { hdr2 with counter := 8 } 3 1) loading).ep.i3c.map (·.status)).getLast? = some .accepted := by decide +kernel

theorem test_store_delete_loading : Starts loading ((loading.session 1).getD op) { dev with counter := 8, seq := 12 } (.storeDelete 3 1) ∧
    (loading.residents 3 1).any (fun r => r.2.2.state == .loading) = true ∧
    (after (.storeDelete { dev with counter := 8, seq := 12 } 3 1) loading).object 3 1 = loading.object 3 1 := by
  unfold Starts; decide +kernel

/-- Tile 102, in the last row of basin 0, issues a ROUTE to the south of what came from the north; basin 1 has another slice. -/
def atBorder : State := (issuing pnd 9 []).modTile 102 fun x => { x with
  core := ((issuing pnd 9 []).tile 0).core
  mem := ((issuing pnd 9 [0x14020000000000]).tile 0).mem
  net := { x.net with
    inq := [(sideCode .north, [(0, flit)])], slots := [(sideCode .south, BitVec.allOnes 64)]
    egress := [⟨{ flit with dstRow := 4 }, 0, 0, 0⟩] } }

theorem test_border_route : nextIs { atBorder with tiles := [(0, atBorder.tile 102)] } (.route .none .none (.side .north) .none .none 0) = true ∧
    atBorder.issues 102 = true ∧ atBorder.neighbour 102 .south = some 136 ∧ atBorder.borderOpen 0 1 = false ∧ (atBorder.basin 0).sliceId = 5 ∧
    ((after (.route 102 1 0 0 none) atBorder).basin 0).drops = 1 ∧
    ((after (.route 102 1 0 0 none) atBorder).tile 102).core.stopped = true := by decide +kernel

/-- A queue that flows over the same border. -/
def queueBorder : State := (atBorder.modBasin 0 fun x => { x with
    queues := [(0, { Queue.fresh with producer := 0, consumer := 16, depth := 4, launch := BitVec.allOnes 64 })] }).modTile 102 fun x => { x with
  net := { x.net with slots := [] } }

theorem test_border_queue : frameCycle queueBorder.now 1 = 1 ∧ queueBorder.leavesBy 102 .south ⟨{ flit with dstRow := 4 }, 0, 0, 0⟩ = true ∧
    (queueBorder.queueOf 0 0).launch.getLsbD 1 = true ∧ (queueBorder.tile 102).given .south 1 = false ∧
    queueBorder.neighbour 136 .north = some 102 ∧ ((after (.queueFlitArrival 136 .north 1 0) queueBorder).basin 0).drops = 1 := by decide +kernel

theorem test_reset_tile_words : ∀ k ∈ [0x100, 0x104, 0x108, 0x10C, 0x110, 0x114, 0x118, 0x11C, 0x120], State.reset.tileWord 1087 k = some 0 := by
  decide +kernel

theorem test_reset_words : State.reset.basinWord 7 0x5C = some 0x2120 ∧ State.reset.basinWord 7 0x80 = some 175 ∧
    State.reset.mgmtWord 0 = some 0x0F000000 ∧ State.reset.mgmtWord 0x110 = some 0x40000000 ∧ State.reset.ethWord 0 = some 0x002E0000 ∧
    State.reset.memWord 0 = some 0x10 ∧ State.reset.fabWord (0x1000 + 16 * 95) = some 0 := by decide +kernel

/-- A word of the WARM copy's context waits for its reload; a line of the token log stays bad. -/
def reloads : State := warm0.modTile 0 fun x => { x with mem := { x.mem with parity := [{ space := .column, word := 16384, transient := false, seen := true }] } }

def stuckLog : State := (decoding false).modBasin 0 fun x => { x with
  dram := { x.dram with par := [(0, 0)] }, ctxs := x.ctxs.map fun c => (c.1, { c.2 with logPages := [(0, [0])] }) }

theorem test_evict_waits : reloads.evictWaits 0 0 3 1 = true ∧ (after (.evict hdr3 3 1) reloads).residency 0 0 3 1 = .warm ∧
    ((after (.evict hdr3 3 1) reloads).ep.running.map (·.cmd)) = [.evict 3 1] := by decide +kernel

theorem test_log_stuck : stuckLog.logStuck 0 3 1 = true ∧ (decoding false).logStuck 0 3 1 = false ∧
    (reply (after (.tokens dev 0 77 1) stuckLog) dev).map (fun r => r.1) = some .parityUnrecovered := by decide +kernel

/-! ### Ill-formed terms, one for each check of WellFormed -/

/-- `n` bytes. -/
def bytes (n : Nat) : List Byte := List.replicate n 0

theorem test_ill_sessions :
    (Instr.openSession dev (bytes 384) []).wellFormed = true ∧ (Instr.openSession dev (bytes 383) []).wellFormed = false ∧
    (Instr.openSession dev (bytes 384) (bytes 1)).wellFormed = false ∧ (Instr.rotateKey dev (bytes 385)).wellFormed = false := by
  decide +kernel

theorem test_ill_commands : (Instr.writeState dev 0 []).wellFormed = false ∧
    (Instr.storeShard dev 0 0 0 0 []).wellFormed = false ∧ (Instr.fwStage dev 0 0 0 []).wellFormed = false ∧
    (Instr.createContext hdr { createP with key := [] }).wellFormed = false ∧ (Instr.selectCut dev [0]).wellFormed = false ∧
    (Instr.submit hdr { submitP with tokens := [] }).wellFormed = false ∧ (Instr.append dev ⟨0, 77, 0, 0, []⟩).wellFormed = false := by
  decide +kernel

theorem test_ill_plans : (Instr.setRoutes dev [0] 0).wellFormed = false ∧ (Instr.setSlice hdr 0 []).wellFormed = false ∧
    (Instr.setRampPlan dev 0 []).wellFormed = false ∧ (Instr.attest dev []).wellFormed = false := by decide +kernel

theorem test_ill_carriage : (Instr.rinzanPacket .ethernet 0 ⟨0, 0⟩ (bytes 9147)).wellFormed = false ∧
    (Instr.rinzanPacket .i3c 0 ⟨0, 0⟩ (bytes 2049)).wellFormed = false ∧ (Instr.i3cPrivateWrite (bytes 2049)).wellFormed = false ∧
    (Instr.operatorKey 0 false []).wellFormed = false ∧ (Instr.auth (.response [])).wellFormed = false := by decide +kernel

theorem test_ill_steps : (Instr.shape 0 0 0 0 65536 0 0 0).wellFormed = false ∧
    (Instr.phraseStart 0 0 { phrase0 with params := List.replicate 11 0 }).wellFormed = false ∧
    (Instr.muLoad 0 .int8 (List.replicate 33 { addr := 0, first := 0 })).wellFormed = false ∧
    (Instr.lock 0 0 0 (List.replicate 1025 none) 0).wellFormed = false ∧
    (Instr.tokenHandoff 0 0 0 [⟨0, List.replicate 10 0, [], [], [], 0⟩]).wellFormed = false ∧
    (Instr.tokenHandoff 0 0 0 [⟨0, [], List.replicate 10 [], [], [], 0⟩]).wellFormed = false ∧
    (Instr.tokenHandoff 0 0 0 [⟨4096, [], [], [], [], 0⟩]).wellFormed = false := by decide +kernel

theorem test_ill_experts : (Instr.routingPass 0 0 0 0 [tok, { tok with logits := [] }]).wellFormed = false ∧
    (Instr.dispatch 0 0 (hdrOf 0) 0 []).wellFormed = false ∧ (Instr.combine 0 0 (hdrOf 1) 0 []).wellFormed = false := by decide +kernel

theorem test_ill_barges : (Instr.towPost 0 0 tow [{ barge with src := .lpddr 1024 0 }]).wellFormed = false ∧
    (Instr.bargeArrival 0 { barge with dst := .flash 1024 0 0 } []).wellFormed = false ∧
    (Instr.chunkReload 0 0 0 (bytes 65535) true true).wellFormed = false ∧
    (Instr.grantArrival { grant with grant := 1 }).wellFormed = false ∧
    (Instr.grantArrival { grant with data := bytes 2049 }).wellFormed = false ∧
    (Instr.grantArrival { grant with queueFlits := List.replicate 33 flit }).wellFormed = false ∧
    (Instr.grantArrival { grant with queueFlits := [{ flit with payload := [] }] }).wellFormed = false ∧ (Instr.gack 0 0 2 1).wellFormed = false := by
  decide +kernel

theorem test_ill_board : (Instr.thermalSample [] 0).wellFormed = false ∧
    (Instr.startUp { good with towpathUp := List.replicate 7 0 }).wellFormed = false ∧
    (Instr.sysRstRise { good with switchUp := List.replicate 85 0 }).wellFormed = false ∧
    (Instr.startUp good).wellFormed = true := by decide +kernel

end Sys2Proof.Tests
end

section
/-! SUPPORT. A border filter that refuses a flit (R31, R32): what the refusal changes, and that a ROUTE word and a queue flit reach it. -/

namespace Sys2Proof.Machine

/-- A map of the values that keeps a feature of each value keeps it of every key, listed or not. -/
theorem Tbl.get_map_feature {α β : Type} {d : α} {f : α → α} (g : α → β) (h : ∀ v, g (f v) = g v) (k : Nat) (t : Tbl α) :
    g (Tbl.get d k (t.map fun e => (e.1, f e.2))) = g (Tbl.get d k t) := by
  induction t with
  | nil => rfl
  | cons e t ih =>
    obtain ⟨j, v⟩ := e
    by_cases hk : k = j
    · simp [Tbl.get, hk, h]
    · simpa [Tbl.get, hk] using ih

namespace State

/-! ### An array fault (R140) -/

theorem record_trace_only (s : State) (b n : Nat) (c : Byte) (x : BitVec 48) :
    s.record b n c x = { s with trace := (s.record b n c x).trace } := by
  unfold record
  simp only []
  repeat' split
  all_goals rfl

@[simp] theorem basin_record (s : State) (b n : Nat) (c : Byte) (x : BitVec 48) (a : Nat) : (s.record b n c x).basin a = s.basin a := by
  rw [record_trace_only]; rfl

@[simp] theorem tile_record (s : State) (b n : Nat) (c : Byte) (x : BitVec 48) (a : Nat) : (s.record b n c x).tile a = s.tile a := by
  rw [record_trace_only]; rfl

/-- A pound holds at its next step boundary. -/
def holdPound (p : Pound) : Pound := { p with held := true }

/-- Every pound that a basin lists holds. -/
def holdPounds (x : Basin) : Basin := { x with pounds := x.pounds.map fun e => (e.1, holdPound e.2) }

theorem pound_holdPounds_feature {β : Type} (g : Pound → β) (h : ∀ v, g (holdPound v) = g v) (p : Nat) (x : Basin) :
    g ((holdPounds x).pound p) = g (x.pound p) :=
  Tbl.get_map_feature g h p x.pounds

/-- The pounds of some basins hold. -/
def holdBasins (s : State) (bs : List Nat) : State := bs.foldl (fun u i => u.modBasin i holdPounds) s

theorem basin_holdBasins_feature {β : Type} (g : Basin → β) (h : ∀ x, g (holdPounds x) = g x) (bs : List Nat) (s : State) (b : Nat) :
    g ((s.holdBasins bs).basin b) = g (s.basin b) := by
  induction bs generalizing s with
  | nil => rfl
  | cons i bs ih =>
    have step : g ((s.modBasin i holdPounds).basin b) = g (s.basin b) := by
      by_cases hb : b = i
      · rw [hb, basin_modBasin, h]
      · rw [basin_modBasin_other _ _ hb]
    exact (ih _).trans step

theorem holdBasins_basins_only (bs : List Nat) (s : State) : s.holdBasins bs = { s with basins := (s.holdBasins bs).basins } := by
  induction bs generalizing s with
  | nil => rfl
  | cons i bs ih => exact ih (s.modBasin i holdPounds)

@[simp] theorem tile_holdBasins (bs : List Nat) (s : State) (t : Nat) : (s.holdBasins bs).tile t = s.tile t := by
  rw [holdBasins_basins_only]; rfl

@[simp] theorem drops_holdBasins (bs : List Nat) (s : State) (b : Nat) : ((s.holdBasins bs).basin b).drops = (s.basin b).drops :=
  basin_holdBasins_feature Basin.drops (fun _ => rfl) bs s b

@[simp] theorem pound_stopped_holdBasins (bs : List Nat) (s : State) (b p : Nat) :
    (((s.holdBasins bs).basin b).pound p).stopped = ((s.basin b).pound p).stopped :=
  basin_holdBasins_feature (fun x => (x.pound p).stopped) (pound_holdPounds_feature Pound.stopped (fun _ => rfl) p) bs s b

@[simp] theorem pound_fault_holdBasins (bs : List Nat) (s : State) (b p : Nat) :
    (((s.holdBasins bs).basin b).pound p).fault = ((s.basin b).pound p).fault :=
  basin_holdBasins_feature (fun x => (x.pound p).fault) (pound_holdPounds_feature Pound.fault (fun _ => rfl) p) bs s b

/-- Tile `t` stops. -/
def stopTile (s : State) (t : Nat) : State := s.modTile t fun x => { x with core := { x.core with stopped := true } }

/-- The pound on whose behalf a fault is raised stops with it. -/
def failPound (s : State) (hp : Option (Nat × Nat)) (f : ArrayFault) (cyc : Nat) : State :=
  match hp with
  | some q => s.modPound q.1 q.2 fun p => p.failed f cyc
  | none => s

theorem failPound_basins_only (s : State) (hp : Option (Nat × Nat)) (f : ArrayFault) (cyc : Nat) :
    s.failPound hp f cyc = { s with basins := (s.failPound hp f cyc).basins } := by
  cases hp <;> rfl

@[simp] theorem tile_failPound (s : State) (hp : Option (Nat × Nat)) (f : ArrayFault) (cyc t : Nat) :
    (s.failPound hp f cyc).tile t = s.tile t := by
  rw [failPound_basins_only]; rfl

@[simp] theorem pound_modPound (s : State) (h p : Nat) (f : Pound → Pound) :
    ((s.modPound h p f).basin h).pound p = f ((s.basin h).pound p) := by
  simp [modPound, Basin.modPound, Basin.pound]

/-- A change of a pound changes nothing of any basin but its pounds. -/
theorem basin_modPound_pounds_only (s : State) (h p : Nat) (f : Pound → Pound) (b : Nat) :
    (s.modPound h p f).basin b = { s.basin b with pounds := ((s.modPound h p f).basin b).pounds } := by
  by_cases hb : b = h
  · subst hb; simp [modPound, Basin.modPound]
  · simp [modPound, basin_modBasin_other _ _ hb]

@[simp] theorem drops_failPound (s : State) (hp : Option (Nat × Nat)) (f : ArrayFault) (cyc b : Nat) :
    ((s.failPound hp f cyc).basin b).drops = (s.basin b).drops := by
  cases hp with
  | none => rfl
  | some q => rw [failPound, basin_modPound_pounds_only]

/-- An array fault in named steps: tile, pound, the other pounds of the slice, and a trace record. -/
theorem faultOf_eq (s : State) (t : Nat) (hp : Option (Nat × Nat)) (f : ArrayFault) (cyc : Nat) :
    ∃ bs b n c x, s.faultOf t hp f cyc = (((s.stopTile t).failPound hp f cyc).holdBasins bs).record b n c x :=
  ⟨_, _, _, _, _, rfl⟩

/-! ### A border filter refuses a flit (R32) -/

/-- `t` is `s` after the border of tile `i` refused a flit of pound `hp`: it is counted on the sending side, the tile stops as `y`, and so does the
pound, with UNIT_FAULT unless it has failed before. -/
def BorderRefused (s t : State) (i : Nat) (hp : Option (Nat × Nat)) (y : Tile) : Prop :=
  (t.basin (tileBasin i)).drops = satAdd (s.basin (tileBasin i)).drops 1 ∧
  t.tile i = { y with core := { y.core with stopped := true } } ∧
  (∀ q, hp = some q → ((t.basin q.1).pound q.2).stopped = true ∧
    ((t.basin q.1).pound q.2).fault = some (((s.basin q.1).pound q.2).fault.getD .unit)) ∧
  (∀ j, j ≠ i → t.tile j = s.tile j) ∧
  t = { s with tiles := t.tiles, basins := t.basins, trace := t.trace }

/-- What the tile did before the border refused its flit shows in the tile alone. -/
theorem BorderRefused.of_modTile {s t : State} {i : Nat} {hp : Option (Nat × Nat)} {y : Tile} {g : Tile → Tile}
    (h : BorderRefused (s.modTile i g) t i hp y) : BorderRefused s t i hp y := by
  obtain ⟨hdrops, htile, hpound, hothers, hframe⟩ := h
  exact ⟨hdrops, htile, hpound, fun j hj => (hothers j hj).trans (tile_modTile_other _ _ hj), hframe⟩

/-- A count of a refused flit leaves every pound as it was. -/
theorem pound_countDrop (s : State) (a b p : Nat) :
    ((s.modBasin a fun x => { x with drops := satAdd x.drops 1 }).basin b).pound p = (s.basin b).pound p := by
  by_cases hb : b = a
  · subst hb; rw [basin_modBasin]; rfl
  · rw [basin_modBasin_other _ _ hb]

theorem borderDrop_refused (s : State) (i : Nat) (hp : Option (Nat × Nat)) (cyc : Nat) :
    BorderRefused s (s.borderDrop i hp cyc) i hp (s.tile i) := by
  unfold borderDrop
  obtain ⟨bs, b, n, c, x, heq⟩ :=
    (s.modBasin (tileBasin i) fun x => { x with drops := satAdd x.drops 1 }).faultOf_eq i hp .unit cyc
  rw [heq]
  refine ⟨?drops, ?tile, ?pound, ?others, ?frame⟩
  case drops => simp [stopTile]
  case tile => simp [stopTile]
  case pound =>
    rintro q rfl
    simp [failPound, Pound.failed, stopTile, pound_countDrop]
  case others =>
    intro j hj
    simp [stopTile, tile_modTile_other _ _ hj]
  case frame =>
    rw [record_trace_only, holdBasins_basins_only, failPound_basins_only]
    rfl

theorem queueDrop_refused (s : State) (u : Nat) (f : QFlit) :
    BorderRefused s (s.queueDrop u f) u (producerOf (s.flitQueue f)) (s.tile u) :=
  borderDrop_refused ..

theorem borderOpen_iff {s : State} {a b : Nat} (h : a ≠ b) :
    s.borderOpen a b = true ↔ (s.basin a).sliceId ≠ 0 ∧ (s.basin a).sliceId = (s.basin b).sliceId := by
  simp [borderOpen, h]

theorem borderOpen_eq_false {s : State} {a b : Nat} (h : a ≠ b)
    (hs : (s.basin a).sliceId = 0 ∨ (s.basin a).sliceId ≠ (s.basin b).sliceId) : s.borderOpen a b = false := by
  rw [Bool.eq_false_iff, ne_eq, borderOpen_iff h]
  rintro ⟨hz, he⟩
  exact hs.elim hz fun hn => hn he

@[simp] theorem borderOpen_modTile (s : State) (t : Nat) (f : Tile → Tile) (a b : Nat) :
    (s.modTile t f).borderOpen a b = s.borderOpen a b := rfl

/-! ### What issuing a schedule word leaves alone (R101, R241) -/

theorem taintTile_basins_only (s : State) (t : Nat) : s.taintTile t = { s with basins := (s.taintTile t).basins } := by
  unfold taintTile
  split <;> rfl

theorem basin_taintTile_pounds_only (s : State) (t b : Nat) :
    (s.taintTile t).basin b = { s.basin b with pounds := ((s.taintTile t).basin b).pounds } := by
  unfold taintTile
  split
  · exact basin_modPound_pounds_only ..
  · rfl

theorem basin_consume_pounds_only (s : State) (t : Nat) (sp : Space) (w n b : Nat) :
    (s.consume t sp w n).basin b = { s.basin b with pounds := ((s.consume t sp w n).basin b).pounds } := by
  unfold consume
  split
  · exact basin_taintTile_pounds_only ..
  · rfl

@[simp] theorem tile_taintTile (s : State) (t j : Nat) : (s.taintTile t).tile j = s.tile j := by
  rw [taintTile_basins_only]; rfl

@[simp] theorem net_consume (s : State) (t : Nat) (sp : Space) (w n : Nat) : ((s.consume t sp w n).tile t).net = (s.tile t).net := by
  unfold consume
  split <;> simp

theorem tile_consume_other (s : State) {j t : Nat} (sp : Space) (w n : Nat) (h : j ≠ t) : (s.consume t sp w n).tile j = s.tile j := by
  unfold consume
  split
  · simp [tile_modTile_other _ _ h]
  · rfl

@[simp] theorem now_consume (s : State) (t : Nat) (sp : Space) (w n : Nat) : (s.consume t sp w n).now = s.now := by
  unfold consume
  split
  · rw [taintTile_basins_only]; rfl
  · rfl

end State

section
variable {s u : State} {i : Nat} {o : SchedOp}

theorem Issues.now (h : Issues s i o u) : u.now = s.now := by
  obtain ⟨-, -, -, -, rfl⟩ := h
  simp [State.issued]

theorem Issues.net (h : Issues s i o u) : (u.tile i).net = (s.tile i).net := by
  obtain ⟨-, -, -, -, rfl⟩ := h
  simp [State.issued]

theorem Issues.tile_other (h : Issues s i o u) {j : Nat} (hj : j ≠ i) : u.tile j = s.tile j := by
  obtain ⟨-, -, -, -, rfl⟩ := h
  rw [State.issued, State.tile_modTile_other _ _ hj, State.tile_consume_other _ _ _ _ hj]

theorem Issues.basin_pounds_only (h : Issues s i o u) (b : Nat) : u.basin b = { s.basin b with pounds := (u.basin b).pounds } := by
  obtain ⟨-, -, -, -, rfl⟩ := h
  exact State.basin_consume_pounds_only ..

theorem Issues.rowMap (h : Issues s i o u) : u.rowMap = s.rowMap := by
  funext r
  unfold State.rowMap
  rw [h.basin_pounds_only]
  rfl

theorem Issues.neighbour (h : Issues s i o u) (t : Nat) (d : Side) : u.neighbour t d = s.neighbour t d := by
  simp only [State.neighbour, State.position, State.tileAt, h.rowMap]

theorem Issues.slack (h : Issues s i o u) (t : Nat) (f : Flit) : u.slack t f = s.slack t f := by
  simp only [State.slack, State.position, State.crossed, h.rowMap]

theorem Issues.borderOpen (h : Issues s i o u) (a b : Nat) : u.borderOpen a b = s.borderOpen a b := by
  have slice : ∀ b, (u.basin b).sliceId = (s.basin b).sliceId := fun b => by rw [h.basin_pounds_only]
  simp only [State.borderOpen, slice]

theorem Issues.drops (h : Issues s i o u) (b : Nat) : (u.basin b).drops = (s.basin b).drops := by
  rw [h.basin_pounds_only]

/-- A word that issues does what its row gives the operation. -/
theorem Issues.issueWord (h : Issues s i o u) {f : SchedOp → Option (State → State)} {body : State → State} (hf : f o = some body) :
    s.issueWord i f = body u := by
  obtain ⟨hissues, hdecode, hover, hused, rfl⟩ := h
  have hone : (decide (schedWait (s.fetch i) = 0) && (s.tile i).core.used.contains o.unit) = false := by
    by_cases hw : schedWait (s.fetch i) = 0
    · rw [hused hw, Bool.and_false]
    · rw [decide_eq_false hw, Bool.false_and]
  simp only [State.issueWord, hissues, hdecode, hf, hover, hone, Bool.not_true, Bool.false_eq_true, if_false]

end

/-! ### A ROUTE word that drives one output from one side (R106, R111) -/

/-- The word drives output `o` alone, from side `e`. -/
def RouteCfg.HandsOn (c : RouteCfg) (e o : Side) : Prop := ∀ d, c.source d = if d = o then .side e else .none

section
variable {c : RouteCfg} {o e : Side}

theorem RouteCfg.HandsOn.source (h : c.HandsOn e o) (d : Side) : c.source d = if d = o then .side e else .none := h d

theorem RouteCfg.HandsOn.outputs (h : c.HandsOn e o) : c.outputs (.side e) = [o] := by
  simp only [RouteCfg.outputs, h.source]
  cases o <;> cases e <;> rfl

theorem RouteCfg.HandsOn.outputs_tile (h : c.HandsOn e o) : c.outputs .tile = [] := by
  simp only [RouteCfg.outputs, h.source]
  cases o <;> rfl

theorem RouteCfg.HandsOn.consumed (h : c.HandsOn e o) (hown : c.own = .none) : c.consumed = [e] := by
  simp only [RouteCfg.consumed, RouteCfg.outputs, h.source, hown]
  cases o <;> cases e <;> rfl

theorem RouteCfg.HandsOn.driven (h : c.HandsOn e o) : (allSides.filter fun d => c.source d != .none) = [o] := by
  simp only [h.source]
  cases o <;> rfl

theorem RouteCfg.HandsOn.straight (h : c.HandsOn e o) : c.straight e = decide (o = oppositeSide e) := by
  rw [RouteCfg.straight, h.outputs]
  cases o <;> cases e <;> rfl

theorem State.readyAt_of_handsOn (h : c.HandsOn e o) (s : State) (t a : Nat) (f : Flit) :
    s.readyAt t c e a f = if eastWest e = true ∧ o ≠ oppositeSide e then a + s.slack t f else a := by
  simp [State.readyAt, h.straight]

end

namespace State

/-- A pound flit that would cross a closed border is refused there. -/
theorem launch_closed_border {s : State} {t u : Nat} {d : Side} (n x : Nat) (f : Flit) (hu : s.neighbour t d = some u)
    (hb : s.borderOpen (tileBasin t) (tileBasin u) = false) : launch (n + 1) s t d x f = s.borderDrop t (s.poundOf t) x := by
  simp [launch, hu, hb]

theorem routeOwn_of_no_own {c : RouteCfg} (s : State) (t : Nat) (ho : c.outputs .tile = []) (hown : c.own = .none) :
    s.routeOwn t c = s := by
  simp [routeOwn, ho, hown]

end State

/-- A ROUTE word has taken the only flit that stood in the input of a side. -/
def Tile.tookOnly (y : Tile) (d : Side) : Tile :=
  { y with net := { y.net with
      inq := Tbl.set [] (sideCode d) [] y.net.inq,
      route := y.net.route.map fun w => { w with used := Tbl.set 0 (sideCode d) 1 w.used } } }

@[simp] theorem Tile.input_tookOnly (y : Tile) (d : Side) : (y.tookOnly d).net.input d = [] := by
  simp [Tile.tookOnly, TileNet.input]

namespace State

/-- A ROUTE word of one cycle that hands on the one flit of a side by one output: the flit leaves the input register and goes on from there. -/
theorem routeSide_one_flit {s : State} {t a : Nat} {c : RouteCfg} {d o : Side} {f : Flit} (hin : (s.tile t).net.input d = [(a, f)])
    (hc : c.cycles = 1) (hready : s.readyAt t c d a f ≤ c.start) (hown : c.own = .none) (hout : c.outputs (.side d) = [o]) :
    routeSide t c d 1 0 s = launch 66 (s.modTile t (·.tookOnly d)) t o c.start ((s.modTile t (·.tookOnly d)).outFlit t (.side d) o f) := by
  have hlate : ¬ c.start < s.readyAt t c d a f := Nat.not_lt.2 hready
  simp [routeSide, hin, hc, hlate, hown, hout, Tile.tookOnly]

/-- The same where the output meets a closed border. -/
theorem routeSide_closed_border {s : State} {t u a : Nat} {c : RouteCfg} {d o : Side} {f : Flit} (hin : (s.tile t).net.input d = [(a, f)])
    (hc : c.cycles = 1) (hready : s.readyAt t c d a f ≤ c.start) (hown : c.own = .none) (hout : c.outputs (.side d) = [o])
    (hu : s.neighbour t o = some u) (hb : s.borderOpen (tileBasin t) (tileBasin u) = false) :
    routeSide t c d 1 0 s = (s.modTile t (·.tookOnly d)).borderDrop t (s.poundOf t) c.start := by
  rw [routeSide_one_flit hin hc hready hown hout]
  exact launch_closed_border 65 c.start _ hu hb

end State

/-- A ROUTE word stands in a tile's router. -/
def Tile.withRoute (y : Tile) (c : RouteCfg) : Tile := { y with net := { y.net with route := some c } }

/-- The router's part of a ROUTE word of one cycle that gives the tile itself nothing, as it begins. -/
def RouteCfg.oneCycle (n e v w : RouteSrc) (start : Nat) (src dst : OpAddr) (acc : Option Nat) : RouteCfg :=
  { n := n, e := e, s := v, w := w, own := .none, start := start, cycles := 1, used := [], src := src, dst := dst, acc := acc }

theorem RouteCfg.handsOn_oneCycle {p : Side → RouteSrc} {e o : Side} (hp : p = fun d => if d = o then .side e else .none)
    (start : Nat) (src dst : OpAddr) (acc : Option Nat) :
    (RouteCfg.oneCycle (p .north) (p .east) (p .south) (p .west) start src dst acc).HandsOn e o := by
  subst hp
  intro d
  cases d <;> rfl

/-- A ROUTE word of one cycle whose one output the pound may drive, after a word that was fed: it takes side `e` and nothing else. -/
theorem routeWord_one_source {s : State} {t phase : Nat} {n e' v w : RouteSrc} {o e : Side} {src dst : OpAddr} {acc : Option Nat}
    {c : RouteCfg} (hc : c = .oneCycle n e' v w (s.tile t).core.cyc src dst acc)
    (hsrc : c.HandsOn e o) (hcycle : frameCycle s.now phase ≠ 0) (hgiven : (s.tile t).given o (frameCycle s.now phase) = true)
    (hfed : ∀ r, (s.tile t).net.route = some r → r.fed (s.tile t).core.cyc = true) :
    routeWord t n e' v w .none 1 phase src dst acc s = State.routeSide t c e 1 0 (s.modTile t (·.withRoute c)) := by
  have hown : c.own = .none := by rw [hc]; rfl
  have hmod : frameCycle s.now phase % 64 = frameCycle s.now phase := Nat.mod_mod ..
  have hdriven := hsrc.driven
  have hconsumed := hsrc.consumed hown
  have hnone := fun u => State.routeOwn_of_no_own u t hsrc.outputs_tile hown
  subst hc
  unfold RouteCfg.oneCycle at *
  unfold routeWord
  cases hroute : (s.tile t).net.route <;>
    simp [hroute, hfed, hdriven, hconsumed, hnone, hmod, hcycle, hgiven, Tile.withRoute]

/-- Such a word whose output meets a closed border: the one flit of side `e` is taken and refused. -/
theorem routeWord_closed_border {s : State} {t u a phase : Nat} {n e' v w : RouteSrc} {o e : Side} {f : Flit} {src dst : OpAddr}
    {acc : Option Nat} {c : RouteCfg} (hc : c = .oneCycle n e' v w (s.tile t).core.cyc src dst acc)
    (hsrc : c.HandsOn e o) (hcycle : frameCycle s.now phase ≠ 0) (hgiven : (s.tile t).given o (frameCycle s.now phase) = true)
    (hfed : ∀ r, (s.tile t).net.route = some r → r.fed (s.tile t).core.cyc = true) (hin : (s.tile t).net.input e = [(a, f)])
    (hready : s.readyAt t c e a f ≤ (s.tile t).core.cyc) (hu : s.neighbour t o = some u)
    (hb : s.borderOpen (tileBasin t) (tileBasin u) = false) :
    routeWord t n e' v w .none 1 phase src dst acc s =
      ((s.modTile t (·.withRoute c)).modTile t (·.tookOnly e)).borderDrop t (s.poundOf t) (s.tile t).core.cyc := by
  have hown : c.own = .none := by rw [hc]; rfl
  have hstart : c.start = (s.tile t).core.cyc := by rw [hc]; rfl
  have hin' : ((s.modTile t (·.withRoute c)).tile t).net.input e = [(a, f)] := by rw [State.tile_modTile]; exact hin
  rw [routeWord_one_source hc hsrc hcycle hgiven hfed, ← hstart]
  exact State.routeSide_closed_border hin' (by rw [hc]; rfl) (hstart ▸ hready) hown hsrc.outputs hu hb

/-! ### A queue flit at a closed border (R113, R114) -/

/-- A queue flit has left a tile, from those on their way or from the egress buffer. -/
def Tile.sent (y : Tile) (moving : Bool) (f : QFlit) : Tile :=
  { y with net := if moving then { y.net with transit := y.net.transit.erase f } else { y.net with egress := y.net.egress.erase f } }

/-- An output keeps what it sent for a replay (R250). -/
def Tile.keepsSent (y : Tile) (d : Side) (f : QFlit) : Tile :=
  { y with net := { y.net with last := Tbl.mod [] (sideCode d) (keepLast · f) y.net.last } }

/-- The next queue flit of the neighbour on a side meets a closed border: it leaves the neighbour and is refused. -/
theorem queueFlitArrival_closed_border {s : State} {t u phase : Nat} {side : Side} {flip : BitVec 16} {f : QFlit}
    (hu : s.neighbour t side = some u) (hcycle : frameCycle s.now phase ≠ 0)
    (hnext : ((s.tile u).net.transit.find? fun g => s.leavesBy u (oppositeSide side) g) = some f ∨
      (((s.tile u).net.transit.find? fun g => s.leavesBy u (oppositeSide side) g) = none ∧
        ((s.tile u).net.egress.find? fun g => s.leavesBy u (oppositeSide side) g &&
          (s.flitQueue g).launch.getLsbD (frameCycle s.now phase)) = some f))
    (hfree : (s.tile u).given (oppositeSide side) (frameCycle s.now phase) = false)
    (hb : s.borderOpen (tileBasin u) (tileBasin t) = false) :
    ∃ moving, queueFlitArrival t side phase flip s =
      ((s.modTile u (·.sent moving f)).modTile u (·.keepsSent (oppositeSide side) f)).queueDrop u f := by
  rcases hnext with htransit | ⟨htransit, hegress⟩
  · refine ⟨true, ?_⟩
    simp [queueFlitArrival, hu, hcycle, htransit, hfree, hb, Tile.sent, Tile.keepsSent]
  · refine ⟨false, ?_⟩
    simp [queueFlitArrival, hu, hcycle, htransit, hegress, hfree, hb, Tile.sent, Tile.keepsSent]

/-! ### The rows ROUTE and QUEUE_FLIT_ARRIVAL -/

/-- The row ROUTE runs the word that the tile issues. -/
theorem exec_route {s u : State} {i : TileId} {ph : Fin 10} {x y : OpAddr} {acc : Option (BitVec 5)} {n e v w own : RouteSrc} {r : BitVec 6}
    (h : Issues s i.val (.route n e v w own r) u) :
    exec (.route i ph x y acc) s = .next (routeWord i.val n e v w own (r.toNat + 1) ph.val x y (acc.map (·.toNat)) u) :=
  congrArg Host.Outcome.next (h.issueWord rfl)

/-- Settles O57: both rows come to `State.borderDrop`, and the issue of the ROUTE word before it changes no count and no other tile. -/
theorem borderFiltersDiscardForeignFlits : Obligations.BorderFiltersDiscardForeignFlits := by
  refine ⟨fun s a b => State.borderOpen_iff, ?route, ?queue⟩
  case route =>
    intro s u i o e ph x y acc pick a w f hpick hissue hcycle hgiven hfed hin hready hw hne hslice
    have hsrc := RouteCfg.handsOn_oneCycle hpick (u.tile i.val).core.cyc x y (acc.map (·.toNat))
    have hword := routeWord_closed_border (phase := ph.val) rfl hsrc (by rwa [hissue.now])
      (by rwa [hissue.now, Tile.given, hissue.net]) (by rwa [hissue.net]) (by rwa [hissue.net])
      (by rwa [State.readyAt_of_handsOn hsrc, hissue.slack]) (by rwa [hissue.neighbour])
      (by rw [hissue.borderOpen]; exact State.borderOpen_eq_false hne.symm hslice)
    refine ⟨_, (exec_route hissue).trans (congrArg _ hword), ?_⟩
    obtain ⟨hdrops, htile, hpound, hothers, hframe⟩ := (State.borderDrop_refused _ i.val (u.poundOf i.val) _).of_modTile.of_modTile
    refine ⟨by rw [hdrops, hissue.drops], by rw [htile], hpound, ?_, fun j hj => (hothers j hj).trans (hissue.tile_other hj), hframe⟩
    rw [htile]
    simp
  case queue =>
    rintro s i d ph flip f u fc _ hu hne rfl rfl hcycle hnext hfree hslice
    obtain ⟨moving, hrow⟩ :=
      queueFlitArrival_closed_border (flip := flip) hu hcycle hnext hfree (State.borderOpen_eq_false hne hslice)
    refine ⟨_, congrArg Host.Outcome.next hrow, ?_⟩
    obtain ⟨hdrops, htile, hpound, hothers, hframe⟩ := (State.queueDrop_refused _ u f).of_modTile.of_modTile
    exact ⟨hdrops, by rw [htile], hpound, hothers, hframe⟩

end Sys2Proof.Machine
end

section
/-! SUPPORT. Deletion of a stored object (R302): when STORE_DELETE refuses, what it changes otherwise, and how both reach the host. -/

namespace Sys2Proof.Machine

/-! ### What a change of the endpoint leaves alone -/

theorem EndpointOnly.store {s t : State} (h : EndpointOnly s t) : t.store = s.store := by rw [show t = _ from h]
theorem EndpointOnly.flash {s t : State} (h : EndpointOnly s t) : t.flash = s.flash := by rw [show t = _ from h]
theorem EndpointOnly.tiles {s t : State} (h : EndpointOnly s t) : t.tiles = s.tiles := by rw [show t = _ from h]
theorem EndpointOnly.man {s t : State} (h : EndpointOnly s t) : t.man = s.man := by rw [show t = _ from h]

/-! ### A short command whose own checks answer -/

/-- A command of a short class begins with no ACCEPTED before it (R418). -/
theorem State.begun_of_short {cmd : HostCmd} (hshort : longClass (classOf (opcodeOf cmd)) = false) (s : State) (x : Session) (h : Hdr) :
    s.begun x h cmd = s.heard x h cmd := by
  simp [State.begun, hshort]

/-- A short command that its own checks refuse changes the endpoint alone, and the reply cache holds the refusal. -/
theorem receive_of_refused {s : State} {x : Session} {h : Hdr} {cmd : HostCmd} {st : Status} (w : Starts s x h cmd)
    (hshort : longClass (classOf (opcodeOf cmd)) = false) (hst : st ≠ .ok)
    (hrun : runCommand (x.heard h s.now) h cmd (s.heard x h cmd) = refuse (s.heard x h cmd) st) :
    EndpointOnly s (s.receive h cmd) ∧ Replied (s.receive h cmd) h st 0 0 [] := by
  have hclass : classOf (opcodeOf cmd) ≠ 13 := w.2.2.1
  have hreply : s.receive h cmd = (s.heard x h cmd).finalReply h.session.toNat x.scope h cmd st 0 0 [] := by
    rw [exec_done w (by simp [hshort]) (by rw [State.begun_of_short hshort]; exact hrun)]
    simp only [State.afterReply, State.answer, hst, hclass, ne_eq, not_false_eq_true, if_true, if_false]
    rfl
  obtain ⟨y, hy, -, -, -, -, -, -, -, hentry⟩ := State.cache_heard s x h cmd
  rw [hreply]
  exact ⟨(State.heard_endpoint s x h cmd).trans (State.finalReply_endpoint ..),
    State.finalReply_replied hy hentry rfl fun _ => Nat.zero_le _⟩

/-- A short command other than CLOSE_SESSION and ROTATE_KEY, whose own effect leaves the endpoint alone, takes effect: beyond that effect only
the endpoint changes, and the reply cache holds its OK. -/
theorem receive_of_took {s t : State} {x : Session} {h : Hdr} {cmd : HostCmd} (w : Starts s x h cmd)
    (hshort : longClass (classOf (opcodeOf cmd)) = false) (hclose : ∀ f, cmd ≠ .closeSession f) (hrotate : ∀ c, cmd ≠ .rotateKey c)
    (hrun : runCommand (x.heard h s.now) h cmd (s.heard x h cmd) = took t []) (hep : t.ep = (s.heard x h cmd).ep) :
    EndpointOnly t (s.receive h cmd) ∧ Replied (s.receive h cmd) h .ok 1 1 [] := by
  obtain ⟨y, hy, -, -, -, -, -, -, -, hentry⟩ := State.cache_heard s x h cmd
  have hsession : t.session h.session.toNat = some y := by rw [State.session, hep]; exact hy
  exact exec_done_ok w (by simp [hshort]) (by rw [State.begun_of_short hshort]; exact hrun) rfl hclose hrotate hsession hentry rfl
    fun _ => Nat.zero_le _

/-! ### Extents without a place -/

/-- Once some extents are taken out of the map they have no place, and every other extent has the one it had. -/
theorem Tbl.get_foldl_set_zero (k : Nat) (xs : List Nat) (t : Tbl Nat) :
    Tbl.get 0 k (xs.foldl (fun t x => Tbl.set 0 x 0 t) t) = if k ∈ xs then 0 else Tbl.get 0 k t := by
  induction xs generalizing t with
  | nil => simp
  | cons x xs ih =>
    rw [List.foldl_cons, ih]
    by_cases hx : k = x
    · simp [hx]
    · simp [hx, Tbl.get_set_other hx]

/-! ### STORE_DELETE in named steps (R302) -/

/-- HOT, WARM or LOADING: the residency of an object that is in use. -/
def Residency.inUse (r : Residency) : Bool := r == .hot || r == .warm || r == .loading

theorem Residency.inUse_iff {r : Residency} : r.inUse = true ↔ r = .hot ∨ r = .warm ∨ r = .loading := by
  simp [Residency.inUse, or_assoc]

namespace State

/-- A context forgets an object: its pages return to the quota and its entry goes. -/
def forgetResident (m e : Nat) (s : State) (x : Nat × Nat × ResEntry) : State :=
  (s.freeRes x.1 x.2.1 x.2.2).modBasin x.1 fun y => y.modCtx x.2.1 fun z => { z with res := z.res.filter fun r => !(r.model == m && r.edition == e) }

/-- Every context forgets an object. -/
def forgetObject (s : State) (m e : Nat) : State := (s.residents m e).foldl (forgetResident m e) s

/-- An object is deleted: no context knows it, catalog and forward buffer lose it, and its extents have no place and are not bad. -/
def deleteObject (s : State) (m e : Nat) (o : StoreObj) : State :=
  { s.forgetObject m e with
    store := { objects := s.store.objects.filter fun q => !(q.model == m && q.edition == e),
               forward := s.store.forward.filter fun f => !(f.1 == m && f.2.1 == e) }
    flash := { s.flash with
      map := o.extents.foldl (fun t x => Tbl.set 0 x 0 t) s.flash.map,
      badExtents := s.flash.badExtents.filter fun x => !o.extents.contains x } }

theorem forgetObject_basins_only (s : State) (m e : Nat) : s.forgetObject m e = { s with basins := (s.forgetObject m e).basins } := by
  unfold forgetObject
  induction s.residents m e generalizing s with
  | nil => rfl
  | cons x l ih => exact ih (s.forgetResident m e x)

@[simp] theorem forgetObject_store (s : State) (m e : Nat) : (s.forgetObject m e).store = s.store := by rw [forgetObject_basins_only]
@[simp] theorem forgetObject_flash (s : State) (m e : Nat) : (s.forgetObject m e).flash = s.flash := by rw [forgetObject_basins_only]

/-- Deletion changes basins, store and flash alone. -/
theorem deleteObject_frame (s : State) (m e : Nat) (o : StoreObj) : s.deleteObject m e o =
    { s with basins := (s.forgetObject m e).basins, store := (s.deleteObject m e o).store, flash := (s.deleteObject m e o).flash } := by
  rw [deleteObject, forgetObject_basins_only]

/-- A deleted object is not in the catalog. -/
theorem object_deleteObject (s : State) (m e : Nat) (o : StoreObj) : (s.deleteObject m e o).object m e = none := by
  refine List.find?_eq_none.2 fun q hq => ?_
  have hkept : (!(q.model == m && q.edition == e)) = true := (List.mem_filter.1 hq).2
  simpa [imp_iff_not_or] using hkept

/-- Deletion keeps every other object as it was. -/
theorem mem_objects_deleteObject {s : State} {m e : Nat} (o : StoreObj) {q : StoreObj} (hq : q ∈ s.store.objects)
    (hother : q.model ≠ m ∨ q.edition ≠ e) : q ∈ (s.deleteObject m e o).store.objects :=
  List.mem_filter.2 ⟨hq, by rcases hother with hm | he <;> simp [*]⟩

/-- After a deletion the object's extents have no place, and every other extent has the one it had. -/
theorem map_deleteObject (s : State) (m e : Nat) (o : StoreObj) (k : Nat) :
    Tbl.get 0 k (s.deleteObject m e o).flash.map = if k ∈ o.extents then 0 else Tbl.get 0 k s.flash.map :=
  Tbl.get_foldl_set_zero ..

end State

@[simp] theorem State.residents_heard (s : State) (x : Session) (h : Hdr) (cmd : HostCmd) (m e : Nat) :
    (s.heard x h cmd).residents m e = s.residents m e := rfl

/-- STORE_DELETE is of a short class (Table 12.1). -/
theorem longClass_storeDelete (m : BitVec 32) (e : BitVec 16) : longClass (classOf (opcodeOf (.storeDelete m e))) = false := by
  simp [longClass, classOf, opcodeOf]

/-- STORE_DELETE refuses an object that is in use in any context. -/
theorem runStoreDelete_inUse {s : State} {m e : Nat} {o : StoreObj} (ho : s.object m e = some o)
    (huse : ∃ r ∈ s.residents m e, r.2.2.state.inUse = true) : runStoreDelete m e s = refuse s .wrongState := by
  have hany : ((s.residents m e).any fun x => x.2.2.state == .hot || x.2.2.state == .warm || x.2.2.state == .loading) = true :=
    List.any_eq_true.2 huse
  simp only [runStoreDelete, ho, hany, if_true]

/-- STORE_DELETE deletes an object that no context uses, with one journal record. -/
theorem runStoreDelete_unused {s : State} {m e : Nat} {o : StoreObj} (ho : s.object m e = some o)
    (hfree : ∀ r ∈ s.residents m e, ¬ r.2.2.state.inUse = true) : runStoreDelete m e s = took (s.deleteObject m e o).journal [] := by
  have hany : ((s.residents m e).any fun x => x.2.2.state == .hot || x.2.2.state == .warm || x.2.2.state == .loading) = false :=
    List.any_eq_false.2 hfree
  simp only [runStoreDelete, ho, hany, Bool.false_eq_true, if_false, State.deleteObject]
  rw [← State.forgetObject_store s m e, ← State.forgetObject_flash s m e]
  rfl

/-- Settles O56: the two answers of `runStoreDelete`, each taken through the endpoint. -/
theorem storeDeleteSparesObjectsInUse : Obligations.StoreDeleteSparesObjectsInUse := by
  intro s x h m e o w ho
  refine ⟨fun huse => ?refused, fun hfree => ?deleted⟩
  case refused =>
    have hrun := runStoreDelete_inUse (s := s.heard x h (.storeDelete m e)) ho
      (by simpa only [State.residents_heard, Residency.inUse_iff] using huse)
    obtain ⟨hframe, hreply⟩ := receive_of_refused w (longClass_storeDelete m e) (by decide) hrun
    exact ⟨_, rfl, hreply, hframe⟩
  case deleted =>
    have hrun := runStoreDelete_unused (s := s.heard x h (.storeDelete m e)) ho
      (by simpa only [State.residents_heard, Residency.inUse_iff, not_or] using hfree)
    obtain ⟨hframe, hreply⟩ := receive_of_took w (longClass_storeDelete m e) (by simp) (by simp) hrun (by rw [State.deleteObject_frame]; rfl)
    refine ⟨_, rfl, hreply, ?gone, ?freed, ?others, ?catalog, ?journal, ?tiles, ?man⟩
    case gone => rw [State.object, hframe.store]; exact State.object_deleteObject _ _ _ o
    case freed => intro k hk; rw [hframe.flash]; exact (State.map_deleteObject _ m.toNat e.toNat o k).trans (if_pos hk)
    case others => intro k hk; rw [hframe.flash]; exact (State.map_deleteObject _ m.toNat e.toNat o k).trans (if_neg hk)
    case catalog => intro q hq hother; rw [hframe.store]; exact State.mem_objects_deleteObject o hq hother
    case journal => rw [hframe.flash]; rfl
    case tiles => rw [hframe.tiles, State.journal, State.deleteObject_frame]; rfl
    case man => rw [hframe.man, State.journal, State.deleteObject_frame]; rfl

end Sys2Proof.Machine
end
